-- ==== Sys2Proof/Word.lean ====
section
/-! DEFINITION. Word.lean: the widths of the device and the shape of its sparse tables.

Registers are 32 bits wide (R4), the device physical space is byte addressed (R36), and the device counter and
several quantities are 64 bits wide. A `Tab` is a list of (index, value) pairs with rising indices that lists no
value equal to what an unlisted index reads as; its operations stand in Machine/Tab.lean. -/

namespace Sys2Proof

/-- A 32-bit register word (R4). -/
abbrev Word := BitVec 32

/-- A byte of the device physical space (R36). -/
abbrev Byte := BitVec 8

/-- A 64-bit quantity (R4: two words, the low one first). -/
abbrev DWord := BitVec 64

/-- Sparse data by index, in one canonical form. -/
abbrev Tab (α : Type) := List (Nat × α)

/-- Logical tiles 0–15 (R3). -/
abbrev Tile := Fin 16

/-- Physical tiles 0–16 (R3). -/
abbrev PhysTile := Fin 17

/-- Carrier contexts 0–23 (R31). -/
abbrev Carrier := Fin 24

/-- Slide engines: 0–15 by logical tile, 16–19 central (Table 13.2). -/
abbrev EngineNo := Fin 20

/-- Slide channels of one engine (Table 8.1). -/
abbrev ChannelNo := Fin 32

/-- Time bases TB0–TB3 (R336). -/
abbrev BaseNo := Fin 4

end Sys2Proof
end

