-- ==== Sys2Proof/Syntax.lean ====
section
/-! DEFINITION. Syntax.lean: the commands of the NZ-2416, one constructor of `Instr` for each row of
spec/opcode_table.json, with the operands each row takes from outside the device.

The table gives no row any bits, so the operands are those the row's rule names: the register written and its value,
the unit that acts, the fields of a native instruction (Tables 3.8, 3.9), a frame or section received, or a
measurement of the device's surroundings. Commands whose operands wait in a queue of the device (a rod command, a
pass, a slide descriptor, a submission entry) name only the unit, and take the operand from the queue's head. -/

namespace Sys2Proof

/-- Who makes a register access: the host over PCIe, the board controller over SMBus, or Ledger (R443, R489). -/
inductive Writer | pcie | smbus | ledger
  deriving DecidableEq, Repr

/-- Format R of the digit core (Table 3.8). -/
structure DcR where
  sd : BitVec 5
  sa : BitVec 5
  sb : BitVec 5
  func : BitVec 11
  deriving DecidableEq, Repr

/-- Format I (Table 3.8). -/
structure DcI where
  sd : BitVec 5
  sa : BitVec 5
  imm : BitVec 16
  deriving DecidableEq, Repr

/-- Format L (Table 3.8). -/
structure DcL where
  s : BitVec 5
  p : BitVec 3
  inc : BitVec 2
  size : BitVec 2
  disp : BitVec 14
  deriving DecidableEq, Repr

/-- Format C (Table 3.8). -/
structure DcC where
  acc : BitVec 3
  px : BitVec 3
  py : BitVec 3
  cjx : Bool
  cjy : Bool
  neg : Bool
  sat : Bool
  xinc : BitVec 2
  yinc : BitVec 2
  sk : BitVec 5
  reserved : BitVec 4
  deriving DecidableEq, Repr

/-- Format B (Table 3.8). -/
structure DcB where
  always : Bool
  neg : Bool
  cbit : BitVec 3
  offset : BitVec 21
  deriving DecidableEq, Repr

/-- Format P (Table 3.8); `len1` is LEN − 1. -/
structure DcP where
  rot : Bool
  len1 : BitVec 6
  creg : Bool
  count : BitVec 18
  deriving DecidableEq, Repr

/-- A host access through BAR2 (R438, R439): the bytes of a write, or the length of a read. -/
structure Bar2Request where
  offset : BitVec 34
  write : Bool
  data : List Byte
  len : Nat
  deriving DecidableEq, Repr

/-- What a scan of the submission area is attributed to (R445, R446). -/
inductive ScanTrigger
  | tick (n : BaseNo) (mu : Fin 4)
  | period
  deriving DecidableEq, Repr

/-- One PRB, or one block of 12 samples of a link, as received: exponent and 24 mantissas (R274, R308). -/
structure PrbData where
  exp : Nat
  mant : List Int
  deriving DecidableEq, Repr

/-- One U-plane section (R272–R274, R282). -/
structure Section where
  sectionType : Nat
  ef : Bool
  startPrb : Nat
  numPrb : Nat
  compMeth : Nat
  iqWidth : Nat
  payloadLen : Nat
  prbs : List PrbData
  deriving DecidableEq, Repr

/-- Payload of an eCPRI message of type 0: O-RAN sections of one symbol, or link samples (R273, R308). -/
inductive IqPayload
  | oran (frame subframe slot symbol : Nat) (sections : List Section)
  | link (frame offset : Word) (blocks : List PrbData)
  deriving DecidableEq, Repr

/-- An eCPRI message (Table 10.2). -/
structure EcpriMsg where
  revision : Nat
  cBit : Bool
  msgType : Nat
  eaxc : BitVec 16
  seq : Nat
  eBit : Bool
  payload : IqPayload
  deriving DecidableEq, Repr

/-- Kinds of PTP message a slave port receives (Table 12.3). -/
inductive PtpKind | announce | sync | followUp | delayResp | other
  deriving DecidableEq, Repr

/-- A received PTP message (R347, R349): `stamp` is its origin or receive timestamp in units of 2^−16 ns, `rank` the
data set that the alternate BMCA orders masters by, lowest best, and `sfd` the counter value captured at the PCS. -/
structure PtpMsg where
  kind : PtpKind
  domain : Nat
  master : Nat
  rank : Nat
  seq : Nat
  twoStep : Bool
  stamp : Int
  correction : Int
  sfd : Nat
  deriving DecidableEq, Repr

/-- What follows the Ethernet header (R271). -/
inductive FrameBody
  | ecpri (m : EcpriMsg)
  | ptp (m : PtpMsg)
  | other (ethertype : BitVec 16)
  deriving DecidableEq, Repr

/-- A frame at a fronthaul link (R271). -/
structure EthFrame where
  dst : BitVec 48
  vlanTags : Nat
  fcsOk : Bool
  payloadLen : Nat
  body : FrameBody
  deriving DecidableEq, Repr

/-- A fault of nature in a pass or MATVEC: what it adds to the carry of output position (row, col), and whether the
drain shadow sees a written value that differs (R366, R367); `none` is a fault-free pass. -/
inductive CarryFault
  | none
  | carry (row col : Nat) (delta : Word)
  | drain (row col : Nat) (delta : Word)
  | parity
  deriving DecidableEq, Repr

/-- What a slide access meets: its answer, a failure of R230, or a parity error of the channel buffer (R232). -/
inductive AccessAnswer | ok | failed | parity
  deriving DecidableEq, Repr

/-- A board with a scrubber: a logical tile's, the spare's, or the common board (R197, R200). -/
inductive Board
  | tile (t : Tile)
  | spare
  | common
  deriving DecidableEq, Repr

/-- What nature did to the line a scrub read meets: a bit error in ECC word `word` of it, or nothing. -/
inductive Upset
  | none
  | single (word : Nat)
  | double (word : Nat)
  deriving DecidableEq, Repr

/-- Bridge traffic classes (Table 14.3). -/
inductive FlitClass | ctl | req | rsp | sig
  deriving DecidableEq, Repr

/-- What a CTL flit carries beside lock-step records (R264, R403, R404, R407): credits returned for a pool, a pool reset
to the receiver's free count, a recall of a slot's REQ credits and its acknowledgement, and of the pairing the image
identifier and message hash, and the placements by device address. -/
inductive CtlMessage
  | none
  | credits (cls : FlitClass) (slot : Fin 4) (n : Nat)
  | resetPool (cls : FlitClass) (slot : Fin 4) (n : Nat)
  /-- Credits that their holder gives back, at a recall (R264). -/
  | handBack (cls : FlitClass) (slot : Fin 4) (n : Nat)
  | recall (slot : Fin 4)
  | recallAck (slot : Fin 4)
  | pair (imageId hash : List Byte)
  /-- REQ credits of a recalled slot granted again (R407). -/
  | grant (slot : Fin 4) (n : Nat)
  | placed (imageId hash : List Byte) (ranges : List (Nat × Nat))
  /-- Lock-step has stopped on the sender, which with `fault` has put its job in FAULTED (R414, R415). -/
  | lockstepEnd (fault : Bool)
  deriving DecidableEq, Repr

/-- What an RSP flit carries: the transaction it answers, whether the peer performed it, and the data of a read (R405). -/
structure PeerAnswer where
  id : Nat
  ok : Bool
  data : List Byte
  deriving DecidableEq, Repr

/-- A flit at the bridge receiver (R399, R402), with its sequence number on the link. The content of REQ and SIG flits
comes as BRIDGE_PEER_ACCESS and BRIDGE_SIGNAL_RX. -/
structure Flit where
  crcOk : Bool
  seq : Nat
  cls : FlitClass
  slot : Fin 4
  message : CtlMessage
  answer : Option PeerAnswer
  deriving DecidableEq, Repr

/-- The copy of a switch that fails at a device address: one that saves for the job that leaves, or one that loads for
the job that comes (R230, R370). -/
inductive SwitchFault
  | none
  | saving (addr : Nat)
  | loading (addr : Nat)
  deriving DecidableEq, Repr

/-- A switch of jobs as nature has it: the beats that it takes, and the copy that fails in it, if one does. -/
structure SwitchRun where
  beats : Nat
  fail : SwitchFault
  deriving DecidableEq, Repr

/-- A turn of the rod engine of a tile, and whether it meets a parity error of a rod, mask or broadcast register or of the
queue (Table 6.7, cause 11). -/
structure RodTurn where
  tile : Tile
  parity : Bool
  deriving DecidableEq, Repr

/-- An access arriving from the peer (R401): a read of `len` bytes from `addr` on, or a write of bytes at their offsets
from it. -/
structure PeerRequest where
  id : Nat
  slot : Fin 4
  priv : Bool
  write : Bool
  addr : Nat
  len : Nat
  bytes : List (Nat × Byte)
  deriving DecidableEq, Repr

/-- What the peer reports of itself at the start of lock-step (R411). -/
structure PeerLockstep where
  enabled : Bool
  running : Bool
  imageHash : List Byte
  seedHash : List Byte
  chipCount : Nat
  teqAll : Bool
  repair : List Nat
  deriving DecidableEq, Repr

/-- The on-die power monitors of one 10 µs interval, in mW (R423): the physical tiles, common board, Ledger, decode
unit and fabric, then the rails of the fronthaul, PCIe, bridge and HBM interfaces. -/
structure PowerReading where
  tiles : List Nat
  common : Nat
  ledger : Nat
  decode : Nat
  fabric : Nat
  fronthaul : Nat
  pcie : Nat
  bridge : Nat
  hbm : Nat
  deriving DecidableEq, Repr

/-- Causes of a hard reset (Table 16.6). -/
inductive HardCause | resetN | perstN | clock | supply
  deriving DecidableEq, Repr

/-- Events of boot (Table 16.8): HBM training done, a slot copied (or its flash not readable), the verification done, both
Ledger pairs loaded. The flash content stands in the store, so `verified` finds its own outcome. -/
inductive BootEvent | recordRead | hbmTrained | copied (readable : Bool) | verified | initDone
  deriving DecidableEq, Repr

/-- Ports with a SerDes reference clock of their own (R418, R486). -/
inductive SerdesPort | fronthaul (p : Fin 2) | bridge | pcie
  deriving DecidableEq, Repr

/-- The commands of spec/opcode_table.json, in the table's order. -/
inductive Instr where
  /-- REGISTER_WRITE (R9). -/
  | registerWrite (src : Writer) (off : BitVec 26) (val : Word)
  /-- COMMIT (R13). -/
  | commit (src : Writer) (off : BitVec 26) (val : Word)
  /-- BCAST_WRITE (R441). -/
  | bcastWrite (src : Writer) (off : BitVec 26) (val : Word)
  /-- BCAST_READ (R442). -/
  | bcastRead (off : BitVec 26)
  /-- BCAST_HELD_WRITE_APPLY (R441). -/
  | bcastHeldWriteApply (t : Tile)
  /-- TILE_ACCESS_HOLD_RELEASE (R35). -/
  | tileAccessHoldRelease (t : Tile)
  /-- BAR2_ACCESS (R439). -/
  | bar2Access (r : Bar2Request)
  /-- HOST_BAR2_BASE_HI_WRITE (R438). -/
  | hostBar2BaseHiWrite (src : Writer) (val : Word)
  /-- SLOT_TICK (R18). -/
  | slotTick (n : BaseNo) (mu : Fin 4)
  /-- SUBMISSION_SCAN (R445). -/
  | submissionScan (g : ScanTrigger)
  /-- SUB_SCAN_PERIOD_EXPIRY (R445). -/
  | subScanPeriodExpiry 
  /-- SUB_ENABLE (R447). -/
  | subEnable (src : Writer)
  /-- UL_SLOT_PLAN (R20). -/
  | ulSlotPlan 
  /-- DL_SLOT_PLAN (R20). -/
  | dlSlotPlan 
  /-- PLAN_ITEM (R302). -/
  | planItem 
  /-- HARQ_RELEASE (R304). -/
  | harqRelease 
  /-- ETHERNET_FRAME_RX (R271). -/
  | ethernetFrameRx (l : Fin 8) (f : EthFrame)
  /-- RECEPTION_WINDOW_CLOSE (R22). -/
  | receptionWindowClose (c : Carrier) (slot : Word) (sym : Fin 14)
  /-- C_PLANE_SEND (R284). -/
  | cPlaneSend (c : Carrier) (slot : Word) (late : Nat)
  /-- DL_TRANSMIT_WINDOW (R285). -/
  | dlTransmitWindow (c : Carrier) (slot : Word) (sym : Fin 14)
  /-- DL_PAYLOAD_FETCH (R301). -/
  | dlPayloadFetch (c : Carrier) (slot : Word) (item : Nat) (ok : Bool)
  /-- ENCODE_ITEM (R301). -/
  | encodeItem (c : Carrier) (slot : Word) (item : Nat)
  /-- DECODE_RECORD_TAKE (R289). -/
  | decodeRecordTake (c : Carrier)
  /-- LDPC_DECODE_DONE (R292). -/
  | ldpcDecodeDone (e : Fin 8)
  /-- POLAR_DECODE_DONE (R295). -/
  | polarDecodeDone (e : Fin 2)
  /-- TB_DELIVER (R27). -/
  | tbDeliver (c : Carrier) (slot : Word) (item : Nat) (ok : Bool)
  /-- COMPLETION_ENTRY_WRITE (R449). -/
  | completionEntryWrite (r : Fin 8)
  /-- MSIX_COALESCE_EXPIRY (R451). -/
  | msixCoalesceExpiry (r : Fin 8)
  /-- MSIX_VECTOR_UNMASK (R450). -/
  | msixVectorUnmask (v : Fin 64)
  /-- JOB_LOAD (R254). -/
  | jobLoad 
  /-- JOB_BIND (R70). -/
  | jobBind (slot : Fin 4)
  /-- JOB_RUN (R256). -/
  | jobRun (w : SwitchRun)
  /-- JOB_STOP (R251). -/
  | jobStop 
  /-- JOB_UNLOAD (R244). -/
  | jobUnload 
  /-- LEASE_EXPIRY (R248). -/
  | leaseExpiry (i : Fin 128)
  /-- PEER_READ_LANDED (R261). -/
  | peerReadLanded (t : Tile) (data : List Byte)
  /-- PEER_READ_TIMEOUT (R262). -/
  | peerReadTimeout (t : Tile)
  /-- BRIDGE_CREDIT_RECALL_TIMEOUT (R264). -/
  | bridgeCreditRecallTimeout (slot : Fin 4)
  /-- TALLY_ADD_WRITE (R249). -/
  | tallyAddWrite (src : Writer) (n : BitVec 14) (amount : Word)
  /-- TALLY_SUB_WRITE (R249). -/
  | tallySubWrite (src : Writer) (n : BitVec 14) (amount : Word)
  /-- TALLY_COUNT_WRITE (R249). -/
  | tallyCountWrite (src : Writer) (n : BitVec 14) (val : Word)
  /-- TALLY_STATUS_CLEAR (R249). -/
  | tallyStatusClear (n : BitVec 14) (val : Word)
  /-- ACCOUNTING_LOW_READ (R269). -/
  | accountingLowRead (rec : Fin 133) (field : Fin 8)
  /-- DC_NOP (R104). -/
  | dcNop (t : Tile) (f : DcR)
  /-- DC_ADD (R104). -/
  | dcAdd (t : Tile) (f : DcR)
  /-- DC_SUB (R104). -/
  | dcSub (t : Tile) (f : DcR)
  /-- DC_AND (R104). -/
  | dcAnd (t : Tile) (f : DcR)
  /-- DC_OR (R104). -/
  | dcOr (t : Tile) (f : DcR)
  /-- DC_XOR (R104). -/
  | dcXor (t : Tile) (f : DcR)
  /-- DC_SHL (R104). -/
  | dcShl (t : Tile) (f : DcR)
  /-- DC_SHR (R104). -/
  | dcShr (t : Tile) (f : DcR)
  /-- DC_SAR (R104). -/
  | dcSar (t : Tile) (f : DcR)
  /-- DC_ADDI (R104). -/
  | dcAddi (t : Tile) (f : DcI)
  /-- DC_LUI (R104). -/
  | dcLui (t : Tile) (f : DcI)
  /-- DC_CMP (R104). -/
  | dcCmp (t : Tile) (f : DcR)
  /-- DC_MAXX (R93). -/
  | dcMaxx (t : Tile) (f : DcR)
  /-- DC_MINX (R93). -/
  | dcMinx (t : Tile) (f : DcR)
  /-- DC_LD (R80). -/
  | dcLd (t : Tile) (f : DcL)
  /-- DC_ST (R80). -/
  | dcSt (t : Tile) (f : DcL)
  /-- DC_MOVP (R104). -/
  | dcMovp (t : Tile) (f : DcR)
  /-- DC_MVFP (R104). -/
  | dcMvfp (t : Tile) (f : DcR)
  /-- DC_MOVQ (R104). -/
  | dcMovq (t : Tile) (f : DcR)
  /-- DC_CMAC (R90). -/
  | dcCmac (t : Tile) (f : DcC)
  /-- DC_RMAC (R91). -/
  | dcRmac (t : Tile) (f : DcC)
  /-- DC_CLRA (R92). -/
  | dcClra (t : Tile) (f : DcR)
  /-- DC_MOVA (R92). -/
  | dcMova (t : Tile) (f : DcR)
  /-- DC_B (R87). -/
  | dcB (t : Tile) (f : DcB)
  /-- DC_CALL (R86). -/
  | dcCall (t : Tile) (f : DcB)
  /-- DC_RETN (R86). -/
  | dcRetn (t : Tile) (f : DcB)
  /-- DC_REP (R88). -/
  | dcRep (t : Tile) (f : DcP)
  /-- DC_ROT (R78). -/
  | dcRot (t : Tile) (f : DcR)
  /-- DC_AISS (R120). -/
  | dcAiss (t : Tile) (f : DcR)
  /-- DC_RISS (R164). -/
  | dcRiss (t : Tile) (f : DcR)
  /-- DC_SISS (R211). -/
  | dcSiss (t : Tile) (f : DcR)
  /-- DC_AWAIT (R85). -/
  | dcAwait (t : Tile) (f : DcI)
  /-- DC_RWAIT (R85). -/
  | dcRwait (t : Tile) (f : DcI)
  /-- DC_MOVS (R96). -/
  | dcMovs (t : Tile) (f : DcR)
  /-- DC_TSIG (R97). -/
  | dcTsig (t : Tile) (f : DcR)
  /-- DC_TSUB (R97). -/
  | dcTsub (t : Tile) (f : DcR)
  /-- DC_TWAIT (R97). -/
  | dcTwait (t : Tile) (f : DcR)
  /-- DC_TRD (R97). -/
  | dcTrd (t : Tile) (f : DcR)
  /-- DC_TAG (R98). -/
  | dcTag (t : Tile) (f : DcR)
  /-- DC_SHED (R98). -/
  | dcShed (t : Tile) (f : DcR)
  /-- DC_END (R104). -/
  | dcEnd (t : Tile) (f : DcR)
  /-- INTERRUPT_TAKE (R100). -/
  | interruptTake (t : Tile)
  /-- DIGIT_CORE_RESUME (R101). -/
  | digitCoreResume (t : Tile)
  /-- DIGIT_HOLDOFF_EXCEEDED (R102). -/
  | digitHoldoffExceeded (t : Tile)
  /-- ICACHE_INV (R82). -/
  | icacheInv (t : Tile)
  /-- PASS_ADMIT (R110). -/
  | passAdmit (t : Tile)
  /-- PASS_COMPLETE (R111). -/
  | passComplete (t : Tile) (p : Fin 4) (f : CarryFault)
  /-- MATVEC_START (R137). -/
  | matvecStart (t : Tile)
  /-- MATVEC_COMPLETE (R137). -/
  | matvecComplete (t : Tile) (f : CarryFault)
  /-- BA_FEEDER_TIMEOUT (R125). -/
  | baFeederTimeout (t : Tile) (p : Fin 4) (beats : Word)
  /-- FILLER_RAMP_DOWN (R129). -/
  | fillerRampDown (t : Tile) (p : Fin 4)
  /-- ROW_MAP_SWITCH (R133). -/
  | rowMapSwitch (p : PhysTile) (lower : Bool)
  /-- PART_MODE_WRITE (R128). -/
  | partModeWrite (src : Writer) (t : Tile) (val : Word)
  /-- BA_FAULT_CLEAR (R122). -/
  | baFaultClear (src : Writer) (t : Tile) (val : Word)
  /-- ROD_NOP (R165). -/
  | rodNop (t : RodTurn)
  /-- ROD_LDR (R169). -/
  | rodLdr (t : RodTurn)
  /-- ROD_STR (R169). -/
  | rodStr (t : RodTurn)
  /-- ROD_LDM (R165). -/
  | rodLdm (t : RodTurn)
  /-- ROD_STM (R165). -/
  | rodStm (t : RodTurn)
  /-- ROD_BSET (R165). -/
  | rodBset (t : RodTurn)
  /-- ROD_DRAWSET (R168). -/
  | rodDrawset (t : RodTurn)
  /-- ROD_CLIPFLUSH (R181). -/
  | rodClipflush (t : RodTurn)
  /-- ROD_ADD (R170). -/
  | rodAdd (t : RodTurn)
  /-- ROD_SUB (R170). -/
  | rodSub (t : RodTurn)
  /-- ROD_MUL (R170). -/
  | rodMul (t : RodTurn)
  /-- ROD_MIN (R170). -/
  | rodMin (t : RodTurn)
  /-- ROD_MAX (R170). -/
  | rodMax (t : RodTurn)
  /-- ROD_ABS (R170). -/
  | rodAbs (t : RodTurn)
  /-- ROD_NEG (R170). -/
  | rodNeg (t : RodTurn)
  /-- ROD_SHR (R170). -/
  | rodShr (t : RodTurn)
  /-- ROD_SHL (R170). -/
  | rodShl (t : RodTurn)
  /-- ROD_AND (R170). -/
  | rodAnd (t : RodTurn)
  /-- ROD_OR (R170). -/
  | rodOr (t : RodTurn)
  /-- ROD_XOR (R170). -/
  | rodXor (t : RodTurn)
  /-- ROD_SEL (R170). -/
  | rodSel (t : RodTurn)
  /-- ROD_CVT (R171). -/
  | rodCvt (t : RodTurn)
  /-- ROD_MOV (R165). -/
  | rodMov (t : RodTurn)
  /-- ROD_CMPLT (R165). -/
  | rodCmplt (t : RodTurn)
  /-- ROD_CMPEQ (R165). -/
  | rodCmpeq (t : RodTurn)
  /-- ROD_MAND (R165). -/
  | rodMand (t : RodTurn)
  /-- ROD_MOR (R165). -/
  | rodMor (t : RodTurn)
  /-- ROD_MXOR (R165). -/
  | rodMxor (t : RodTurn)
  /-- ROD_MNOT (R165). -/
  | rodMnot (t : RodTurn)
  /-- ROD_MSET (R165). -/
  | rodMset (t : RodTurn)
  /-- ROD_RSUM (R172). -/
  | rodRsum (t : RodTurn)
  /-- ROD_RMAX (R172). -/
  | rodRmax (t : RodTurn)
  /-- ROD_RMIN (R172). -/
  | rodRmin (t : RodTurn)
  /-- ROD_ARGMAX (R174). -/
  | rodArgmax (t : RodTurn)
  /-- ROD_ARGMIN (R174). -/
  | rodArgmin (t : RodTurn)
  /-- ROD_COUNT (R175). -/
  | rodCount (t : RodTurn)
  /-- ROD_ANY (R175). -/
  | rodAny (t : RodTurn)
  /-- ROD_COMPRESS (R177). -/
  | rodCompress (t : RodTurn)
  /-- ROD_EXPAND (R178). -/
  | rodExpand (t : RodTurn)
  /-- ROD_MEASURE (R179). -/
  | rodMeasure (t : RodTurn)
  /-- ROD_APPLY (R180). -/
  | rodApply (t : RodTurn)
  /-- ROD_DEQUANT (R180). -/
  | rodDequant (t : RodTurn)
  /-- ROD_FAULT_CLEAR (R184). -/
  | rodFaultClear (src : Writer) (t : Tile) (val : Word)
  /-- BOARD_ECC_WRITEBACK (R195). -/
  | boardEccWriteback 
  /-- BOARD_SCRUB_READ (R197). -/
  | boardScrubRead (b : Board) (u : Upset)
  /-- HBM_SCRUB_READ (R202). -/
  | hbmScrubRead (pc : Fin 32) (u : Upset)
  /-- HBM_REFRESH (R203). -/
  | hbmRefresh (pc : Fin 32) (bank : Fin 48)
  /-- HBM_TEMP_READ (R203). -/
  | hbmTempRead (temp : BitVec 8)
  /-- HBM_RETRAIN_WINDOW (R204). -/
  | hbmRetrainWindow (ok : Bool)
  /-- HBM_EXTRA_RETRAIN (R381). -/
  | hbmExtraRetrain (pc : Fin 32) (ok : Bool)
  /-- SLIDE_SUBMIT (R209). -/
  | slideSubmit (src : Writer) (e : Fin 4) (addr : Word)
  /-- SLIDE_DESCRIPTOR_ACCEPT (R210). -/
  | slideDescriptorAccept (e : EngineNo)
  /-- SLIDE_COPY_COMPLETE (R212). -/
  | slideCopyComplete (e : EngineNo) (ch : ChannelNo)
  /-- STREAM_BLOCK_WRITTEN (R221). -/
  | streamBlockWritten (e : EngineNo) (ch : ChannelNo)
  /-- CREDIT_TAKE (R222). -/
  | creditTake (e : EngineNo) (ch : ChannelNo)
  /-- TOKEN_BUCKET_REFILL (R223). -/
  | tokenBucketRefill 
  /-- SLIDE_CREDIT_STALL (R225). -/
  | slideCreditStall (e : EngineNo)
  /-- SLIDE_RETRY (R231). -/
  | slideRetry (e : EngineNo) (ch : ChannelNo) (answer : AccessAnswer)
  /-- SLIDE_HALT_CLEAR (R232). -/
  | slideHaltClear (src : Writer) (e : EngineNo) (ch : ChannelNo)
  /-- SLIDE_CANCEL (R233). -/
  | slideCancel (e : EngineNo)
  /-- SLIDE_CANCEL_DONE (R235). -/
  | slideCancelDone (e : EngineNo)
  /-- SLIDE_CHANNEL_ENABLE (R220). -/
  | slideChannelEnable (src : Writer) (e : EngineNo) (ch : ChannelNo) (val : Word)
  /-- CC_ENABLE (R278). -/
  | ccEnable (src : Writer) (c : Carrier) (val : Word)
  /-- CC_DISABLE (R278). -/
  | ccDisable (src : Writer) (c : Carrier) (val : Word)
  /-- BURST_SLOT_START (R309). -/
  | burstSlotStart (c : Carrier) (k : Fin 8)
  /-- LINK_WINDOW (R315). -/
  | linkWindow (c : Carrier)
  /-- LINK_FALSE_DETECTION (R318). -/
  | linkFalseDetection (c : Carrier)
  /-- LINK_HEADER_DECODE (R322). -/
  | linkHeaderDecode (c : Carrier)
  /-- LINK_CODE_BLOCK_DECODE (R324). -/
  | linkCodeBlockDecode (c : Carrier) (cb : Nat)
  /-- LINK_CODE_BLOCK_DEADLINE (R324). -/
  | linkCodeBlockDeadline (c : Carrier)
  /-- BL_TABLE (R326). -/
  | blTable (c : Carrier)
  /-- BL_ACK (R327). -/
  | blAck (c : Carrier)
  /-- BL_RETRANSMIT (R327). -/
  | blRetransmit (c : Carrier)
  /-- LK_TXQ_STATUS_CLEAR (R331). -/
  | lkTxqStatusClear (c : Carrier) (val : Word)
  /-- TB_RATE_WRITE (R338). -/
  | tbRateWrite (src : Writer) (n : BaseNo) (val : Word)
  /-- TB_STEP_REQUEST (R339). -/
  | tbStepRequest (src : Writer) (n : BaseNo) (lo : Word)
  /-- TB_ARM (R340). -/
  | tbArm (n : BaseNo)
  /-- TM_SNAP (R341). -/
  | tmSnap 
  /-- TB_TIME_LO_READ (R341). -/
  | tbTimeLoRead (n : BaseNo)
  /-- TB_MEAS_HI_WRITE (R350). -/
  | tbMeasHiWrite (n : BaseNo) (hi : Word)
  /-- TB_SRC_WRITE (R346). -/
  | tbSrcWrite (n : BaseNo) (val : Word)
  /-- TB_TOFF_WRITE (R356). -/
  | tbToffWrite (n : BaseNo) (hi : Bool) (val : Word)
  /-- SERVO_MEASUREMENT (R344). -/
  | servoMeasurement (n : BaseNo)
  /-- PTP_DELAY_REQ_SEND (R349). -/
  | ptpDelayReqSend (n : BaseNo)
  /-- TIME_REF_LOST (R345). -/
  | timeRefLost (n : BaseNo)
  /-- SYNCE_GATE (R351). -/
  | synceGate (present : Bool) (freq : Int)
  /-- PPS_IN_EDGE (R352). -/
  | ppsInEdge 
  /-- PPS_OUT_EDGE (R353). -/
  | ppsOutEdge 
  /-- PPS_OUT_FALL (R353). -/
  | ppsOutFall 
  /-- ERRLOG_CONS_WRITE (R359). -/
  | errlogConsWrite (val : Word)
  /-- RE_RECKON (R373). -/
  | reReckon (t : Tile) (p : Fin 5) (f : CarryFault)
  /-- TILE_RESTART (R379). -/
  | tileRestart (t : Tile)
  /-- PARTITION_FENCE (R380). -/
  | partitionFence (t : Tile) (p : Fin 5)
  /-- SPARE_TILE_SWAP (R383). -/
  | spareTileSwap (t : Tile) (trusted : Bool)
  /-- DEVICE_RESET_LEVEL4 (R385). -/
  | deviceResetLevel4 
  /-- RECOVERY_TIMEOUT (R363). -/
  | recoveryTimeout 
  /-- SLOT_CHECKPOINT (R377). -/
  | slotCheckpoint (t : Tile)
  /-- JOURNAL_CHECKPOINT (R378). -/
  | journalCheckpoint (t : Tile)
  /-- ECC_LINE_REWRITE (R370). -/
  | eccLineRewrite (b : Board) (line : Fin 786432)
  /-- BIST_START (R384). -/
  | bistStart (p : PhysTile) (val : Word)
  /-- BIST_DONE (R384). -/
  | bistDone (p : PhysTile) (rows : List (Fin 34)) (boardFail : Bool)
  /-- PROOF_START (R388). -/
  | proofStart (c : Carrier)
  /-- PROOF_COMPLETE (R387). -/
  | proofComplete (c : Carrier) (fault : DWord)
  /-- PROOF_ABANDON (R389). -/
  | proofAbandon (c : Carrier)
  /-- BRIDGE_LINK_UP (R398). -/
  | bridgeLinkUp (peerRank : Bool)
  /-- BRIDGE_FLIT_RX (R399). -/
  | bridgeFlitRx (f : Flit)
  /-- BRIDGE_LINK_DOWN (R409). -/
  | bridgeLinkDown 
  /-- BRIDGE_CREDIT_EXCHANGE (R403). -/
  | bridgeCreditExchange (held : List Nat)
  /-- BRIDGE_PEER_ACCESS (R401). -/
  | bridgePeerAccess (r : PeerRequest)
  /-- BRIDGE_SIGNAL_RX (R406). -/
  | bridgeSignalRx (slot : Fin 4) (handle : Nat) (sub : Bool) (amount : Word)
  /-- BRIDGE_TIMEOUT (R409). -/
  | bridgeTimeout (id : Nat)
  /-- LOCKSTEP_START (R411). -/
  | lockstepStart (peer : PeerLockstep)
  /-- LOCKSTEP_RECORD (R414). -/
  | lockstepRecord (t : Tile) (seq : Nat) (sig : DWord) (rows : List Word)
  /-- POWER_READING (R424). -/
  | powerReading (r : PowerReading)
  /-- LIMITER_CONTROL_PERIOD (R425). -/
  | limiterControlPeriod 
  /-- FAST_LIMITER_PERIOD (R428). -/
  | fastLimiterPeriod (milliAmps : Nat)
  /-- VDD_MONITOR_PERIOD (R421). -/
  | vddMonitorPeriod (mv : List Nat)
  /-- PWR_VMON_WRITE (R420). -/
  | pwrVmonWrite (src : Writer) (val : Word)
  /-- THERMAL_READING (R431). -/
  | thermalReading (temps : List Int)
  /-- CLOCK_FAULT (R418). -/
  | clockFault 
  /-- PLL_LOCK (R417). -/
  | pllLock 
  /-- POWER_ON_RESET (R452). -/
  | powerOnReset 
  /-- HARD_RESET (R452). -/
  | hardReset (cause : HardCause)
  /-- WARM_RESET (R452). -/
  | warmReset (level4 : Bool)
  /-- FLR (R452). -/
  | flr 
  /-- BOOT (R454). -/
  | boot (e : BootEvent)
  /-- HOST_RECOVERY (R455). -/
  | hostRecovery (size : Word)
  /-- OWNER_CLAIM (R457). -/
  | ownerClaim 
  /-- KEY_ENROLL (R457). -/
  | keyEnroll 
  /-- KEY_REVOKE (R457). -/
  | keyRevoke 
  /-- ATTEST (R460). -/
  | attest 
  /-- FW_UPDATE (R462). -/
  | fwUpdate (flashOk : Bool)
  /-- FW_ACTIVATE (R463). -/
  | fwActivate 
  /-- FW_HANDOVER (R463). -/
  | fwHandover 
  /-- FW_COMMIT (R464). -/
  | fwCommit 
  /-- FW_REVERT (R464). -/
  | fwRevert 
  /-- LEDGER_FAILOVER (R461). -/
  | ledgerFailover 
  /-- FREEZE (R467). -/
  | freeze (pin : Bool)
  /-- THAW (R471). -/
  | thaw 
  /-- DBG_DATA_READ (R474). -/
  | dbgDataRead 
  /-- DBG_STREAM_LEN (R474). -/
  | dbgStreamLen (len : Word)
  /-- DBG_CSNAP_TAKE (R476). -/
  | dbgCsnapTake 
  /-- DBG_HALT_WRITE (R477). -/
  | dbgHaltWrite (val : Word)
  /-- JTAG_DBG_REG (R465). -/
  | jtagDbgReg (write : Bool) (idx : BitVec 16) (val : Word)
  /-- JTAG_IDCODE (R465). -/
  | jtagIdcode 
  /-- JTAG_EXTEST (R465). -/
  | jtagExtest (chain : List Bool)
  /-- JTAG_SAMPLE_PRELOAD (R465). -/
  | jtagSamplePreload (chain : List Bool)
  /-- JTAG_BYPASS (R465). -/
  | jtagBypass (tdi : Bool)
  /-- SMBUS_SET_OFFSET (R488). -/
  | smbusSetOffset (off : Word)
  /-- SMBUS_WRITE_WORD (R488). -/
  | smbusWriteWord (val : Word)
  /-- SMBUS_READ_WORD (R488). -/
  | smbusReadWord 
  /-- REGISTER_READ (R7). -/
  | registerRead (off : BitVec 26)
  /-- CONFIGURATION_REQUEST (R417). -/
  | configurationRequest (idx : BitVec 10)
  /-- RESET_RELEASE (R493). -/
  | resetRelease (por : Bool)
  /-- TAP_RESET (R481). -/
  | tapReset 
  /-- FAULT_INSTRUCTION (R251). -/
  | faultInstruction (operand : DWord)
  /-- PAIRING_TIMEOUT (R404). -/
  | pairingTimeout (slot : Fin 4)
  /-- PORT_REFERENCE_CLOCK_LOSS (R418). -/
  | portReferenceClockLoss (p : SerdesPort)
  deriving DecidableEq, Repr

end Sys2Proof
end

