-- ==== Sys2Proof/Decode.lean ====
section
/-! DEFINITION. Decode.lean: the command that a word spells. spec/opcode_table.json gives no row any bits, so no word
spells a command (log entry 1). -/

namespace Sys2Proof

/-- The command that a word of a table row with bits spells: there is no such row. -/
def decodeTableWord (_nbits _w : Nat) : Option Instr := none

end Sys2Proof
end

