-- ==== Sys2Proof/Config.lean ====
section
/-! DEFINITION. Config.lean: the free values and the functions that the manual takes from outside itself.

Every constant here is opaque: it has no body, so no proof can use a particular value of it and a claim holds
whatever it is. Each one is named in a row of the assumption log. -/

namespace Sys2Proof.Config

/-- A value the manual leaves undefined, one for each draw of the counter `State.free` (log entry 3). -/
opaque freeWord : Nat → BitVec 32

/-- A choice between two values that the manual leaves open, as R83 does between the old and the new value of a
register read too early (log entry 4). -/
opaque freeChoice : Nat → Bool

/-- A byte the manual calls unspecified: carrier buffer data read before its tally (R24), the destination of a
cancelled copy (R234), data read from the peer chip, whose memory is another device (log entry 3). -/
opaque freeByte : Nat → BitVec 8

/-- SHAKE256 of a message, to the given number of bytes (R45, an outside standard; log entry 5). -/
opaque shake256 : List (BitVec 8) → Nat → List (BitVec 8)

/-- Falcon-1024 verification: public key, message, padded signature (R45, an outside standard; log entry 5). -/
opaque falconVerify : List (BitVec 8) → List (BitVec 8) → List (BitVec 8) → Bool

/-- Falcon-1024 signature by the identity key sealed in the device (R459, R460; log entry 5). -/
opaque identitySign : List (BitVec 8) → List (BitVec 8)

/-- The public identity key whose hash the attestation report names (R459). -/
opaque identityKey : List (BitVec 8)

/-- The serial number of the device, 16 bytes (R459). -/
opaque serial : List (BitVec 8)

/-- The FW_ROOT_ID of the fuses, 32 bytes (R454). -/
opaque fwRootId : List (BitVec 8)

/-- The native program the binder writes for a tile: image bytes and logical tile to code bytes (R70 step 14; the
manual gives no rule for the binder's output, but that it keeps the contract; log entries 6 and 87). -/
opaque nativeCode : List (BitVec 8) → Nat → List (BitVec 8)

/-- SLIDE_CHn_CFG and the token word that the binder gives channel `ch` of tile engine `t`: image bytes, t, ch (R70 step
13; the manual gives no rule for the allocation; log entry 6). -/
opaque channelPlan : List (BitVec 8) → Nat → Nat → BitVec 64

/-- Whether the draw-stream use of an image is ordered by its tally operations, where neither the lack of any such
operation nor a plain hand-over tells: the first instruction at which it is not, where there is one (R63, R66; the manual
gives no rule for the analysis; log entry 30). -/
opaque drawsUnordered : List (BitVec 8) → Option Nat

/-- The longest native hold-off the binder finds, in beats, and the Aqfold instruction it belongs to (R69;
log entry 6). -/
opaque holdoff : List (BitVec 8) → Nat × Nat

/-- The worst-case beats of a task's longest path in the native schedule (R68; log entry 6). -/
opaque taskBeats : List (BitVec 8) → Nat → Nat

/-- Entry of a base graph of TS 38.212 for a lifting size: base graph 2 or not, Zc, row, column to shift, or none
where the graph has no edge (R292, an outside standard; log entry 7). -/
opaque bgShift : Bool → Nat → Nat → Nat → Option Nat

/-- TBS_LBRM of an item's parameters (base graph 2, TBS, G, redundancy version, QM, layers, LBRM), which comes from the
configuration of higher layers (R292, R301, TS 38.212 clause 5.4.2.1; log entry 7). -/
opaque tbsLbrm : List Nat → Nat

/-- Entry i of the polar sequence of TS 38.212 Table 5.3.1.2-1, least reliable bit first (R295, an outside standard; log
entry 7). -/
opaque polarSequence : Nat → Nat

/-- Byte i of a sent burst's stream of records, of those that the manual gives no value: LEN and the reserved byte of
the end record, and what follows it; the first argument names the burst (R329; log entry 56). -/
opaque openPad : Nat → Nat → BitVec 8

/-- The argument step of a sum C that is 0 or no number and has no argument (R317; log entry 8). -/
opaque openArg : BitVec 32 × BitVec 32 → Int

/-- Which of n points equally near to an equalised value is taken (R322 does not say; log entry 8). -/
opaque nearestTie : BitVec 32 × BitVec 32 → Nat → Nat

/-- The LLR of a bit whose quotient is no number: numerator and denominator (R322; log entry 8). -/
opaque openLlr : BitVec 32 → BitVec 32 → Int

/-- The differential decision on two values whose product has a real part of 0, or none, and so no sign (R318; log
entry 8). -/
opaque openDecision : BitVec 32 × BitVec 32 → BitVec 32 × BitVec 32 → Bool

/-- Gained sample m of a burst where m lies outside the burst slot; the first argument names the burst (R321; log
entry 8). -/
opaque openSample : Nat → Int → Int × Int

/-- A logarithm of a quotient that has none: numerator and denominator (R315, R319, R325, R333; log entry 8). -/
opaque openLog : BitVec 32 → BitVec 32 → Int

/-- Whether the quotient of two integers that is none is rounded up in a report whose rounding the manual does not give
(R333; log entry 8). -/
opaque roundsUp : Int → Nat → Bool

/-- A 16-bit signed field of a report whose value does not fit it (R333; log entry 8). -/
opaque openField : Int → BitVec 16

/-- Word i of a burst's completion entries that the manual gives no value; the first argument names the burst (R333; log
entry 8). -/
opaque burstWord : Nat → Nat → BitVec 32

/-- The sample that a value of the transmitted waveform becomes, single carrier or OFDM: R310 and R313 give neither its
level nor its rounding (log entry 56). -/
opaque txSample : Bool → BitVec 32 × BitVec 32 → Int × Int

/-- Beats without an Announce after which a PTP port gives its master up (R349; IEEE 1588, an outside standard; log
entry 54). -/
opaque announceTimeout : Nat

/-- The fixed key of proof-pattern draws (R158; log entry 3). -/
opaque proofKey : BitVec 64

/-- Samples that an inject step writes, as (offset in the layout of R281, byte) pairs: NPRB, udCompMeth, iqWidth and the
eCPRI payload of one section, whose bytes are the O-RAN standard's (R386; log entry 7). -/
opaque proofSection : Nat → Nat → Nat → List (BitVec 8) → List (Nat × BitVec 8)

/-- A configuration-space register of the PCIe base specification that Table 16.1 does not give (log entry 9). -/
opaque pcieConfig : Nat → BitVec 32

end Sys2Proof.Config
end

