-- ==== Sys2Proof/Machine/Bits.lean ====
section
/-! DEFINITION. Bits.lean: bit fields, byte order and sign, once for the whole model.

Bit 0 is the least significant (Conventions of this manual); every multi-byte quantity of the device is
little-endian (R41, R104 and the message formats). -/

namespace Sys2Proof.Machine

/-- Bits [hi:lo] of a number. -/
def slice (v hi lo : Nat) : Nat := (v / 2 ^ lo) % 2 ^ (hi + 1 - lo)

/-- Bits [hi:lo] of a word. -/
def bits (w : Word) (hi lo : Nat) : Nat := slice w.toNat hi lo

/-- Bit i of a word. -/
def bit (w : Word) (i : Nat) : Bool := w.getLsbD i

/-- Ones in bits [hi:lo]. -/
def mask (hi lo : Nat) : Word := BitVec.ofNat 32 ((2 ^ (hi + 1 - lo) - 1) * 2 ^ lo)

/-- The bits of `w` outside `m`, those of `v` inside. -/
def blend (m w v : Word) : Word := (w &&& ~~~m) ||| (v &&& m)

/-- `w` with bits [hi:lo] set to the low bits of `v`. -/
def setBits (w : Word) (hi lo v : Nat) : Word :=
  blend (mask hi lo) w (BitVec.ofNat 32 (v * 2 ^ lo))

/-- A Bool as a bit. -/
def b2n (b : Bool) : Nat := if b then 1 else 0

/-- The signed value of an n-bit two's complement number. -/
def signed (n v : Nat) : Int := if v % 2 ^ n < 2 ^ (n - 1) then (v % 2 ^ n : Nat) else (v % 2 ^ n : Nat) - (2 ^ n : Nat)

/-- The n-bit two's complement pattern of an integer. -/
def pattern (n : Nat) (v : Int) : Nat := (v % (2 ^ n : Nat)).toNat

/-- An integer held to [lo, hi]. -/
def clampInt (lo hi v : Int) : Int := max lo (min hi v)

/-- A number held to [lo, hi]. -/
def clamp (lo hi v : Nat) : Nat := max lo (min hi v)

/-- The number whose bytes these are, first byte least significant. -/
def leNat : List Byte → Nat
  | [] => 0
  | b :: r => b.toNat + 256 * leNat r

/-- The low n bytes of a number, least significant first. -/
def natLE : Nat → Nat → List Byte
  | 0, _ => []
  | n + 1, v => BitVec.ofNat 8 v :: natLE n (v / 256)

/-- `len` bytes of a list from `off` on, zeros where the list ends. -/
def bytesAt (l : List Byte) (off len : Nat) : List Byte :=
  let t := (l.drop off).take len
  t ++ List.replicate (len - t.length) 0

/-- The number in `len` bytes from `off` on. -/
def field (l : List Byte) (off len : Nat) : Nat := leNat (bytesAt l off len)

/-- Bits of a byte list, bit 0 of the first byte first. -/
def bitsOfBytes (l : List Byte) : List Bool := l.flatMap fun b => (List.range 8).map fun i => b.getLsbD i

/-- Bytes of a bit list, the first bit in bit 0 of the first byte; missing bits are 0. -/
def bytesOfBits (n : Nat) (l : List Bool) : List Byte :=
  (List.range n).map fun i =>
    BitVec.ofNat 8 ((List.range 8).foldl (fun acc k => acc + b2n (l.getD (8 * i + k) false) * 2 ^ k) 0)

/-- Bytes of a bit list, the first bit in bit 7 of the first byte (log entry 7). -/
def bytesMsb (n : Nat) (l : List Bool) : List Byte :=
  (List.range n).map fun i =>
    BitVec.ofNat 8 ((List.range 8).foldl (fun acc k => 2 * acc + b2n (l.getD (8 * i + k) false)) 0)

/-- The number of ones among the low n bits. -/
def popcount (n v : Nat) : Nat := (List.range n).countP fun i => v.testBit i

/-- Two words as one 64-bit number. -/
def dword (lo hi : Word) : Nat := lo.toNat + 2 ^ 32 * hi.toNat

/-- The low and the high word of a 64-bit number. -/
def loWord (v : Nat) : Word := BitVec.ofNat 32 v
def hiWord (v : Nat) : Word := BitVec.ofNat 32 (v / 2 ^ 32)

/-- One more, stopping at n ones (a saturating counter). -/
def satAdd (n : Nat) (c k : Nat) : Nat := min (2 ^ n - 1) (c + k)

/-- Whether `m` is a power of two. -/
def isPow2 (m : Nat) : Bool := m != 0 && 2 ^ Nat.log2 m == m

end Sys2Proof.Machine
end

