-- ==== Sys2Proof/Machine/Flags.lean ====
section
/-! DEFINITION. Flags.lean: the exception flags of the rod engine (Table 6.6) and the comparisons that conditions of
the digit core are formed by (Table 3.9). -/

namespace Sys2Proof.Machine

/-! ### Exception flags (Table 6.6), as bits of ROD_EXC -/

def fxInvalid : Nat := 1
def fxOverflow : Nat := 2
def fxSaturate : Nat := 4
def fxNanIn : Nat := 8

/-- A value with the flags that forming it raised. -/
structure Flagged where
  val : Nat
  flags : Nat
  deriving DecidableEq, Repr

/-- The union of two flag sets. -/
def fxOr (a b : Nat) : Nat := a ||| b

/-- An integer clamped to [lo, hi], with the SATURATE flag when that altered it (R183). -/
def satFlag (lo hi v : Int) : Int × Nat :=
  (clampInt lo hi v, if clampInt lo hi v = v then 0 else fxSaturate)

/-! ### Relations of CMP (Table 3.9) -/

/-- Relation k of two words: 0 EQ, 1 NE, 2 LT, 3 LE, 4 LTU, 5 LEU; none for a reserved relation. -/
def relation (k : Nat) (a b : Word) : Option Bool :=
  match k with
  | 0 => some (a = b)
  | 1 => some (a ≠ b)
  | 2 => some (a.slt b)
  | 3 => some (a.sle b)
  | 4 => some (a.ult b)
  | 5 => some (a.ule b)
  | _ => none

end Sys2Proof.Machine
end

