-- ==== Sys2Proof/Machine/Numbers.lean ====
section
/-! DEFINITION. Numbers.lean: element types, rounding, floating point, the draw generator and the cyclic redundancy
checks (Number Formats, Quantisation and Draws; R58, R60, R387, R453, R474). -/

namespace Sys2Proof.Machine

/-! ### Element types (Tables 2.9 and 6.3) -/

/-- Element types. -/
inductive Elem | int4 | int8 | uint8 | int16 | int32 | fp16 | bf16 | fp32 | cint8 | cint16 | cint32 | bool
  deriving DecidableEq, Repr

/-- TYPE codes of grids (Table 2.9). -/
def elemOfGrid : Nat → Option Elem
  | 0 => some .int4 | 1 => some .int8 | 2 => some .uint8 | 3 => some .int16 | 4 => some .int32 | 5 => some .fp16
  | 6 => some .bf16 | 7 => some .fp32 | 8 => some .cint8 | 9 => some .cint16 | 10 => some .cint32 | 11 => some .bool
  | _ => none

/-- TYPE codes of rod commands (Table 6.3). -/
def elemOfRod : Nat → Option Elem
  | 0 => some .int8 | 1 => some .uint8 | 2 => some .int16 | 3 => some .int32 | 4 => some .fp16 | 5 => some .bf16
  | 6 => some .fp32 | 7 => some .cint8 | 8 => some .cint16 | 9 => some .cint32 | 10 => some .int4 | _ => none

/-- Whether elements have a real and an imaginary part. -/
def Elem.complex : Elem → Bool
  | .cint8 | .cint16 | .cint32 => true
  | _ => false

/-- Whether elements are floating-point numbers. -/
def Elem.float : Elem → Bool
  | .fp16 | .bf16 | .fp32 => true
  | _ => false

/-- Bits of one part. -/
def Elem.partBits : Elem → Nat
  | .int4 => 4
  | .int8 | .uint8 | .cint8 => 8
  | .int16 | .cint16 | .fp16 | .bf16 => 16
  | .int32 | .cint32 | .fp32 => 32
  | .bool => 1

/-- Parts of an element. -/
def Elem.parts (t : Elem) : Nat := if t.complex then 2 else 1

/-- Whether an integer type is unsigned. -/
def Elem.unsigned : Elem → Bool
  | .uint8 | .bool => true
  | _ => false

/-- The range of an integer part. -/
def Elem.lo (t : Elem) : Int := if t.unsigned then 0 else -(2 ^ (t.partBits - 1) : Nat)
def Elem.hi (t : Elem) : Int :=
  if t.unsigned then (2 ^ t.partBits : Nat) - 1 else (2 ^ (t.partBits - 1) : Nat) - 1

/-- The integer a part's bits stand for. -/
def Elem.toInt (t : Elem) (b : Nat) : Int :=
  if t.unsigned then (b % 2 ^ t.partBits : Nat) else signed t.partBits b

/-- The bits of an integer part, wrapped to the type. -/
def Elem.ofInt (t : Elem) (v : Int) : Nat := pattern t.partBits v

/-! ### Rounding -/

/-- n / d to the nearest integer, ties to even. -/
def rneDiv (n d : Nat) : Nat :=
  let q := n / d
  let r := n % d
  if d < 2 * r ∨ (2 * r = d ∧ q % 2 = 1) then q + 1 else q

/-- The shift rounding of R58 with the wide shifts of R147: modes 0 nearest-even, 1 toward zero, 2 stochastic with
draw u. -/
def roundShift (v : Int) (sh mode u : Nat) : Int :=
  if sh = 0 then v
  else
    let p : Int := (2 ^ sh : Nat)
    match mode with
    | 1 => v.tdiv p
    | 2 => if sh ≤ 32 then (v + (u % 2 ^ sh : Nat)) / p else (v + (u * 2 ^ (sh - 32) : Nat)) / p
    | _ =>
      let q := v / p
      let r := v - q * p
      if p < 2 * r ∨ (2 * r = p ∧ q % 2 = 1) then q + 1 else q

/-- A real number ±n/d rounded to an integer by R146. -/
def roundReal (neg : Bool) (n d mode u : Nat) : Int :=
  let s (k : Nat) : Int := if neg then -(k : Int) else k
  match mode with
  | 1 => s (n / d)
  | 2 => (s n * (2 ^ 32 : Nat) + u * d) / ((d : Int) * (2 ^ 32 : Nat))
  | _ => s (rneDiv n d)

/-- Saturation to 32 bits signed. -/
def sat32 (v : Int) : Int := clampInt (-2147483648) 2147483647 v

/-! ### Floating point (R141–R144) -/

/-- A format: exponent and fraction bits (Table 5.1). -/
structure Fmt where
  eb : Nat
  fb : Nat
  deriving DecidableEq, Repr

/-- The format of a floating type. -/
def Elem.fmt : Elem → Fmt
  | .fp16 => ⟨5, 10⟩
  | .bf16 => ⟨8, 7⟩
  | _ => ⟨8, 23⟩

def Fmt.bias (f : Fmt) : Nat := 2 ^ (f.eb - 1) - 1
def Fmt.width (f : Fmt) : Nat := 1 + f.eb + f.fb
/-- The canonical quiet NaN (R143). -/
def Fmt.nan (f : Fmt) : Nat := (2 ^ f.eb - 1) * 2 ^ f.fb + 2 ^ (f.fb - 1)
/-- The pattern of +∞, without its sign. -/
def Fmt.infMag (f : Fmt) : Nat := (2 ^ f.eb - 1) * 2 ^ f.fb
def Fmt.sign (f : Fmt) (neg : Bool) : Nat := if neg then 2 ^ (f.eb + f.fb) else 0

/-- A floating value: NaN, an infinity, or ± m × 2^e. -/
inductive FVal
  | nan
  | inf (neg : Bool)
  | fin (neg : Bool) (m : Nat) (e : Int)
  deriving DecidableEq, Repr

/-- The value of a pattern. -/
def fdecode (f : Fmt) (b : Nat) : FVal :=
  let neg := b.testBit (f.eb + f.fb)
  let x := b / 2 ^ f.fb % 2 ^ f.eb
  let r := b % 2 ^ f.fb
  if x = 2 ^ f.eb - 1 then (if r = 0 then .inf neg else .nan)
  else if x = 0 then .fin neg r (1 - (f.bias : Int) - f.fb)
  else .fin neg (2 ^ f.fb + r) ((x : Int) - f.bias - f.fb)

/-- The binary exponent of n/d > 0: the largest e with 2^e ≤ n/d. -/
def expOf (n d : Nat) : Int :=
  let k : Int := (Nat.log2 n : Int) - Nat.log2 d
  if n * 2 ^ (-k).toNat < d * 2 ^ k.toNat then k - 1 else k

/-- ± n/d rounded once to a format, nearest-even (R141), with OVERFLOW when it becomes an infinity. -/
def froundRat (f : Fmt) (neg : Bool) (n d : Nat) : Flagged :=
  if n = 0 then ⟨f.sign neg, 0⟩
  else
    let e := max (expOf n d) (1 - (f.bias : Int))
    let k := (f.fb : Int) - e
    let m := rneDiv (n * 2 ^ k.toNat) (d * 2 ^ (-k).toNat)
    let p := ((e + f.bias - 1).toNat) * 2 ^ f.fb + m
    if f.infMag ≤ p then ⟨f.sign neg + f.infMag, fxOverflow⟩ else ⟨f.sign neg + p, 0⟩

/-- v × 2^e rounded once to a format. A zero has the given sign. -/
def froundInt (f : Fmt) (v e : Int) (zeroNeg : Bool) : Flagged :=
  if v = 0 then ⟨f.sign zeroNeg, 0⟩
  else froundRat f (v < 0) (v.natAbs * 2 ^ e.toNat) (2 ^ (-e).toNat)

/-- The signed mantissa. -/
def signedMant (neg : Bool) (m : Nat) : Int := if neg then -(m : Int) else m

/-- NAN_IN when one of the inputs is NaN, otherwise INVALID: the flag of a canonical NaN result (Table 6.6). -/
def nanResult (f : Fmt) (nanIn : Bool) : Flagged := ⟨f.nan, if nanIn then fxNanIn else fxInvalid⟩

def FVal.isNan : FVal → Bool
  | .nan => true
  | _ => false

/-- Floating ADD (R141–R143). -/
def fadd (f : Fmt) (a b : Nat) : Flagged :=
  match fdecode f a, fdecode f b with
  | .nan, _ | _, .nan => nanResult f true
  | .inf s, .inf t => if s = t then ⟨f.sign s + f.infMag, 0⟩ else nanResult f false
  | .inf s, .fin .. => ⟨f.sign s + f.infMag, 0⟩
  | .fin .., .inf s => ⟨f.sign s + f.infMag, 0⟩
  | .fin s m x, .fin t n y =>
    let e := min x y
    let v := signedMant s m * (2 ^ (x - e).toNat : Nat) + signedMant t n * (2 ^ (y - e).toNat : Nat)
    froundInt f v e (s && t)

/-- A pattern with its sign changed; NaN becomes canonical (R143). -/
def fneg (f : Fmt) (a : Nat) : Flagged :=
  match fdecode f a with
  | .nan => nanResult f true
  | _ => ⟨if a.testBit (f.eb + f.fb) then a - f.sign true else a + f.sign true, 0⟩

/-- A pattern without its sign; NaN becomes canonical (R143). -/
def fabs (f : Fmt) (a : Nat) : Flagged :=
  match fdecode f a with
  | .nan => nanResult f true
  | _ => ⟨a % 2 ^ (f.eb + f.fb), 0⟩

/-- Floating SUB. -/
def fsub (f : Fmt) (a b : Nat) : Flagged :=
  match fdecode f b with
  | .nan => nanResult f true
  | _ => fadd f a (fneg f b).val

/-- Floating MUL. -/
def fmul (f : Fmt) (a b : Nat) : Flagged :=
  match fdecode f a, fdecode f b with
  | .nan, _ | _, .nan => nanResult f true
  | .inf s, .inf t => ⟨f.sign (s != t) + f.infMag, 0⟩
  | .inf s, .fin t m _ => if m = 0 then nanResult f false else ⟨f.sign (s != t) + f.infMag, 0⟩
  | .fin s m _, .inf t => if m = 0 then nanResult f false else ⟨f.sign (s != t) + f.infMag, 0⟩
  | .fin s m x, .fin t n y => froundInt f (signedMant (s != t) (m * n)) (x + y) (s != t)

/-- The order of MIN and MAX: −0 below +0 (R143). -/
def fkey (f : Fmt) (a : Nat) : Int :=
  let m := a % 2 ^ (f.eb + f.fb)
  if a.testBit (f.eb + f.fb) then -(m : Int) - 1 else m

/-- The numeric order, −0 and +0 equal. -/
def fnum (f : Fmt) (a : Nat) : Int :=
  let m := a % 2 ^ (f.eb + f.fb)
  if a.testBit (f.eb + f.fb) then -(m : Int) else m

/-- Floating MIN (`mx` false) and MAX (R143). -/
def fminmax (f : Fmt) (mx : Bool) (a b : Nat) : Flagged :=
  match (fdecode f a).isNan, (fdecode f b).isNan with
  | true, true => ⟨f.nan, fxNanIn⟩
  | true, false => ⟨b, fxNanIn⟩
  | false, true => ⟨a, fxNanIn⟩
  | false, false => ⟨if (fkey f a ≤ fkey f b) = mx then b else a, 0⟩

/-- The flag a NaN input raises. -/
def nanFlag (f : Fmt) (a b : Nat) : Nat :=
  if (fdecode f a).isNan || (fdecode f b).isNan then fxNanIn else 0

/-- Floating CMPLT and CMPEQ (R143). -/
def fless (f : Fmt) (a b : Nat) : Bool := nanFlag f a b = 0 && fnum f a < fnum f b
def fequal (f : Fmt) (a b : Nat) : Bool := nanFlag f a b = 0 && fnum f a = fnum f b

/-- A finite value as a fraction: numerator and denominator of m × 2^e. -/
def fracOf (m : Nat) (e : Int) : Nat × Nat := (m * 2 ^ e.toNat, 2 ^ (-e).toNat)

/-- A floating value converted to another format (R141). -/
def fconvert (src dst : Fmt) (a : Nat) : Flagged :=
  match fdecode src a with
  | .nan => nanResult dst true
  | .inf s => ⟨dst.sign s + dst.infMag, 0⟩
  | .fin s m e => let (n, d) := fracOf m e; froundRat dst s n d

/-- A floating value rounded to an integer type by R144 and R146, with SATURATE when that altered it. -/
def fToInt (src : Fmt) (dst : Elem) (a mode u : Nat) : Int × Nat :=
  match fdecode src a with
  | .nan => (0, fxNanIn)
  | .inf s => (if s then dst.lo else dst.hi, fxSaturate)
  | .fin s m e => let (n, d) := fracOf m e; satFlag dst.lo dst.hi (roundReal s n d mode u)

/-- A part converted between real types (R140, R144); bool as R140 gives it. -/
def convertPart (src dst : Elem) (b mode u : Nat) : Flagged :=
  if dst = .bool then
    if src.float then
      match fdecode src.fmt b with
      | .nan => ⟨0, fxNanIn⟩
      | .inf _ => ⟨1, 0⟩
      | .fin _ m _ => ⟨b2n (m != 0), 0⟩
    else ⟨b2n (src.toInt b != 0), 0⟩
  else if src.float then
    if dst.float then fconvert src.fmt dst.fmt b
    else
      let (v, fl) := fToInt src.fmt dst b mode u
      ⟨dst.ofInt v, fl⟩
  else if dst.float then froundRat dst.fmt (src.toInt b < 0) (src.toInt b).natAbs 1
  else
    let (v, fl) := satFlag dst.lo dst.hi (src.toInt b)
    ⟨dst.ofInt v, fl⟩

/-! ### Block quantisation (R153, R155) -/

/-- S = c × STEP, rounded once to fp32: a finite STEP may round to an infinity, and a NaN one is a NaN input (R183). -/
def scaleOf (c step : Nat) : Flagged :=
  match fdecode ⟨8, 23⟩ step with
  | .fin s m e => froundInt ⟨8, 23⟩ (signedMant s (c * m)) e false
  | .inf _ => ⟨step, 0⟩
  | .nan => ⟨step, fxNanIn⟩

/-- The flags of APPLY on one part: those of its input and of its scale. -/
def applyFlags (src : Elem) (b c step : Nat) : Nat :=
  if src.float && (fdecode src.fmt b).isNan then fxNanIn else if c = 0 then 0 else (scaleOf c step).flags

/-- APPLY of one part: source type and bits, code, STEP, zero point and destination type; the value written and
whether it is a clip event (R153). R153 states no quotient for a STEP that is NaN or zero, which binding refuses (R150):
`free` supplies the value there (log entry 3). -/
def applyPart (src dst : Elem) (b c step : Nat) (z : Int) (mode u free : Nat) : Int × Bool :=
  let x : FVal := if src.float then fdecode src.fmt b else
    .fin (src.toInt b < 0) (src.toInt b).natAbs 0
  if c = 0 then
    (z, match x with
      | .fin _ m _ => m != 0
      | _ => true)
  else match x with
    | .nan => (z, true)
    | .inf s => (if s then dst.lo else dst.hi, true)
    | .fin s m e =>
      match fdecode ⟨8, 23⟩ (scaleOf c step).val with
      | .fin t sm se =>
        let (n1, d1) := fracOf m e
        let (n2, d2) := fracOf sm se
        let v := roundReal (s != t) (n1 * d2) (d1 * n2) mode u + z
        if sm = 0 then (dst.toInt free, free.testBit 31) else (clampInt dst.lo dst.hi v, v < dst.lo || dst.hi < v)
      | .inf _ => (clampInt dst.lo dst.hi z, z < dst.lo || dst.hi < z)
      | .nan => (dst.toInt free, free.testBit 31)

/-- DEQUANT of one part to a floating type (R155). -/
def dequantPart (src dst : Elem) (b c step : Nat) (z : Int) : Flagged :=
  let q := src.toInt b - z
  if c = 0 ∨ q = 0 then ⟨0, 0⟩
  else
    let sc := scaleOf c step
    match fdecode ⟨8, 23⟩ sc.val with
    | .fin s m e =>
      let r := froundInt dst.fmt (q * signedMant s m) e false
      ⟨r.val, fxOr r.flags sc.flags⟩
    | .inf s => ⟨dst.fmt.sign ((q < 0) != s) + dst.fmt.infMag, sc.flags⟩
    | .nan => ⟨dst.fmt.nan, sc.flags⟩

/-! ### Draws (R156) -/

/-- The counter words and round keys of the draw generator. -/
structure DrawState where
  c0 : Word
  c1 : Word
  c2 : Word
  c3 : Word
  s0 : Word
  s1 : Word
  deriving DecidableEq, Repr

def drawA : Word := 0x8B472D19
def drawB : Word := 0xE3A95C65
def drawG : Word := 0x61D70A4B

/-- One round (R156). -/
def drawRound (d : DrawState) : DrawState :=
  let c0 := (d.c0 ^^^ d.s0) * drawA
  let c2 := (d.c2 ^^^ d.s1) * drawB
  let c1 := (d.c1 ^^^ c0.rotateLeft 13) * drawB
  let c3 := (d.c3 ^^^ c2.rotateLeft 19) * drawA
  let c0 := c0 ^^^ (c3 >>> 16)
  let c2 := c2 ^^^ (c1 >>> 16)
  ⟨c1, c2, c3, c0, d.s0.rotateLeft 7 + drawG, d.s1.rotateLeft 11 + drawG⟩

/-- n rounds. -/
def drawRounds : Nat → DrawState → DrawState
  | 0, d => d
  | n + 1, d => drawRounds n (drawRound d)

/-- Draw n of stream t under a seed; `c3` is 0 for jobs and 1 for proof patterns (R156, R158). -/
def draw (seed : DWord) (t n : Nat) (c3 : Nat := 0) : Word :=
  let n := n % 2 ^ 64
  let b := n / 4
  let k0 := loWord seed.toNat
  let k1 := hiWord seed.toNat
  let d := drawRounds 8 ⟨loWord b, hiWord b, BitVec.ofNat 32 t, BitVec.ofNat 32 c3, k0, k1⟩
  match n % 4 with
  | 0 => d.c0 ^^^ k0
  | 1 => d.c1 ^^^ k1
  | 2 => d.c2 + k0
  | _ => d.c3 + k1

/-! ### Cyclic redundancy checks -/

/-- CRC of a bit list, most significant bit first: width, polynomial, start value. -/
def crcBits (w poly : Nat) (init : Nat) (l : List Bool) : Nat :=
  l.foldl (fun c b =>
    let top := c.testBit (w - 1) != b
    let c := c * 2 % 2 ^ w
    if top then c ^^^ poly else c) init

/-- The bits of a byte list, most significant bit of each byte first. -/
def bitsMsb (l : List Byte) : List Bool := l.flatMap fun b => (List.range 8).map fun i => b.getLsbD (7 - i)

/-- The n bits of a number, most significant first. -/
def natBits (n v : Nat) : List Bool := (List.range n).map fun i => v.testBit (n - 1 - i)

/-- The number whose bits these are, most significant first. -/
def bitsNat (l : List Bool) : Nat := l.foldl (fun a b => 2 * a + b2n b) 0

/-- CRC-64 of R387. -/
def crc64 (l : List Byte) : Nat := crcBits 64 0x42F0E1EBA9EA3693 0 (bitsMsb l)

/-- CRC-32C, reflected, with all-ones start and inversion (R453, R474). -/
def crc32c (l : List Byte) : Nat :=
  (bitsOfBytes l).foldl (fun c b =>
    let low := c.testBit 0 != b
    let c := c / 2
    if low then c ^^^ 0x82F63B78 else c) 0xFFFFFFFF ^^^ 0xFFFFFFFF

/-- CRC24A and CRC24B of TS 38.212. -/
def crc24a (l : List Bool) : Nat := crcBits 24 0x864CFB 0 l
def crc24b (l : List Bool) : Nat := crcBits 24 0x800063 0 l
/-- CRC16 of TS 38.212. -/
def crc16 (l : List Bool) : Nat := crcBits 16 0x1021 0 l

end Sys2Proof.Machine
end

