-- ==== Sys2Proof/Machine/Coding.lean ====
section
/-! DEFINITION. Coding.lean: the channel coding that R292, R295, R297, R301 and R312 take from 3GPP TS 38.212: lengths,
LDPC encoding, rate matching, and polar decoding.

The steps are the standard's (log entry 7); its tables of the base graphs and of the polar sequence are constants of
Config. -/

namespace Sys2Proof.Machine

/-- The smallest n with v ≤ 2^n. -/
def log2Up (v : Nat) : Nat := if v ≤ 1 then 0 else Nat.log2 (v - 1) + 1

/-- n / d rounded up. -/
def divUp (n d : Nat) : Nat := (n + d - 1) / d

/-! ### Lengths (TS 38.212 clauses 5.2.2, 5.3.2, 5.4.2) -/

/-- The lifting sizes. -/
def liftingSizes : List Nat :=
  ([2, 3, 5, 7, 9, 11, 13, 15].flatMap fun a => (List.range 8).map fun j => a * 2 ^ j).filter (· ≤ 384)

/-- The lengths of a transport block's coding. -/
structure TbLengths where
  bg2 : Bool
  /-- Code blocks, bits of one with its CRC, Zc, K. -/
  c : Nat
  kPrime : Nat
  zc : Nat
  k : Nat
  ncb : Nat
  k0 : Nat
  deriving DecidableEq, Repr

/-- The lengths of a block of `tbs` bits and its CRC24A. `lbrm` is TBS_LBRM, where the buffer is limited. -/
def tbLengths (bg2 : Bool) (tbs rv : Nat) (lbrm : Option Nat) : TbLengths :=
  let b := tbs + 24
  let most := if bg2 then 3840 else 8448
  let c := if b ≤ most then 1 else divUp b (most - 24)
  let kPrime := if c = 1 then b else divUp (b + 24 * c) c
  let kb := if !bg2 then 22 else if 640 < b then 10 else if 560 < b then 9 else if 192 < b then 8 else 6
  let zc := (liftingSizes.filter fun z => kPrime ≤ kb * z).foldl min 384
  let n := (if bg2 then 50 else 66) * zc
  let ncb := match lbrm with
    | none => n
    | some t => min n (3 * t / (2 * c))
  let (parts, of) := if bg2 then ([0, 13, 25, 43], 50) else ([0, 17, 33, 56], 66)
  { bg2 := bg2, c := c, kPrime := kPrime, zc := zc, k := (if bg2 then 10 else 22) * zc, ncb := ncb,
    k0 := parts.getD rv 0 * ncb / (of * zc) * zc }

/-- The lengths that an item's parameters give: base graph 2, TBS, G, redundancy version, QM, layers, LBRM. -/
def itemLengths (params : List Nat) : TbLengths :=
  let p (i : Nat) := params.getD i 0
  tbLengths (p 0 = 1) (p 1) (p 3) (if p 6 = 1 then some (Config.tbsLbrm params) else none)

/-- E of code block cb of such an item. -/
def blockE (params : List Nat) (cb : Nat) : Nat :=
  let unit := max 1 (params.getD 5 0) * max 1 (params.getD 4 0)
  let c := (itemLengths params).c
  let n := params.getD 2 0 / unit
  unit * (if cb < c - n % c then n / c else divUp n c)

/-- C, Zc, K, filler bits, Ncb, E and k0 of code block cb, by number 0 to 6 (R292). -/
def ldpcParam (params : List Nat) (cb i : Nat) : Nat :=
  let t := itemLengths params
  [t.c, t.zc, t.k, t.k - t.kPrime, t.ncb, blockE params cb, t.k0].getD i 0

/-! ### LDPC encoding (clause 5.3.2) -/

/-- The code of a block: base graph 2, Zc. -/
structure LdpcCode where
  bg2 : Bool
  zc : Nat

/-- Information columns, columns and rows of the base graph. -/
def LdpcCode.kb (c : LdpcCode) : Nat := if c.bg2 then 10 else 22
def LdpcCode.cols (c : LdpcCode) : Nat := if c.bg2 then 52 else 68
def LdpcCode.rows (c : LdpcCode) : Nat := if c.bg2 then 42 else 46

/-- The columns of base-graph row r with their shifts, in increasing order. -/
def LdpcCode.edges (c : LdpcCode) (r : Nat) : List (Nat × Nat) :=
  (List.range c.cols).filterMap fun j => (Config.bgShift c.bg2 c.zc r j).map fun v => (j, v)

/-- The variables of lifted row z of row r. -/
def LdpcCode.vars (c : LdpcCode) (r z : Nat) : List Nat := (c.edges r).map fun e => e.1 * c.zc + (z + e.2) % c.zc

/-- The shift of the first parity column that the sum of the four core rows leaves: the one that stands there an odd
number of times. -/
def LdpcCode.coreShift (c : LdpcCode) : Nat :=
  let l := (List.range 4).flatMap fun r => ((c.edges r).filter (·.1 = c.kb)).map (·.2)
  ((l.find? fun v => l.count v % 2 = 1).getD 0) % max 1 c.zc

/-- Variables as far as they are known. -/
abbrev LdpcWord := Array (Option Bool)

/-- The sum of the known variables among `l`. -/
def knownSum (w : LdpcWord) (l : List Nat) : Bool :=
  l.foldl (fun b x => b != (w.getD x none).getD false) false

/-- A lifted row with one unknown variable gives it. -/
def solveRow (w : LdpcWord) (l : List Nat) : LdpcWord :=
  match l.filter fun x => (w.getD x none).isNone with
  | [x] => w.setIfInBounds x (some (knownSum w l))
  | _ => w

/-- The codeword of K information bits: the first parity column from the sum of the core rows, in which the others cancel,
and every further parity bit from the row that has it alone unknown. -/
def ldpcEncode (c : LdpcCode) (info : List Bool) : List Bool :=
  let k := c.kb * c.zc
  let w0 : LdpcWord := ((List.range (c.cols * c.zc)).map fun i => if i < k then some (info.getD i false) else none).toArray
  let w1 := (List.range c.zc).foldl (fun (w : LdpcWord) z =>
    let v := knownSum w0 ((List.range 4).flatMap fun r => (c.vars r z).filter (· < k))
    w.setIfInBounds (k + (z + c.coreShift) % c.zc) (some v)) w0
  let w := (List.range c.rows).foldl (fun w r => (List.range c.zc).foldl (fun w z => solveRow w (c.vars r z)) w) w1
  w.toList.map (·.getD false)

/-! ### Rate matching (clause 5.4.2) -/

/-- The circular-buffer positions that carry bits, from k0 on, fillers left out. -/
def ringOrder (t : TbLengths) : List Nat :=
  ((List.range t.ncb).map fun j => (t.k0 + j) % t.ncb).filter fun j => !(t.kPrime ≤ j + 2 * t.zc && j + 2 * t.zc < t.k)

/-- The circular-buffer position of bit m of the interleaved sequence f of code block cb (R287, R297). -/
def rateRecover (params : List Nat) (cb : Nat) : Nat → Nat :=
  let order := (ringOrder (itemLengths params)).toArray
  let qm := max 1 (params.getD 4 0)
  let n := blockE params cb / qm
  fun m => order.getD ((m % qm * n + m / qm) % max 1 order.size) 0

/-- Bits of a transport block as segments of its code blocks: each with its CRC24B where there are several (clause
5.2.2). -/
def segments (t : TbLengths) (l : List Bool) : List (List Bool) :=
  if t.c = 1 then [l]
  else (List.range t.c).map fun i =>
    let b := (l.drop (i * (t.kPrime - 24))).take (t.kPrime - 24)
    b ++ natBits 24 (crc24b b)

/-- The sequence f of a downlink item: CRC24A, segmentation, encoding, rate matching and interleaving of its payload bits
(R301). -/
def dlCoded (params : List Nat) (payload : List Bool) : List Bool :=
  let t := itemLengths params
  let blocks := segments t (payload ++ natBits 24 (crc24a payload))
  (blocks.mapIdx fun cb b =>
    let d := (((ldpcEncode ⟨t.bg2, t.zc⟩ (b ++ List.replicate (t.k - b.length) false)).drop (2 * t.zc))).toArray
    (List.range (blockE params cb)).map fun m => d.getD (rateRecover params cb m) false).flatten

/-- The E bits of a burst's code block of 4,224 bits: base graph 1, Zc = 192, Ncb = 12,672, redundancy version 0 (R312).
-/
def linkCoded (l : List Bool) (e : Nat) : List Bool :=
  let d := ((ldpcEncode ⟨false, 192⟩ l).drop 384).toArray
  (List.range e).map fun i => d.getD (i % 12672) false

/-! ### Polar codes (clauses 5.3.1, 5.4.1, 6.3.1) -/

/-- CRC bits of A payload bits, and the CRC. -/
def uciCrcLen (a : Nat) : Nat := if a < 20 then 6 else 11
def uciCrc (a : Nat) (l : List Bool) : Nat := if a < 20 then crcBits 6 0x21 0 l else crcBits 11 0x621 0 l

/-- Code blocks of A payload bits in E coded bits. -/
def uciBlocks (a e : Nat) : Nat := if 360 ≤ a ∧ 1088 ≤ e ∨ 1013 ≤ a then 2 else 1

/-- n of a code of K bits sent in E: N = 2^n. -/
def polarOrder (k e : Nat) : Nat :=
  let t := log2Up e
  let n1 := if 8 * e ≤ 9 * 2 ^ (t - 1) ∧ 16 * k < 9 * e then t - 1 else t
  max 5 (min (min n1 (log2Up (8 * k))) 10)

/-- Sub-block interleaver: position of coded bit n of 2^order. -/
def subBlock (order n : Nat) : Nat :=
  let p := [0, 1, 2, 4, 3, 5, 6, 7, 8, 16, 9, 17, 10, 18, 11, 19, 12, 20, 13, 21, 14, 22, 15, 23, 24, 25, 26, 28, 27, 29,
    30, 31]
  let w := 2 ^ order / 32
  p.getD (n / w) 0 * w + n % w

/-- Order in which the coded bits of a codeword of E are sent: the triangular interleaver. -/
def triangleOrder (e : Nat) : List Nat :=
  let t := ((List.range (e + 1)).find? fun t => 2 * e ≤ t * (t + 1)).getD 0
  (List.range t).flatMap fun j => (List.range (t - j)).filterMap fun i =>
    let k := i * t - i * (i - 1) / 2 + j
    if k < e then some k else none

/-- The largest soft value, that of a bit known to be 0. -/
def knownZero : Int := 32767

/-- The soft values of the 2^order codeword bits, from those received: repetitions add up, punctured bits have none, and
shortened ones are known to be 0. -/
def polarSoft (order k : Nat) (received : List Int) : List Int :=
  let e := received.length
  let n := 2 ^ order
  let sent := ((triangleOrder e).zip received).foldl (fun (a : Array Int) x => a.setIfInBounds x.1 x.2)
    (List.replicate e (0 : Int)).toArray
  let y (i : Nat) : Int :=
    if n ≤ e then ((List.range e).filter (· % n = i)).foldl (fun v j => v + sent.getD j 0) 0
    else if 16 * k ≤ 7 * e then (if i < n - e then 0 else sent.getD (i - (n - e)) 0)
    else if i < e then sent.getD i 0 else knownZero
  ((List.range n).foldl (fun (a : Array Int) i => a.setIfInBounds (subBlock order i) (y i))
    (List.replicate n (0 : Int)).toArray).toList

/-- Bits that rate matching freezes. -/
def polarPunctured (order k e : Nat) : List Nat :=
  let n := 2 ^ order
  if n ≤ e then []
  else if 16 * k ≤ 7 * e then
    (List.range (n - e)).map (subBlock order) ++
      List.range (if 3 * n ≤ 4 * e then divUp (3 * n - 2 * e) 4 else divUp (9 * n - 4 * e) 16)
  else (List.range (n - e)).map fun i => subBlock order (e + i)

/-- Parity-check bits of a code of K bits sent in E, and those of them of least row weight. -/
def parityChecks (k e : Nat) : Nat × Nat :=
  if 18 ≤ k ∧ k ≤ 25 then (3, if 192 < e + 3 - k then 1 else 0) else (0, 0)

/-- The bits that carry information or parity checks, least reliable first. -/
def polarUsed (order k e : Nat) : List Nat :=
  let frozen := polarPunctured order k e
  let l := ((List.range 1024).map Config.polarSequence).filter fun i => i < 2 ^ order && !frozen.contains i
  l.drop (l.length - (k + (parityChecks k e).1))

/-- The parity-check bits among them: the least reliable, and of the others the most reliable of least row weight. -/
def polarParity (order k e : Nat) : List Nat :=
  let l := polarUsed order k e
  let (n, w) := parityChecks k e
  let rest := l.drop n
  let weight (i : Nat) := popcount 10 i
  let least := (rest.map weight).foldl min 10
  l.take (n - w) ++ if w = 0 then [] else ((rest.filter fun i => weight i = least).getLast?).toList

/-- u × G_N. -/
def polarTransform : Nat → List Bool → List Bool
  | 0, l => l
  | n + 1, l =>
    let a := polarTransform n (l.take (2 ^ n))
    let b := polarTransform n (l.drop (2 ^ n))
    List.zipWith (· != ·) a b ++ b

/-- The LLR of the bit behind the decided ones `us`, from the LLRs of the codeword. -/
def bitLlr : Nat → List Int → List Bool → Int
  | 0, l, _ => l.headD 0
  | n + 1, l, us =>
    let a := l.take (2 ^ n)
    let b := l.drop (2 ^ n)
    if us.length < 2 ^ n then
      bitLlr n (List.zipWith (fun x y => (if (x < 0) = (y < 0) then 1 else -1) * (min x.natAbs y.natAbs : Nat)) a b) us
    else
      let c := polarTransform n (us.take (2 ^ n))
      bitLlr n (List.zipWith (fun (x, u) y => if u then y - x else y + x) (a.zip c) b) (us.drop (2 ^ n))

/-- A path of the list: its bits and its metric. -/
structure PolarPath where
  bits : List Bool
  metric : Nat

/-- A path with one more bit: the metric takes |LLR| where the bit is not the LLR's decision, saturating at 16 bits
(R295). -/
def PolarPath.step (p : PolarPath) (llr : Int) (u : Bool) : PolarPath :=
  ⟨p.bits ++ [u], if u = decide (llr < 0) then p.metric else min 0xFFFF (p.metric + llr.natAbs)⟩

/-- The 8 paths of least metric, ties to the lower index, in the order of their indices (R295). -/
def bestPaths (l : List PolarPath) : List PolarPath :=
  let idx := l.zipIdx
  (idx.filter fun (p, i) => (idx.countP fun (q, j) => q.metric < p.metric || q.metric = p.metric && j < i) < 8).map (·.1)

/-- The parity-check bit behind the bits `us`: of five cells that turn at each bit, to whose first every information bit
is added (clause 5.3.1.2). -/
def parityCell (used parity : List Nat) (us : List Bool) : Bool :=
  let turn : List Bool → List Bool
    | a :: r => r ++ [a]
    | [] => []
  let y := (us.zipIdx).foldl (fun y (u, i) =>
    match turn y with
    | a :: r => (if used.contains i && !parity.contains i then a != u else a) :: r
    | [] => []) (List.replicate 5 false)
  (turn y).headD false

/-- Bit i of a code decided on every path. -/
def polarStep (order : Nat) (llrs : List Int) (used parity : List Nat) (l : List PolarPath) (i : Nat) : List PolarPath :=
  if parity.contains i then
    l.map fun p => p.step (bitLlr order llrs p.bits) (parityCell used parity p.bits)
  else if used.contains i then
    bestPaths (l.flatMap fun p =>
      let v := bitLlr order llrs p.bits
      [p.step v false, p.step v true])
  else l.map fun p => p.step (bitLlr order llrs p.bits) false

/-- One code block of K bits (CRC included, of A payload bits): the bits of the surviving path, that of least metric among
those whose CRC passes, or else of all, and whether its CRC passes (R295). -/
def polarBlock (a k : Nat) (received : List Int) : List Bool × Bool :=
  let e := received.length
  let order := polarOrder k e
  let used := polarUsed order k e
  let parity := polarParity order k e
  let llrs := polarSoft order k received
  let ends := (List.range (2 ^ order)).foldl (polarStep order llrs used parity) [⟨[], 0⟩]
  let info (p : PolarPath) : List Bool :=
    ((p.bits.zipIdx).filter fun (_, i) => used.contains i && !parity.contains i).map (·.1)
  let ok (l : List Bool) : Bool := uciCrc a (l.take (k - uciCrcLen a)) = bitsNat (l.drop (k - uciCrcLen a))
  let least (l : List PolarPath) : Option PolarPath := l.foldl (fun b p => match b with
    | none => some p
    | some q => if p.metric < q.metric then some p else b) none
  match least (ends.filter fun p => ok (info p)), least ends with
  | some p, _ => ((info p).take (k - uciCrcLen a), true)
  | none, some p => ((info p).take (k - uciCrcLen a), false)
  | none, none => ([], false)

/-- CRC-aided list decoding of a UCI codeword: the A payload bits and whether every CRC passes (R295). Of two blocks, the
first has a 0 in front where A is odd. -/
def polarDecode (a e : Nat) (llrs : List Int) : List Bool × Bool :=
  let c := uciBlocks a e
  let per := divUp a c
  let l := (List.range c).map fun i => polarBlock a (per + uciCrcLen a) ((llrs.drop (i * (e / c))).take (e / c))
  (((l.map (·.1)).flatten).drop (c * per - a), l.all (·.2))

end Sys2Proof.Machine
end

