-- ==== Sys2Proof/Machine/Regs.lean ====
section
/-! DEFINITION. Regs.lean: the register map of BAR0 (Tables 1.3 and 1.4) and every register table of the manual:
offsets, fields, access types (Table 0.3), change classes (R9–R14) and reset values.

Bits that no field names are reserved: they read 0 and writes do not reach them (R5). -/

namespace Sys2Proof.Machine

/-- Access types (Table 0.3). -/
inductive Access | ro | rw | w1c | wo | rc
  deriving DecidableEq, Repr

/-- Change classes (R9, R10, R14). -/
inductive Class | live | staged | locked
  deriving DecidableEq, Repr

/-- A field of a register: bits [hi:lo]. -/
structure Fld where
  hi : Nat
  lo : Nat
  acc : Access
  cls : Class
  deriving DecidableEq, Repr

/-- A row of a register table: `count` registers, `step` bytes apart from `off` on. -/
structure RegRow where
  name : String
  off : Nat
  reset : Nat → Word
  flds : List Fld
  count : Nat := 1
  step : Nat := 4

def ro (hi lo : Nat) : Fld := ⟨hi, lo, .ro, .live⟩
def rw (hi lo : Nat) : Fld := ⟨hi, lo, .rw, .live⟩
def rwS (hi lo : Nat) : Fld := ⟨hi, lo, .rw, .staged⟩
def rwK (hi lo : Nat) : Fld := ⟨hi, lo, .rw, .locked⟩
def w1c (hi lo : Nat) : Fld := ⟨hi, lo, .w1c, .live⟩
def wo (hi lo : Nat) : Fld := ⟨hi, lo, .wo, .live⟩
def rc (hi lo : Nat) : Fld := ⟨hi, lo, .rc, .live⟩

/-- A row of one register. -/
def reg (name : String) (off : Nat) (reset : Word) (flds : List Fld) : RegRow :=
  { name := name, off := off, reset := fun _ => reset, flds := flds }

/-- A row of `count` registers with one reset value. -/
def regs (name : String) (off : Nat) (reset : Word) (flds : List Fld) (count step : Nat) : RegRow :=
  { name := name, off := off, reset := fun _ => reset, flds := flds, count := count, step := step }

/-- COMMIT (Table 0.4). -/
def commitReg (off : Nat) : RegRow := reg "COMMIT" off 0 [ro 1 1, ⟨0, 0, .wo, .live⟩]

/-! ### Blocks -/

/-- The blocks of a logical tile window (Table 1.4). -/
inductive TileBlock | control | array | rod | core | slide | quickSum
  deriving DecidableEq, Repr

/-- The blocks of the register space (Table 1.3). -/
inductive Block
  | global | tally | common | ledger | time | fronthaul | bridge | hbm
  | central (e : Nat) | integrity | carrier (c : Nat) | tile (t : Nat) (b : TileBlock)
  | phys (p : Nat) | debug | carrierAll | carrierGroup (g : Nat) | tileAll | tileGroup (g : Nat) | reserved
  deriving DecidableEq, Repr

/-- Base offset of carrier context c (Table 1.3). -/
def carrierBase (c : Nat) : Nat := 0x0080_0000 + c * 0x2_0000
/-- Base offset of logical tile window t (Table 1.3). -/
def tileBase (t : Nat) : Nat := 0x0100_0000 + t * 0x10_0000
/-- Base offset of physical tile window p (Table 1.3). -/
def physBase (p : Nat) : Nat := 0x0300_0000 + p * 0x1_0000
/-- Base offset of the bead-array, rod, digit-core and Quick Sum blocks of tile t (Table 1.4). -/
def baBase (t : Nat) : Nat := tileBase t + 0x1_0000
def rodBase (t : Nat) : Nat := tileBase t + 0x2_0000
def dcBase (t : Nat) : Nat := tileBase t + 0x3_0000
def qsBase (t : Nat) : Nat := tileBase t + 0x5_0000
/-- Base offset of the slide block of engine e: 0–15 by logical tile, 16–19 central. -/
def slideBase (e : Nat) : Nat :=
  if e < 16 then tileBase e + 0x4_0000 else 0x0060_0000 + (e - 16) * 0x4_0000
/-- Base offset of the registers of channel ch of engine e. -/
def chBase (e ch : Nat) : Nat := slideBase e + 0x1000 + ch * 0x40
/-- Base offset of the registers of time base n. -/
def tbBase (n : Nat) : Nat := 0x0020_0100 + n * 0x80
/-- Base offset of the registers of fronthaul link l. -/
def fhBase (l : Nat) : Nat := 0x0030_2000 + l * 0x100
/-- Base offset of the registers of completion ring r. -/
def cplBase (r : Nat) : Nat := 0x0010_0200 + r * 0x20
/-- Base offset of the words of tally n. -/
def tallyBase (n : Nat) : Nat := 0x0008_0000 + n * 0x10
/-- Base offset of the debug block. -/
def dbgBase : Nat := 0x0380_0000
/-- Base offset of the integrity block. -/
def igBase : Nat := 0x0070_0000
/-- Base offset of the bridge block. -/
def brBase : Nat := 0x0040_0000
/-- Base offset of the HBM controller block. -/
def hbmBase : Nat := 0x0050_0000
/-- Base offset of the CB registers. -/
def cbBase : Nat := 0x000C_0000
/-- Base offset of the board registers of logical tile t. -/
def brdBase (t : Nat) : Nat := tileBase t + 0x100

/-- The block of a tile-window offset (Table 1.4). -/
def tileBlockOf (o : Nat) : Option TileBlock :=
  if o < 0x1_0000 then some .control else if o < 0x2_0000 then some .array
  else if o < 0x3_0000 then some .rod else if o < 0x4_0000 then some .core
  else if o < 0x5_0000 then some .slide else if o < 0x6_0000 then some .quickSum else none

/-- The base offset of a block of tile t. -/
def tileBlockBase (t : Nat) : TileBlock → Nat
  | .control => tileBase t
  | .array => baBase t
  | .rod => rodBase t
  | .core => dcBase t
  | .slide => slideBase t
  | .quickSum => qsBase t

/-- The block an offset lies in, and the offset within it (R31, R32). -/
def blockOf (o : Nat) : Block × Nat :=
  if o < 0x0008_0000 then (.global, o)
  else if o < 0x000C_0000 then (.tally, o - 0x0008_0000)
  else if o < 0x0010_0000 then (.common, o - 0x000C_0000)
  else if o < 0x0020_0000 then (.ledger, o - 0x0010_0000)
  else if o < 0x0030_0000 then (.time, o - 0x0020_0000)
  else if o < 0x0040_0000 then (.fronthaul, o - 0x0030_0000)
  else if o < 0x0050_0000 then (.bridge, o - 0x0040_0000)
  else if o < 0x0060_0000 then (.hbm, o - 0x0050_0000)
  else if o < 0x0070_0000 then (.central ((o - 0x0060_0000) / 0x4_0000), (o - 0x0060_0000) % 0x4_0000)
  else if o < 0x0080_0000 then (.integrity, o - 0x0070_0000)
  else if o < 0x00B0_0000 then (.carrier ((o - 0x0080_0000) / 0x2_0000), (o - 0x0080_0000) % 0x2_0000)
  else if o < 0x00E0_0000 then (.reserved, 0)
  else if o < 0x00E2_0000 then (.carrierAll, o - 0x00E0_0000)
  else if o < 0x00F2_0000 then (.carrierGroup ((o - 0x00E2_0000) / 0x2_0000), (o - 0x00E2_0000) % 0x2_0000)
  else if o < 0x0100_0000 then (.reserved, 0)
  else if o < 0x0200_0000 then
    let t := (o - 0x0100_0000) / 0x10_0000
    let w := (o - 0x0100_0000) % 0x10_0000
    match tileBlockOf w with
    | some b => (.tile t b, w - (tileBlockBase t b - tileBase t))
    | none => (.reserved, 0)
  else if o < 0x0210_0000 then (.tileAll, o - 0x0200_0000)
  else if o < 0x0290_0000 then (.tileGroup ((o - 0x0210_0000) / 0x10_0000), (o - 0x0210_0000) % 0x10_0000)
  else if o < 0x0300_0000 then (.reserved, 0)
  else if o < 0x0311_0000 then (.phys ((o - 0x0300_0000) / 0x1_0000), (o - 0x0300_0000) % 0x1_0000)
  else if o < 0x0380_0000 then (.reserved, 0)
  else if o < 0x0400_0000 then (.debug, o - 0x0380_0000)
  else (.reserved, 0)

/-! ### Register tables -/

/-- Tables 0.1, 13.1, 15.1, 15.6–15.10, 16.12–16.14 and the registers listed beside them. -/
def globalRegs : List RegRow := [
  reg "DEVICE_ID" 0x0_0000 0x2416_1000 [ro 31 0],
  reg "ERRLOG_PROD" 0x0_1000 0 [ro 31 0],
  reg "ERRLOG_CONS" 0x0_1004 0 [rw 31 0],
  reg "ERRLOG_STATUS" 0x0_1008 0 [w1c 0 0],
  reg "ERRLOG_LOST" 0x0_100C 0 [rc 31 0],
  reg "ERRLOG_OVF" 0x0_1010 0 [ro 7 0, ro 19 16, ro 24 20],
  regs "ERRLOG_ENTRY" 0x0_2000 0 [ro 31 0] 512 4,
  regs "ERR_CNT" 0x0_3000 0 [rc 31 0] 256 4,
  reg "HOST_BAR2_BASE_LO" 0x1_0000 0 [rw 31 30],
  reg "HOST_BAR2_BASE_HI" 0x1_0004 0 [rw 15 0],
  reg "HOST_BOOT_STATUS" 0x1_0010 0 [ro 15 8, ro 5 5, ro 4 4, ro 2 0],
  reg "HOST_RECOVERY" 0x1_0014 0 [wo 31 0],
  reg "HOST_RESET" 0x1_0018 0 [wo 0 0],
  reg "HOST_RESET_CAUSE" 0x1_001C 0 [w1c 4 0],
  reg "HOST_VEC" 0x1_0020 0x0900 [rw 13 8, rw 5 0],
  reg "HOST_EVT" 0x1_0024 0 [w1c 2 0],
  regs "HOST_CCRING" 0x1_0028 0
    [rw 2 0, rw 6 4, rw 10 8, rw 14 12, rw 18 16, rw 22 20, rw 26 24, rw 30 28] 3 4,
  regs "HOST_TGRP_MASK" 0x1_0100 0 [rw 15 0] 8 4,
  regs "HOST_CGRP_MASK" 0x1_0140 0 [rw 23 0] 8 4,
  reg "BCAST_READ_STATUS" 0x1_0180 0 [w1c 0 0],
  reg "BCAST_READ_MASK" 0x1_0184 0 [ro 23 0],
  reg "BCAST_READ_ADDR" 0x1_0188 0 [ro 31 0],
  reg "PWR_LIMIT" 0x4_0000 0x001E_015E [rwS 21 12, rwS 9 0],
  reg "PWR_BUDGET_T" 0x4_0004 0x19C8 [rwS 15 8, rwS 7 0],
  reg "PWR_THERM" 0x4_0008 0x025F [rwS 11 8, rwS 7 0],
  reg "PWR_VMON" 0x4_000C 0 [rw 7 4, rw 3 0],
  reg "PWR_FAST" 0x4_0010 0x0045_0280 [rw 23 16, rw 9 0],
  reg "PWR_DIDT" 0x4_0014 0x8000_040C [rwK 31 31, rwK 15 8, rwK 4 0],
  reg "PWR_STATUS" 0x4_0020 0
    [w1c 24 24, ro 23 16, ro 11 8, ro 7 7, ro 6 6, ro 5 5, ro 4 4, ro 3 3],
  reg "PWR_STEP" 0x4_0024 0 [ro 3 0],
  reg "PWR_POWER" 0x4_0028 0 [ro 31 0],
  reg "PWR_PEAK_USED" 0x4_002C 0 [ro 31 0],
  regs "PWR_ENERGY" 0x4_0030 0 [ro 31 0] 2 4,
  reg "PWR_VDD" 0x4_0038 0 [ro 15 0],
  reg "PWR_VDD_MIN" 0x4_003C 0xFFFF [rc 15 0],
  reg "PWR_VWARN_CNT" 0x4_0040 0 [rc 31 0],
  reg "PWR_FAST_CNT" 0x4_0044 0 [rc 31 0],
  reg "PWR_STEP_CNT" 0x4_0048 0 [rc 31 0],
  reg "PWR_RESET_CAUSE" 0x4_0080 1 [w1c 3 0],
  commitReg 0x4_00FC,
  regs "PWR_TEMP" 0x4_0100 0 [ro 7 0] 25 4,
  reg "PWR_TEMP_MAX" 0x4_0180 0x80 [rc 7 0],
  reg "PWR_WEAR" 0x4_0200 0 [ro 31 0],
  reg "PWR_WEAR_BASE" 0x4_0204 0 [rw 31 0],
  reg "PWR_WEAR_HOT" 0x4_0208 0 [ro 31 0],
  reg "PWR_WEAR_HOT_BASE" 0x4_020C 0 [rw 31 0],
  reg "PWR_ON_TIME" 0x4_0210 0 [ro 31 0],
  reg "CLK_STATUS" 0x5_0000 0x14A8_5000 [ro 28 24, ro 23 20, ro 19 16, ro 15 12, ro 0 0]]

/-- Tables 9.2–9.5, for one tally. -/
def tallyRegs : List RegRow := [
  reg "TALLY_COUNT" 0x0 0 [rw 30 0],
  reg "TALLY_ADD" 0x4 0 [wo 31 0],
  reg "TALLY_SUB" 0x8 0 [wo 31 0],
  reg "TALLY_STATUS" 0xC 0 [ro 10 8, ro 2 2, w1c 1 1, w1c 0 0]]

/-- The CB registers (R200), and the MSI-X table and PBA (Table 16.1); the layout and reset of the MSI-X words are the
PCIe base specification's, every vector masked (log entry 9). -/
def commonRegs : List RegRow := [
  reg "CB_CTRL" 0x00 0x0040_4001 [rw 23 16, rw 15 8, rw 0 0],
  reg "CB_ECC_STATUS" 0x04 0 [ro 8 4, w1c 1 1, w1c 0 0],
  reg "CB_ECC_ADDR" 0x08 0 [ro 26 3],
  reg "CB_ECC_CORR_CNT" 0x0C 0 [rc 31 0],
  reg "CB_ECC_UNCORR_CNT" 0x10 0 [rc 31 0],
  regs "CB_LOST" 0x40 0 [rc 31 0] 25 4,
  regs "MSIX_ADDR_LO" 0x1_0000 0 [rw 31 2] 64 16,
  regs "MSIX_ADDR_HI" 0x1_0004 0 [rw 31 0] 64 16,
  regs "MSIX_DATA" 0x1_0008 0 [rw 31 0] 64 16,
  regs "MSIX_CONTROL" 0x1_000C 1 [rw 0 0] 64 16,
  regs "MSIX_PBA" 0x1_0800 0 [ro 31 0] 2 4]

/-- Tables 9.12–9.19, 16.15 and the Ledger-block host registers. -/
def ledgerRegs : List RegRow := [
  reg "SUB_CTRL" 0x0000 0 [rw 0 0],
  reg "SUB_SIZE" 0x0004 1024 [rwK 31 0],
  reg "SUB_CONS" 0x0008 0 [ro 31 0],
  reg "SUB_SCAN" 0x000C 100 [rwS 15 0],
  regs "SUB_MIRROR" 0x0010 0 [rw 31 0] 2 4,
  reg "SUB_STATUS" 0x0018 0 [w1c 0 0],
  reg "SUB_REJ" 0x001C 0 [rc 31 0],
  reg "LEDGER_STATUS" 0x0020 0 [ro 31 16, ro 2 2, ro 1 1, ro 0 0],
  reg "LEDGER_FW" 0x0024 0 [ro 31 0],
  commitReg 0x00FC,
  regs "CPL_BASE_LO" 0x0200 0 [rwK 31 0] 8 0x20,
  regs "CPL_BASE_HI" 0x0204 0 [rwK 31 0] 8 0x20,
  regs "CPL_SIZE" 0x0208 256 [rwK 31 0] 8 0x20,
  regs "CPL_HEAD" 0x020C 0 [rw 31 0] 8 0x20,
  regs "CPL_TAIL" 0x0210 0 [ro 31 0] 8 0x20,
  { name := "CPL_CFG", off := 0x0214, reset := fun r => BitVec.ofNat 32 ((1 + r) * 256),
    flds := [rw 23 16, rw 13 8, rw 0 0], count := 8, step := 0x20 },
  regs "CPL_DROP" 0x0218 0 [rc 31 0] 8 0x20,
  reg "JOB_RUNNING" 0x4000 7 [ro 31 16, ro 2 0],
  reg "JOB_SWITCH_BEATS" 0x4008 0 [ro 31 0],
  regs "JOB_SLOT_STATUS" 0x4010 0 [ro 31 16, ro 2 0] 4 0x10,
  regs "JOB_SLOT_NS" 0x4014 0 [ro 28 16, ro 13 0] 4 0x10,
  regs "JOB_SLOT_END" 0x4018 0 [ro 31 0] 4 0x10,
  reg "LEASE_STATUS" 0x4050 0 [ro 7 0],
  reg "LEASE_EXPIRED" 0x4054 0 [rc 31 0],
  regs "ACCT_0" 0x8000 0 [ro 31 0] 528 4,
  regs "ACCT_1" 0x9000 0 [ro 31 0] 528 4,
  regs "ACCT_2" 0xA000 0 [ro 31 0] 528 4,
  regs "ACCT_3" 0xB000 0 [ro 31 0] 528 4,
  regs "ACCT_DEVICE" 0xC000 0 [ro 31 0] 16 4]

/-- Tables 12.4–12.7. -/
def timeRegs : List RegRow := [
  reg "TM_CTRL" 0x0000 0 [wo 0 0],
  regs "TM_COUNT" 0x0008 0 [ro 31 0] 2 4,
  regs "TM_SNAP_COUNT" 0x0010 0 [ro 31 0] 2 4,
  commitReg 0x00FC,
  regs "TB_CTRL" 0x0100 0x12 [rwS 6 4, rw 2 2, ro 1 1, wo 0 0] 4 0x80,
  regs "TB_SRC" 0x0104 0x0A18_0700 [rw 31 24, rw 23 16, rw 10 8, rw 6 4, rw 2 0] 4 0x80,
  regs "TB_STATUS" 0x0108 0 [ro 3 3, ro 2 0] 4 0x80,
  regs "TB_RATE" 0x010C 0 [rw 31 0] 4 0x80,
  regs "TB_STEP_LO" 0x0110 0 [wo 31 0] 4 0x80,
  regs "TB_STEP_HI" 0x0114 0 [wo 31 0] 4 0x80,
  regs "TB_TIME_LO" 0x0118 0 [ro 31 0] 4 0x80,
  regs "TB_TIME_HI" 0x011C 0 [ro 31 0] 4 0x80,
  regs "TB_TIME_FRAC" 0x0120 0 [ro 15 0] 4 0x80,
  regs "TB_TOFF_LO" 0x0124 0 [rwK 31 0] 4 0x80,
  regs "TB_TOFF_HI" 0x0128 0 [rwK 31 0] 4 0x80,
  regs "TB_OFFSET" 0x012C 0 [ro 31 0] 4 0x80,
  regs "TB_MEAS_LO" 0x0130 0 [wo 31 0] 4 0x80,
  regs "TB_MEAS_HI" 0x0134 0 [wo 31 0] 4 0x80,
  regs "TB_SNAP_LO" 0x0138 0 [ro 31 0] 4 0x80,
  regs "TB_SNAP_HI" 0x013C 0 [ro 31 0] 4 0x80,
  regs "TB_SNAP_FRAC" 0x0140 0 [ro 15 0] 4 0x80,
  reg "TM_PPS_CFG" 0x0400 0x2710_0000 [rw 31 16, rw 2 1, rw 0 0],
  reg "TM_PPS_OFFSET" 0x0404 0 [rw 31 0],
  regs "TM_PPS_IN" 0x0408 0 [ro 31 0] 2 4,
  reg "TM_PPS_IN_CNT" 0x0410 0 [rc 31 0],
  regs "TM_LINK_CFG" 0x0500 0 [rw 1 0] 8 0x10,
  regs "TM_LINK_TRACE" 0x0504 0 [rw 31 16, rw 15 0] 8 0x10,
  reg "TM_SYNCE_CFG" 0x0600 0 [rw 3 1, rw 0 0],
  reg "TM_SYNCE_STATUS" 0x0604 0 [ro 0 0],
  reg "TM_SYNCE_FREQ" 0x0608 0 [ro 31 0]]

/-- Tables 10.7 and 10.9. -/
def fronthaulRegs : List RegRow := [
  regs "FH_PORT_CFG" 0x0000 0x2328_0000 [rwK 31 16, rwK 1 0] 2 0x1000,
  regs "FH_LINK_MAC_LO" 0x2000 0 [rwK 31 0] 8 0x100,
  regs "FH_LINK_MAC_HI" 0x2004 0 [rwK 15 0] 8 0x100,
  regs "FH_LINK_RX" 0x2008 0 [rc 31 0] 8 0x100,
  regs "FH_LINK_DROP0" 0x2010 0 [rc 31 0] 8 0x100,
  regs "FH_LINK_DROP1" 0x2014 0 [rc 31 0] 8 0x100,
  regs "FH_LINK_DROP2" 0x2018 0 [rc 31 0] 8 0x100,
  regs "FH_LINK_DROP3" 0x201C 0 [rc 31 0] 8 0x100,
  regs "FH_LINK_DROP4" 0x2020 0 [rc 31 0] 8 0x100,
  regs "FH_LINK_DROP5" 0x2024 0 [rc 31 0] 8 0x100,
  regs "FH_LINK_DUP" 0x2028 0 [rc 31 0] 8 0x100,
  regs "FH_LINK_TX" 0x202C 0 [rc 31 0] 8 0x100]

/-- Tables 14.4–14.7 and the registers listed beside them. -/
def bridgeRegs : List RegRow := [
  reg "BR_CFG" 0x000 200 [rwK 31 31, rwK 30 30, rw 15 0],
  reg "BR_STATUS" 0x004 0 [w1c 4 4, ro 2 0],
  reg "BR_LS_CTRL" 0x010 0 [rw 2 1, rwK 0 0],
  reg "BR_LS_STATUS" 0x014 0 [ro 11 8, ro 2 0],
  regs "BR_CREDIT" 0x020 0 [ro 24 24, ro 23 16, ro 15 8, ro 7 0] 4 4,
  reg "BR_TX_FLITS" 0x040 0 [rc 31 0],
  reg "BR_RX_FLITS" 0x044 0 [rc 31 0],
  reg "BR_REPLAYS" 0x048 0 [rc 31 0],
  reg "BR_RETRAINS" 0x04C 0 [rc 31 0],
  reg "BR_SIG_DROP" 0x050 0 [rc 31 0],
  reg "BR_REQ_REFUSED" 0x054 0 [rc 31 0],
  regs "BR_LS_COMPARED" 0x058 0 [ro 31 0] 2 4]

/-- Tables 7.5 and 7.6 and the registers listed beside them. -/
def hbmRegs : List RegRow := [
  reg "HBM_CTRL" 0x00 0x0020_4001 [rwS 24 24, rwS 23 16, rw 15 8, rw 0 0],
  reg "HBM_STATUS" 0x04 0 [ro 23 16, ro 8 8, ro 7 3, ro 2 2, ro 1 0],
  reg "HBM_ECC_STATUS" 0x08 0 [ro 12 8, w1c 1 1, w1c 0 0],
  regs "HBM_ECC_ADDR" 0x0C 0 [ro 31 0] 2 4,
  reg "HBM_ECC_CORR_CNT" 0x14 0 [rc 31 0],
  reg "HBM_ECC_UNCORR_CNT" 0x18 0 [rc 31 0],
  reg "HBM_TRAIN_FAIL" 0x1C 0 [w1c 31 0],
  commitReg 0xFC]

/-- Tables 8.6–8.10 and the registers listed beside them. -/
def slideRegs : List RegRow := [
  reg "SLIDE_CTRL" 0x0000 0x0080_0103 [rw 31 16, rwK 8 8, rw 3 0],
  reg "SLIDE_STATUS" 0x0004 0x0080_8000 [ro 23 16, ro 15 8, ro 5 0],
  regs "SLIDE_SPILL_ADDR" 0x0008 0 [rwK 31 0] 2 4,
  reg "SLIDE_SPILL_CNT" 0x0010 0 [rc 31 0],
  reg "SLIDE_CANCEL_CNT" 0x0014 0 [rc 31 0],
  reg "SLIDE_SUBMIT" 0x0018 0 [wo 31 0],
  regs "SLIDE_CH_CFG" 0x1000 0x0080_0000 [rwK 31 31, rwK 30 30, rwK 29 29, rwK 26 24, rwK 23 16, rwK 15 8] 32 0x40,
  regs "SLIDE_CH_RATE" 0x1004 0x1000_0000 [rw 31 24, rw 15 0] 32 0x40,
  regs "SLIDE_CH_STATUS" 0x1008 0 [ro 25 16, ro 15 8, ro 7 6, w1c 5 5, w1c 4 4, ro 3 3, ro 2 0] 32 0x40,
  regs "SLIDE_CH_ERR_ADDR_LO" 0x100C 0 [ro 31 0] 32 0x40,
  regs "SLIDE_CH_ERR_ADDR_HI" 0x1010 0 [ro 31 0] 32 0x40,
  regs "SLIDE_CH_RETRIES" 0x1014 0 [rc 31 0] 32 0x40,
  regs "SLIDE_CH_RING_POS" 0x1018 0 [ro 15 0] 32 0x40,
  regs "SLIDE_CH_DONE" 0x101C 0 [rc 31 0] 32 0x40,
  regs "SLIDE_CH_STALL0" 0x1020 0 [rc 31 0] 32 0x40,
  regs "SLIDE_CH_STALL1" 0x1024 0 [rc 31 0] 32 0x40,
  regs "SLIDE_CH_STALL2" 0x1028 0 [rc 31 0] 32 0x40,
  regs "SLIDE_CH_STALL3" 0x102C 0 [rc 31 0] 32 0x40,
  regs "SLIDE_CH_STALL4" 0x1030 0 [rc 31 0] 32 0x40,
  regs "SLIDE_CH_STALL5" 0x1034 0 [rc 31 0] 32 0x40]

/-- Tables 13.10 and 13.11 and the registers listed beside them. -/
def integrityRegs : List RegRow := [
  reg "IG_CTRL" 0x000 0x03E8_000F [rw 31 16, rw 3 3, rw 2 2, rw 1 1, rwK 0 0],
  reg "IG_STATUS" 0x004 0x10 [ro 10 8, ro 5 5, ro 4 0],
  reg "IG_QPOLICY" 0x008 0x0003_03E8 [rwS 19 16, rwS 15 0],
  reg "IG_PROOF_CTRL" 0x00C 0x0000_6408 [rwS 23 8, rwS 7 0],
  reg "IG_CKPT" 0x010 12500 [rwS 15 0],
  reg "IG_QUARANTINE" 0x014 0 [ro 16 0],
  commitReg 0x0FC,
  regs "IG_TILE" 0x100 0 [ro 24 24, ro 20 16, ro 11 8, ro 4 4, ro 3 0] 16 4,
  regs "IG_PROOF_ADDR_LO" 0x200 0 [rwS 31 0] 24 0x10,
  regs "IG_PROOF_ADDR_HI" 0x204 0 [rwS 31 0] 24 0x10,
  regs "IG_PROOF_SIZE" 0x208 0 [rwS 31 0] 24 0x10,
  regs "IG_PROOF_STATUS" 0x20C 0 [ro 31 16, ro 10 10, ro 9 9, ro 8 8, ro 7 0] 24 0x10,
  regs "IG_LEVEL_CNT" 0x400 0 [rc 31 0] 4 4,
  reg "IG_WITHHELD" 0x410 0 [rc 31 0],
  reg "IG_PROOF_ABANDON" 0x414 0 [rc 31 0]]

/-- The reset thresholds of R325 for b = 1 to 10. -/
def blThresholds : List Nat := [12, 24, 38, 50, 62, 74, 86, 98, 110, 122]

/-- Tables 10.10, 10.11, 11.3–11.5 and the registers listed beside them. -/
def carrierRegs : List RegRow := [
  reg "CC_CTRL" 0x000 0x0444_4104
    [rw 31 31, rwK 30 30, rwK 29 28, rwK 27 26, rwK 25 23, rwK 22 14, rwK 13 8, rwK 7 2],
  reg "CC_STATUS" 0x004 0 [ro 11 8, w1c 2 2, w1c 1 1, ro 0 0],
  reg "CC_SLOT" 0x008 0 [ro 31 0],
  reg "CC_ULWIN" 0x010 0 [rwS 31 16, rwS 15 0],
  reg "CC_DLWIN" 0x014 0 [rwS 31 16, rwS 15 0],
  reg "CC_DEADLINE" 0x018 2 [rwS 2 0],
  reg "CC_COMP" 0x01C 0x0901_0901 [rwK 28 28, rwK 27 24, rwK 19 16, rwK 12 12, rwK 11 8, rwK 3 0],
  reg "CC_EAXC" 0x020 0 [rwK 28 28, rwK 27 16, rwK 15 5],
  reg "CC_DEC" 0x024 2 [rwS 7 0],
  regs "CC_TALLY_A" 0x040 0x0FFF_0FFF [rwS 27 16, rwS 11 0] 4 8,
  regs "CC_TALLY_B" 0x044 0x0FFF_0FFF [rwS 27 16, rwS 11 0] 4 8,
  regs "CC_BUF_OFF" 0x080 0 [ro 31 0] 5 8,
  regs "CC_BUF_SIZE" 0x084 0 [ro 31 0] 5 8,
  regs "CC_EVENT_CNT" 0x0C0 0 [rc 31 0] 7 4,
  commitReg 0x0FC,
  reg "LK_CFG" 0x400 0x0F00_1000 [rwS 31 24, rwK 15 4, rwK 0 0],
  reg "LK_TXMODE" 0x404 0 [rwS 27 16, rwS 4 4, rwS 3 0],
  reg "LK_AGC" 0x408 0x0002_30A0 [rw 19 16, rw 15 8, rw 7 0],
  reg "LK_DET" 0x40C 0x001D_049A [rw 20 16, rw 11 8, rw 7 0],
  reg "LK_DFE" 0x410 0x0208_4296 [rwS 31 24, rwS 21 16, rwS 15 12, rwS 9 8, rwS 7 4, rwS 3 0],
  reg "LK_BL" 0x414 0x4040_030C [rwS 31 28, rwS 27 16, rwS 11 8, rwS 7 0],
  { name := "LK_BLTHR", off := 0x418, reset := fun b => BitVec.ofNat 32 (blThresholds.getD b 0),
    flds := [rwS 7 0], count := 10, step := 4 },
  reg "LK_RXSTAT" 0x440 0x8000 [ro 31 29, ro 28 28, ro 23 16, ro 15 0],
  reg "LK_AFC" 0x444 0 [ro 31 0],
  reg "LK_AGC_LIVE" 0x448 0 [ro 9 8, ro 7 0],
  reg "LK_BLSTAT" 0x44C 0 [ro 17 17, ro 16 16, ro 15 8, ro 7 0],
  reg "LK_SYNC" 0x450 0xB4E2_3A71 [rwK 31 0],
  regs "LK_TXQ_BASE" 0x454 0 [rwK 31 0] 2 4,
  reg "LK_TXQ_SIZE" 0x45C 0x0001_0000 [rwK 31 0],
  regs "LK_RXRING_BASE" 0x460 0 [rwK 31 0] 2 4,
  reg "LK_RXRING_N" 0x468 16 [rwK 31 0],
  reg "LK_TXQ_STATUS" 0x46C 0 [w1c 1 1, w1c 0 0],
  regs "LK_CNT" 0x480 0 [rc 31 0] 9 4]

/-- Tables 7.2, 7.3, 9.20 and 15.4 and the board registers listed beside them. -/
def controlRegs : List RegRow := [
  reg "TCTL_TAG" 0x010 0 [rw 4 0],
  reg "TCTL_SHED" 0x014 0 [ro 4 4, ro 3 3, ro 2 2],
  reg "BRD_CTRL" 0x100 0x0040_4001 [rw 23 16, rw 15 8, rw 0 0],
  reg "BRD_ECC_STATUS" 0x104 0 [ro 7 4, w1c 1 1, w1c 0 0],
  reg "BRD_ECC_ADDR" 0x108 0 [ro 24 3],
  reg "BRD_ECC_CORR_CNT" 0x10C 0 [rc 31 0],
  reg "BRD_ECC_UNCORR_CNT" 0x110 0 [rc 31 0],
  regs "BRD_LOST" 0x140 0 [rc 31 0] 11 4]

/-- Tables 4.9–4.11 and the registers listed beside them. -/
def arrayRegs : List RegRow := [
  reg "BA_CTRL" 0x000 0x8 [rw 3 3, rwK 2 2, rwK 1 0],
  reg "BA_STATUS" 0x004 0 [ro 20 16, ro 15 15, ro 13 12, ro 7 4, ro 3 0],
  reg "BA_DEPTH" 0x008 0 [ro 31 0],
  reg "BA_FILLER" 0x00C 0x040C [rw 15 8, rw 4 0],
  reg "BA_REST" 0x010 0 [rw 7 0],
  reg "BA_FEED_TIMEOUT" 0x014 0x1000 [rwS 15 0],
  reg "BA_FAULT" 0x018 0 [ro 27 24, ro 23 20, ro 19 16, ro 15 12, ro 11 8, w1c 4 4, w1c 3 0],
  commitReg 0x0FC,
  regs "BA_FRZ" 0x100 0 [rc 31 0] 32 4,
  regs "BA_KSTEP" 0x180 0 [rc 31 0] 4 4,
  reg "BA_FILLER_BEATS" 0x190 0 [rc 31 0],
  reg "BA_PASSES" 0x194 0 [rc 31 0]]

/-- The Quick Sum block (Registers of The Bead Array and Quick Sum Path). -/
def quickSumRegs : List RegRow := [
  reg "QS_STATUS" 0x04 0 [ro 1 1, ro 0 0],
  regs "QS_STALL" 0x40 0 [rc 31 0] 4 4,
  reg "QS_KSTEPS" 0x60 0 [rc 31 0]]

/-- Tables 6.8–6.12. -/
def rodRegs : List RegRow := [
  reg "ROD_CTRL" 0x00 0 [rw 3 0],
  reg "ROD_STATUS" 0x04 0 [ro 12 8, ro 5 3, ro 1 0],
  reg "ROD_EXC" 0x08 0 [w1c 3 0],
  reg "ROD_FAULT" 0x0C 0 [ro 21 16, ro 11 8, w1c 0 0],
  regs "ROD_STALL" 0x40 0 [rc 31 0] 5 4,
  reg "ROD_CMDS" 0x60 0 [rc 31 0],
  reg "ROD_BUSY" 0x64 0 [rc 31 0]]

/-- Tables 3.10–3.15. -/
def coreRegs : List RegRow := [
  reg "DC_CTRL" 0x00 1 [wo 4 4, rwK 0 0],
  reg "DC_STATUS" 0x04 0 [ro 29 26, ro 25 21, ro 20 16, ro 13 10, ro 9 9, ro 8 8, ro 7 4, ro 2 0],
  reg "DC_PC" 0x08 0 [ro 24 0],
  reg "DC_HOLDOFF_LIMIT" 0x0C 0x09C4 [rwS 15 0],
  reg "DC_HOLDOFF_MAX" 0x10 0 [rc 31 0],
  regs "DC_STALL" 0x40 0 [rc 31 0] 8 4,
  commitReg 0xFC]

/-- Tables 4.12, 4.13, 13.12 and 13.13. The resets the manual calls fused are a part with no row repaired and no
self-test run (log entry 11). -/
def physRegs : List RegRow := [
  reg "PT_ROW_MAP" 0x00 0x3F1F [rwS 13 8, rwS 4 0],
  reg "PT_ROW_STATUS" 0x04 0x3F1F [ro 16 16, ro 13 8, ro 4 0],
  reg "PT_BIST" 0x08 0x3F00 [ro 16 16, ro 13 8, ro 2 2, ro 1 1, ⟨0, 0, .wo, .locked⟩],
  reg "PT_ROLE" 0x0C 0 [ro 11 8, ro 1 0],
  commitReg 0xFC]

/-- Tables 17.6 and 17.7 and the registers listed beside them. -/
def debugRegs : List RegRow := [
  reg "DBG_FREEZE" 0x00 2 [rw 1 1, rw 0 0],
  reg "DBG_STATUS" 0x04 0 [ro 6 6, w1c 5 5, w1c 4 4, w1c 3 3, w1c 2 2, ro 1 1, ro 0 0],
  reg "DBG_TRIG" 0x08 0 [rw 8 8, rw 7 0],
  reg "DBG_HALT" 0x0C 0 [rw 15 0],
  reg "DBG_HALTED" 0x10 0 [ro 15 0],
  reg "DBG_SPACE" 0x20 0 [rw 2 0],
  regs "DBG_ADDR" 0x24 0 [rw 31 0] 2 4,
  reg "DBG_DATA" 0x2C 0 [ro 31 0],
  reg "DBG_STREAM_LEN" 0x30 0 [wo 31 0],
  regs "DBG_ECC_ADDR" 0x34 0 [ro 31 0] 2 4,
  regs "DBG_FROZEN" 0x3C 0 [ro 31 0] 2 4,
  reg "DBG_DROPPED" 0x44 0 [rc 31 0],
  reg "DBG_CSNAP" 0x48 0 [wo 0 0]]

/-- The register table of a block. The words of a tally repeat every 16 bytes. -/
def blockRegs : Block → List RegRow
  | .global => globalRegs
  | .tally => tallyRegs
  | .common => commonRegs
  | .ledger => ledgerRegs
  | .time => timeRegs
  | .fronthaul => fronthaulRegs
  | .bridge => bridgeRegs
  | .hbm => hbmRegs
  | .central _ => slideRegs
  | .integrity => integrityRegs
  | .carrier _ => carrierRegs
  | .tile _ .control => controlRegs
  | .tile _ .array => arrayRegs
  | .tile _ .rod => rodRegs
  | .tile _ .core => coreRegs
  | .tile _ .slide => slideRegs
  | .tile _ .quickSum => quickSumRegs
  | .phys _ => physRegs
  | .debug => debugRegs
  | .carrierAll | .carrierGroup _ | .tileAll | .tileGroup _ | .reserved => []

/-- Whether a row has a register at a block offset. -/
def RegRow.has (r : RegRow) (o : Nat) : Bool :=
  r.off ≤ o && (o - r.off) % r.step == 0 && (o - r.off) / r.step < r.count

/-- The row and instance of a BAR0 offset; none for a reserved address (R34). -/
def regAt (o : Nat) : Option (RegRow × Nat) :=
  let (b, x) := blockOf o
  let x := if b = .tally then x % 16 else x
  ((blockRegs b).find? (·.has x)).map fun r => (r, (x - r.off) / r.step)

/-- What a BAR0 register holds after a power-on reset; 0 at a reserved address. -/
def regReset (o : Nat) : Word :=
  match regAt o with
  | some (r, i) => r.reset i
  | none => 0

/-- The fields of the register at an offset. -/
def fieldsAt (o : Nat) : List Fld :=
  match regAt o with
  | some (r, _) => r.flds
  | none => []

/-- The bits of a field. -/
def Fld.mask (f : Fld) : Word := Machine.mask f.hi f.lo

/-- The bits of the fields that a test picks. -/
def fldMask (fs : List Fld) (p : Fld → Bool) : Word :=
  fs.foldl (fun m f => if p f then m ||| f.mask else m) 0

/-- The bits of the S fields of a register. -/
def stagedMask (o : Nat) : Word := fldMask (fieldsAt o) fun f => f.cls = .staged

/-- UNIT and INSTANCE of a CFG_LOCKED_WRITE entry for a register (R14). -/
def lockUnit (o : Nat) : Nat × Nat :=
  match blockOf o with
  | (.tile t .slide, _) => (3, t)
  | (.tile t _, _) => (1, t)
  | (.central e, _) => (3, 16 + e)
  | (.phys p, _) => (2, p)
  | (.carrier c, _) => (6, c)
  | (.bridge, _) => (7, 0)
  | (.time, x) => if 0x100 ≤ x ∧ x < 0x300 then (9, (x - 0x100) / 0x80) else (0, 0)
  | _ => (0, 0)

/-- The offset of the COMMIT register of the block that a register belongs to, where it has one (R13). -/
def commitOf (o : Nat) : Option Nat :=
  match blockOf o with
  | (.global, x) => if 0x4_0000 ≤ x ∧ x < 0x5_0000 then some 0x4_00FC else none
  | (.ledger, _) => some 0x0010_00FC
  | (.time, _) => some 0x0020_00FC
  | (.hbm, _) => some 0x0050_00FC
  | (.integrity, _) => some 0x0070_00FC
  | (.carrier c, _) => some (carrierBase c + 0xFC)
  | (.tile t .array, _) => some (baBase t + 0xFC)
  | (.tile t .core, _) => some (dcBase t + 0xFC)
  | (.phys p, _) => some (physBase p + 0xFC)
  | _ => none

end Sys2Proof.Machine
end

