-- ==== Sys2Proof/Machine/State.lean ====
section
/-! DEFINITION. State.lean: everything the manual gives the NZ-2416 to hold, as plain data.

Registers that software reads and writes are held as words by BAR0 offset (`regs`, with the staged copies of R10 in
`shadows`); the layout and reset values of them stand in Machine/Regs.lean. A register that shows live state (a RO
field of class L whose content is another unit's) is computed from the one home of that state. Bytes of every memory
are in `mem`, by store address. State the manual gives no register for is held under its own name. -/

namespace Sys2Proof.Machine

/-! ### Reckoning tiles -/

/-- STATE of a digit core (Table 3.11). -/
inductive CoreStatus | idle | run | stall | held | halted
  deriving DecidableEq, Repr

/-- A register of a digit core that a result can be read from too early (Table 3.3). -/
inductive HazardOf
  | scalar (i : Nat)
  | address (i : Nat)
  | mode (i : Nat)
  | cond (i : Nat)
  | accRe (i : Nat)
  | accIm (i : Nat)
  | byte (a : Nat)
  deriving DecidableEq, Repr

/-- A recent write: what was there before, for how many further instructions a reader may still see it (R83), and in
how many beats the write lands (Table 3.2, R84). -/
structure Hazard where
  of : HazardOf
  old : Nat
  left : Nat
  lands : Nat
  deriving DecidableEq, Repr

/-- The repeat state of Table 3.1: iterations still to run after this one, body start and length in instructions, the
iteration number, the position in the body, and the ROT bit. -/
structure RepeatState where
  more : Nat
  start : BitVec 25
  len : Nat
  iter : Nat
  posn : Nat
  rot : Bool
  deriving DecidableEq, Repr

/-- A branch taken or not whose delay slots are still to issue: its target when taken, and the slots left (R86). -/
structure DelayState where
  target : Option (BitVec 25)
  left : Nat
  deriving DecidableEq, Repr

/-- A command of the array queue: bead-array or Quick Sum, its word, its number in issue order, and the number of rod
commands issued before it (R94, R120). -/
structure ArrayCommand where
  quickSum : Bool
  word : DWord
  no : Nat
  rodBefore : Nat
  deriving DecidableEq, Repr

/-- A command of the rod queue: its word and the number of array commands issued before it (R164). -/
structure RodCommand where
  word : DWord
  arrBefore : Nat
  deriving DecidableEq, Repr

/-- A TSIG or TSUB not yet applied: its tally and amount, and how many array, rod and slide commands its core had issued
before it, whose memory effects it waits for (R65, R97, R242). -/
structure PendingSignal where
  tally : Nat
  amount : Word
  sub : Bool
  arr : Nat
  rod : Nat
  slide : Nat
  deriving DecidableEq, Repr

/-- The digit core of a tile (Table 3.1), with its queues (Table 3.4) and its interrupt requests (Table 3.5). -/
structure DigitCore where
  s : Tab Word := []
  p : Tab Word := []
  q : Tab DWord := []
  accRe : Tab (BitVec 48) := []
  accIm : Tab (BitVec 48) := []
  c : BitVec 8 := 0
  rrb : BitVec 4 := 0
  stack : List (BitVec 25) := []
  rep : Option RepeatState := none
  delay : Option DelayState := none
  pc : BitVec 25 := 0
  status : CoreStatus := .idle
  stallCause : Nat := 0
  hazards : List Hazard := []
  /-- Pending interrupt requests by priority number (Table 3.5). -/
  irq : BitVec 4 := 0
  /-- Beats each pending request has been held off (R102), and the requests whose hold-off has been reported. -/
  holdoff : Tab Nat := []
  holdoffLogged : BitVec 4 := 0
  /-- The request the HELD core was taken by. -/
  heldBy : Option Nat := none
  arrayQ : List ArrayCommand := []
  rodQ : List RodCommand := []
  slideQ : List Word := []
  sumQ : List Word := []
  arrIssued : Nat := 0
  rodIssued : Nat := 0
  rodDone : Nat := 0
  slideIssued : Nat := 0
  /-- Signals waiting for the effects before them, oldest first (R242). -/
  signals : List PendingSignal := []
  /-- Board bytes that array (false) or rod (true) commands have written and no AWAIT or RWAIT has counted: what stood
  there before each of the writes, oldest first. An LD reads the first (R95). -/
  unseen : Tab (List (Byte × Bool)) := []
  /-- Beats of an instruction-cache miss still to pass, and whether the word of the instruction in D is there (R82). -/
  fetchWait : Nat := 0
  fetched : Option Word := none
  /-- Bit i: i beats on, the pipeline stalls for the bank that the operands X and Y of one instruction share (R81). -/
  bankWait : Nat := 0
  /-- Lines of the instruction cache: line number to its sixteen words (R82). -/
  icache : Tab (List Word) := []
  /-- Captured words of the repeat cache, oldest first (R88, R89). -/
  repCache : List Word := []
  /-- The tally a pending TWAIT names. -/
  waitOn : Option Nat := none
  /-- The core has taken up work since the last beat ended: a TWAIT has completed or an instruction has left D (R389). -/
  stirred : Bool := false
  /-- Tasks of the tile still to execute END, by the native program that is running (R104). -/
  ended : Bool := false
  deriving DecidableEq, Repr

/-- A pass or MATVEC in flight: the command, its partition, the 64 descriptor bytes as read at admission (R120), and
whether a residue mismatch withholds its completion (R368). -/
structure PassInFlight where
  cmd : ArrayCommand
  part : Nat
  desc : List Byte
  descAddr : Nat
  withheld : Bool := false
  /-- The step record and the descriptors of the holding-buffer sequence before the pass was admitted (R116, R122,
  R373). -/
  recBefore : Nat := 0
  seqBefore : List (Nat × List Byte) := []
  /-- K-steps presented in beats so far, the vector load of a MATVEC included (R110, R137). -/
  steps : Nat := 0
  /-- The vector of a MATVEC as loaded (R137). -/
  vector : List Byte := []
  deriving DecidableEq, Repr

/-- Filler counts of a partition (R129): the level while it is not held at DENSITY; whether it is held there; beats of the
current run without a K-step and the falls of the level in it; warm-up beats run for the next K-step; and, bit i, whether
a K-step was presented i + 1 beats ago, frozen beats apart. -/
structure FillerState where
  level : Nat := 0
  held : Bool := false
  idle : Nat := 0
  falls : Nat := 0
  warm : Nat := 0
  recent : Nat := 0
  deriving DecidableEq, Repr

/-- The bead array and the Quick Sum path of a tile (Table 17.3, R107, R115, R116, R129). Holding-buffer entries are
keyed by partition × 1024 + position, carries by bank × 4096 + physical DPU row × 32 + column, Quick Sum carries by
bank × 64 + lane. -/
structure BeadArray where
  passes : List PassInFlight := []
  /-- MATVECs in flight, oldest first (R137). -/
  quickSum : List PassInFlight := []
  carries : Tab Word := []
  /-- The carry bank that the next pass of each partition uses (R107, R127). -/
  bank : Tab Bool := []
  /-- Beats by which drain pacing still delays the next pass of each partition, less its K-steps (R110). -/
  pace : Tab Nat := []
  holding : Tab (BitVec 48) := []
  /-- Step record of each partition: step number plus 1, 0 when none (R116). -/
  stepRec : Tab Nat := []
  /-- Descriptors of the current holding-buffer sequence of each partition, with their board offsets (R373). -/
  seqDescs : Tab (List (Nat × List Byte)) := []
  qsVector : Tab Byte := []
  qsCarries : Tab Word := []
  qsBank : Bool := false
  filler : Tab FillerState := []
  /-- A freeze that BA_FEEDER_TIMEOUT has reported stands for each partition (R125). -/
  timedOut : Tab Bool := []
  /-- The partition that the A and the B feeder served last (R114). -/
  fedA : Nat := 3
  fedB : Nat := 3
  /-- The rest number of the current 256-beat period (R130, R428). -/
  rest : Nat := 0
  /-- The operand chain, feeder and drain positions, which Table 17.3 stores and does not interpret. -/
  chain : List Byte := []
  deriving DecidableEq, Repr

/-- The rod engine of a tile (Table 6.1). Rod register v holds bytes v × 2048 on; the exception flags are ROD_EXC. -/
structure RodEngine where
  v : Tab Byte := []
  m : Tab (BitVec 1024) := []
  b : Tab Word := []
  db : DWord := 0
  drs : Word := 0
  clipacc : Nat := 0
  deriving DecidableEq, Repr

/-! ### Slide engines -/

/-- Channel states (Table 8.3). -/
inductive ChannelStatus | idle | active | cancelling | halted | held
  deriving DecidableEq, Repr

/-- A slide descriptor accepted by a channel (Table 8.2), with its address. -/
structure SlideDesc where
  addr : Nat
  src : Nat
  dst : Nat
  len0 : Nat
  n1 : Nat
  n2 : Nat
  sstr1 : Int
  dstr1 : Int
  sstr2 : Int
  dstr2 : Int
  ringLen : Nat
  ctally : Nat
  noCtally : Bool
  ktally : Nat
  noKtally : Bool
  channel : Nat
  cancel : Bool
  stream : Bool
  tag : Nat
  chmask : Nat
  /-- Its number among the descriptors its digit core has issued. -/
  no : Nat
  /-- The descriptor is invalid (R215): its channel halts on it. -/
  bad : Bool
  deriving DecidableEq, Repr

/-- A channel of a slide engine (R209, R216, R238). Of the current descriptor, `pos` counts the bytes written and `rd` the
bytes read from the source; those between them stand in `held` (the buffer blocks and the holding register), then in the
spill area, then in `tail`. -/
structure SlideChannel where
  status : ChannelStatus := .idle
  q : List SlideDesc := []
  pos : Nat := 0
  rd : Nat := 0
  held : List Byte := []
  /-- Slots of the spill area that hold the spilled blocks, in order (R225, R226). -/
  slots : List Nat := []
  /-- Bytes read behind the spilled blocks. -/
  tail : List Byte := []
  /-- Buffer blocks taken for the current descriptor, and those returned (R219). -/
  taken : Nat := 0
  returned : Nat := 0
  /-- Blocks of cancelled descriptors that outstanding reads still hold (R234). -/
  dropBlocks : Nat := 0
  /-- Ring base and length of the previous STREAM descriptor, and the ring position (R221). -/
  ring : Option (Nat × Nat) := none
  ringAt : Nat := 0
  /-- Consumer credits taken for blocks not yet written (R222, R234). -/
  creditsTaken : Nat := 0
  /-- The token bucket's level; none while it is full (R223). -/
  tokens : Option Nat := none
  /-- The tally a pending TAKE names (R222). -/
  waitOn : Option Nat := none
  /-- A failed access waiting to be issued again: its address and the retries already made (R231). -/
  failed : Option (Nat × Nat) := none
  haltCause : Nat := 0
  /-- The halt is on the invalid descriptor at the head (R232). -/
  invalid : Bool := false
  /-- A cancel touched the channel and its head goes on (R216). -/
  resumes : Bool := false
  /-- A buffer block is taken for the next read of the spill area (R226). -/
  backBlock : Bool := false
  /-- Counter values from which the channel may issue its next read and its next write (R224). -/
  readAt : Nat := 0
  writeAt : Nat := 0
  /-- Beats in a row in which it has been block-waiting (R225). -/
  waited : Nat := 0
  deriving DecidableEq, Repr

/-- A cancel accepted and not yet done (R233–R235), with the descriptors it selected and the consumer credits to
return, by tally. -/
structure CancelInFlight where
  desc : SlideDesc
  count : Nat
  credits : List (Nat × Nat)
  deriving DecidableEq, Repr

/-- A slide engine beside its channels: the descriptors Ledger submitted (central engines, R209), and the cancels in
progress. -/
structure SlideEngine where
  submitted : List Word := []
  cancels : List CancelInFlight := []
  /-- The rotating order of equal priorities (R224). -/
  lastRead : Nat := 0
  lastWrite : Nat := 0
  /-- Beats since a buffer block was last returned (R225). -/
  quiet : Nat := 0
  deriving DecidableEq, Repr

/-- A peer read recorded at a pre-emption save (R261): destination on the board, channel, length, and whether its data
has landed in the shadow area. -/
structure PeerRead where
  dest : Nat
  channel : Nat
  /-- Its byte position in the channel's descriptor. -/
  pos : Nat
  len : Nat
  /-- Store address of its place in the shadow area. -/
  shadow : Nat
  landed : Bool
  deriving DecidableEq, Repr

/-- A COPY of a task that is not complete: its grids D and A, its tally handle, and the elements of D that a task has made
unspecified since (R64). -/
structure TaskCopy where
  d : Nat
  a : Nat
  tally : Nat
  touched : List Nat
  deriving DecidableEq, Repr

/-- The architectural state of a task (The Aqfold Contract, Task state): the instruction it is at, words, flags, the DRAIN
immediate, the mask grid, the call stack; its copies not complete; and whether it has executed END. -/
structure TaskState where
  pc : Nat := 0
  words : Tab DWord := []
  flags : Tab Bool := []
  drain : Nat := 0
  mask : Option Nat := none
  stack : List Nat := []
  copies : List TaskCopy := []
  ended : Bool := false
  deriving DecidableEq, Repr

/-- The saved context of a tile (Table 9.11). -/
structure TileContext where
  core : DigitCore
  array : BeadArray
  rod : RodEngine
  engine : SlideEngine
  chans : List SlideChannel
  tag : Word
  exc : Word
  fault : Word
  /-- The tasks of the tile, the one it is at, and the draw stream counters (R48, R63, R157). -/
  tasks : Tab TaskState := []
  turn : Option Nat := none
  streams : Tab DWord := []
  deriving DecidableEq, Repr

/-! ### Tallies and jobs -/

/-- A tally (R239, Tables 9.2 and 9.5). OWNER is 0–3, 4 for Mequel, 7 unallocated. -/
structure Tally where
  count : Nat
  ovf : Bool
  unf : Bool
  owner : Nat
  deriving DecidableEq, Repr

/-- Job states (Table 9.6). -/
inductive JobState | empty | loaded | bound | running | preempted | ended | faulted
  deriving DecidableEq, Repr

/-- A tally declaration of an image (Table 2.6). -/
structure TallyDecl where
  kind : Nat
  arg0 : Nat
  arg1 : Nat
  initial : Nat
  deriving DecidableEq, Repr

/-- A task of an image (Table 2.7). -/
structure TaskDecl where
  vtile : Nat
  workClass : Nat
  tag : Nat
  entryLabel : Nat
  partition : Nat
  beatBound : Nat
  deriving DecidableEq, Repr

/-- Where an allocation lies: memory 0 a tile board (of logical tile `unit`), 1 the common board, 2 HBM (R207). SPACE,
OWNER and REGION name it (R49); SPACE 6 is the native code of logical tile `unit`. -/
structure Placement where
  space : Nat
  owner : Nat
  region : Nat
  memory : Nat
  unit : Nat
  off : Nat
  size : Nat
  carrier : Bool
  deriving DecidableEq, Repr

/-- What binding leaves of an image (R70, R73). -/
structure BoundImage where
  tallies : List TallyDecl := []
  tasks : List TaskDecl := []
  vtiles : Nat := 0
  chipCount : Nat := 0
  timingClass : Nat := 0
  clientTags : Nat := 0
  imageId : List Byte := []
  hash : List Byte := []
  places : List Placement := []
  nsBase : Nat := 0
  nsLen : Nat := 0
  hbmBytes : Nat := 0
  /-- PART_MODE of each logical tile; TEQ is that of timing class 2 (R68, R128). -/
  partModes : List Nat := []
  /-- READ_ONLY grids placed in boards: memory, unit, board offset, size (R370). -/
  readOnly : List (Nat × Nat × Nat × Nat) := []
  /-- PT_ROW_MAP of the 17 physical tiles at bind time (R73). -/
  repair : List Nat := []
  /-- Carrier set of each logical tile (R369). -/
  carrierSets : List (List Nat) := []
  /-- The CODE, LABELS and CONST entries and the grid descriptors, by their bytes (Table 2.4). -/
  code : List DWord := []
  labels : List Nat := []
  consts : List DWord := []
  grids : List (List Byte) := []
  /-- Bytes that the job demands of each tile board, staging areas included (R208). -/
  boardDemand : List Nat := []
  /-- SLIDE_CHn_CFG and the token word that step 13 gives each channel of the tile engines: engine × 32 + channel, and the
  two words (R70). -/
  channels : List (Nat × Word × Word) := []
  /-- The order of partial results of reductions over more than one virtual tile, as (rank, virtual tile), which step 11
  fixes (R70, R395). -/
  sumOrder : List (Nat × Nat) := []
  deriving DecidableEq, Repr

/-- A resident slot (R250). -/
structure JobSlot where
  state : JobState := .empty
  number : Nat := 0
  htag : Nat := 0
  imageAddr : Nat := 0
  imageSize : Nat := 0
  seed : DWord := 0
  ccTag : List Nat := []
  image : BoundImage := {}
  /-- Contexts saved at the last pre-emption, by logical tile (R257). -/
  contexts : Tab (Option TileContext) := []
  /-- Ranges (memory, unit, offset, size) saved to the board image when the job left (R258). -/
  savedRanges : List (Nat × Nat × Nat × Nat) := []
  /-- DETAIL of the last JOB_EVENT (Table 9.17). -/
  endDetail : Word := 0
  /-- A CHIP_COUNT 2 image waits for its partner since this counter value (R404). -/
  pairingSince : Option Nat := none
  /-- The partner has reached binding step 12 (R404). -/
  paired : Bool := false
  /-- The tasks of the job, and the task each logical tile is at (R48, R71). -/
  tasks : Tab TaskState := []
  turn : Tab (Option Nat) := []
  /-- The counters of the draw streams (R63). -/
  streams : Tab DWord := []
  /-- Draws that each logical tile has taken since its checkpoint from streams that it shares with other tiles, and those
  that a replay has still to take again: stream, counter value and number (R41, R379). -/
  drawn : Tab (List (Nat × Nat × Nat)) := []
  redraw : Tab (List (Nat × Nat × Nat)) := []
  deriving DecidableEq, Repr

/-! ### Radio access -/

/-- A plan item (the plan item body of Radio Access Processing). -/
structure PlanItem where
  kind : Nat
  flags : Nat
  ue : Nat
  prbStart : Nat
  nprb : Nat
  symStart : Nat
  nsym : Nat
  layers : Nat
  qm : Nat
  tbs : Nat
  g : Nat
  rv : Nat
  harqKey : Nat
  softbuf : Nat
  payload : Nat
  capacity : Nat
  beam : Nat
  cookie : Nat
  reservedBad : Bool
  deriving DecidableEq, Repr

/-- A finished code block or codeword: number, CRC passed, iterations, payload bits. -/
structure BlockResult where
  cb : Nat
  pass : Bool
  iters : Nat
  bits : List Bool
  /-- Combined LLRs of the circular buffer, kept for a later write-back (R297). -/
  soft : List Int
  deriving DecidableEq, Repr

/-- An item of an accepted plan and what has become of it. -/
structure ItemState where
  item : PlanItem
  rejected : Nat := 0
  answered : Bool := false
  softEmpty : Bool := false
  taken : List Nat := []
  blocks : List BlockResult := []
  fetched : Option (List Byte) := none
  encoded : Bool := false
  withheld : Bool := false
  /-- The entry that answered it was dropped with the device queue full (R449). -/
  lost : Bool := false
  deriving DecidableEq, Repr

/-- An accepted slot plan (R20, R303) with its taint (R369) and whether its deadline check has run (R371). -/
structure Plan where
  ul : Bool
  htag : Nat
  slot : Word
  symMask : Nat
  beam : Nat
  items : List ItemState
  tainted : Bool := false
  checked : Bool := false
  /-- Occasion number of the plan's first PRACH item (R282). -/
  prachFirst : Nat := 0
  /-- The C-plane messages of the plan have been sent (R284). -/
  cSent : Bool := false
  /-- Downlink symbols whose transmit window has opened (R285). -/
  windows : List Nat := []
  deriving DecidableEq, Repr

/-- The bitmap of one stream of an uplink symbol (R282). -/
structure PrbBitmap where
  slot : Word
  sym : Nat
  stream : Nat
  bits : List Bool
  deriving DecidableEq, Repr

/-- What a carrier context holds beside its registers. -/
structure CarrierState where
  plans : List Plan := []
  /-- Symbols whose symbol-arrival tally has been signalled, of the slots still tracked (R22, R23). -/
  signalled : List (Word × Nat) := []
  /-- Ring entries of region 0, and from 64 on occasions of region 2, whose data has been announced (R23, R24). -/
  ready : Tab Bool := []
  bitmaps : List PrbBitmap := []
  /-- Taken counts T_s and expected counts E_s by resident slot (R285, R289). -/
  taken : Tab Nat := []
  expected : Tab Nat := []
  /-- eCPRI sequence numbers sent and received, by eAxC (Table 10.2). -/
  seqTx : Tab Nat := []
  seqRx : Tab Nat := []
  /-- PRACH occasions since the context was enabled (R282). -/
  prach : Nat := 0
  /-- HARQ keys whose release waits for a deadline check: key and slot (R298). -/
  releases : List (Nat × Word) := []
  deriving DecidableEq, Repr

/-- A decode request taken and not finished (R289, R294). KIND 3 stands for a code block of a Nuzan Link burst, which
waits for the same engines (R324): `slot` is its frame, `jobSlot` its burst slot and `item` the burst's number. -/
structure DecodeJob where
  cc : Nat
  slot : Word
  item : Nat
  cb : Nat
  kind : Nat
  record : Nat
  llrOff : Nat
  e : Nat
  maxIter : Nat
  offsOff : Nat
  jobSlot : Nat
  no : Nat
  /-- The engine that decodes it; none while it waits (R294). -/
  engine : Option Nat := none
  deriving DecidableEq, Repr

/-! ### Nuzan Link -/

/-- A received burst with a valid header (R311, R324, R333): its burst slot and frame, its header, its number among such
bursts since enable; the gained samples of its slot, once the slot is over; what its equaliser was left with; and its
code blocks: payload bytes of a block that passed, none for one that failed. -/
structure Burst where
  slotK : Nat
  frame : Word
  no : Nat
  multi : Bool
  mcs : Nat
  ncb : Nat
  blt : Nat
  seq : Nat
  samples : Option (List (Int × Int)) := none
  freq : Int
  /-- The number that names the burst's free values, from its context, frame and burst slot (log entry 8). -/
  key : Nat
  gain : Nat
  rssi : Nat
  syncEnd : Nat
  blocks : Tab (Option (Option (List Byte))) := []
  iters : Nat := 0
  deriving DecidableEq, Repr

/-- A sync of a slot that is over, whose header is still to be decoded (R318, R319, R333): burst slot and frame, the
gained samples, the last sample of the sync word, F, G and RSSI. -/
structure Synced where
  slotK : Nat
  frame : Word
  samples : List (Int × Int)
  syncEnd : Nat
  freq : Int
  gain : Nat
  rssi : Nat
  deriving DecidableEq, Repr

/-- A burst waiting to be sent: frame and burst slot, mode, MCS, BLT, code blocks, its link messages, the bytes of its
records before the end record, and the bytes of the transmit queue it consumes (R332). -/
structure TxBurst where
  frame : Word
  slotK : Nat
  multi : Bool
  mcs : Nat
  blt : Nat
  ncb : Nat
  msgs : List (List Byte) := []
  bytes : List Byte
  consumed : Nat
  deriving DecidableEq, Repr

/-- A proposal without its acknowledgement (R327): BLT, table, and frames since it was last sent. -/
structure Proposal where
  blt : Nat
  table : List Nat
  frames : Nat
  deriving DecidableEq, Repr

/-- The received parts of a bit-loading table: its BLT, and the 550 subcarriers of each part (R326). -/
structure TableParts where
  blt : Nat
  held : Tab (List Nat)
  deriving DecidableEq, Repr

/-- A LINK context beside its registers. -/
structure LinkState where
  /-- Bursts with a valid header received since enable (R333), and bursts sent (SEQ). -/
  rxCount : Nat := 0
  txCount : Nat := 0
  /-- Air samples that have arrived, by frame × samples per frame + offset, and the first not yet processed (R308). -/
  arrived : Tab (Option (Int × Int)) := []
  done : Nat := 0
  /-- The receive burst slot being processed and those to process after it, oldest first: number and frame. -/
  rx : Option (Nat × Word) := none
  rxNext : List (Nat × Word) := []
  /-- Gained samples of the slot, newest first; the newest derotated ones as fp32 pairs, newest first (R315–R317). -/
  gained : List (Int × Int) := []
  recent : List (Word × Word) := []
  /-- The AFC value in force, and F0. -/
  freq : Int := 0
  freq0 : Int := 0
  /-- Windows in a row that met the detection test; the sum C; samples since detection; input samples from the detection
  window on, newest first (R316–R319). -/
  hits : Nat := 0
  corr : Word × Word := (0, 0)
  sinceDetect : Nat := 0
  input : List (Int × Int) := []
  /-- Last sample of the sync word in the slot, until the header has been decoded. -/
  syncEnd : Option Nat := none
  /-- Syncs of slots that are over, oldest first. -/
  waiting : List Synced := []
  /-- Bursts with a valid header still being worked on, oldest first. -/
  bursts : List Burst := []
  /-- Link messages received and not yet acted on, and link messages to be sent, oldest first (R326). -/
  inbox : List (List Byte) := []
  outbox : List (List Byte) := []
  /-- Bit-loading tables by id, version and bits per subcarrier: those held for receiving, and those stored for
  transmitting (R327, R328). -/
  rxTables : Tab (Option (Nat × List Nat)) := []
  txTables : Tab (Option (Nat × List Nat)) := []
  /-- BLT in use for transmitting, and one acknowledged: its BLT and, once the BL_ACK is in a burst, that burst's frame.
  -/
  txBlt : Nat := 0
  txNext : Option (Nat × Option Word) := none
  /-- Table parts received, by id. -/
  parts : Tab (Option TableParts) := []
  proposal : Option Proposal := none
  lastVersion : Nat := 0
  /-- BLT of the last valid multicarrier header. -/
  lastBlt : Option Nat := none
  noiseAvg : Tab Word := []
  powerAvg : Tab Word := []
  averaged : Bool := false
  txBursts : List TxBurst := []
  /-- The burst being sent. -/
  sending : Option TxBurst := none
  /-- The host has cleared the queue's status bits (R331). -/
  resync : Bool := false
  deriving DecidableEq, Repr

/-! ### Time -/

/-- What a PTP slave port holds (R349): the best master heard with its rank, and the counter value at its last Announce;
the two-step Sync it waits to complete, its sequence number and ingress time with correction; the master-to-slave
difference; the last Delay_Req, its sequence number and egress time. Times are in units of 2^−16 × 0.1 ns. -/
structure PtpPort where
  best : Option (Nat × Nat) := none
  heard : Nat := 0
  sync : Option (Nat × Int) := none
  msOffset : Option Int := none
  delaySeq : Nat := 0
  t3 : Option (Nat × Int) := none
  deriving DecidableEq, Repr

/-- A base record that has been replaced (R338, R339, R347): the counter value at which it was, BASE, ANCHOR and RATE. -/
structure BaseRecord where
  ended : Nat
  base : BitVec 80
  anchor : Nat
  rate : Int
  deriving DecidableEq, Repr

/-- A time base beside its registers (R336, R344): BASE in units of 2^−16 ns modulo 2^80, ANCHOR, and the servo. -/
structure TimeBase where
  base : BitVec 80 := 0
  anchor : DWord := 0
  /-- Earlier records, newest first (R347). -/
  before : List BaseRecord := []
  /-- Consecutive measurements within ±100 ns, and outside ±1 µs. -/
  inRun : Nat := 0
  outRun : Nat := 0
  /-- Rates written in LOCKED operation with the counter values at which they were written, newest first (R345). -/
  lockedRates : List (Nat × Int) := []
  /-- Counter values of the servo's rate writes of the last second (R344). -/
  rateWrites : List Nat := []
  /-- Counter value at the last valid measurement, or when the source was selected (R345). -/
  lastMeas : Nat := 0
  ptp : PtpPort := {}
  /-- Measured offsets waiting for the servo, in units of 2^−16 ns. -/
  meas : List Int := []
  /-- Counter value of the base's last slot tick, step or move of TOFF: no tick follows in that beat (R355, R356). -/
  ticked : Option Nat := none
  deriving DecidableEq, Repr

/-! ### Host interface -/

/-- Completion status of a request of the host. -/
inductive PcieStatus | success | unsupported | abort | retry
  deriving DecidableEq, Repr

/-- The completion the device returned for the host's last non-posted request. -/
structure PcieReply where
  status : PcieStatus
  data : List Byte
  deriving DecidableEq, Repr

/-- A completion entry (Table 16.3): ring, code, HTAG and the six body words. -/
structure CplEntry where
  ring : Nat
  code : Nat
  htag : Nat
  body : List Word
  deriving DecidableEq, Repr

/-- A plan taken from the ring or the pending store: its header and items, and the slot number m of its carrier at the
scan where that scan is attributed to a tick of the carrier (R446). -/
structure TakenPlan where
  header : List Byte
  items : List (List Byte)
  m : Option Word
  /-- At that scan its context was enabled and of TYPE ACCESS (R278). -/
  enabled : Bool := false
  deriving DecidableEq, Repr

/-- A slot message taken by a scan and not yet acted on: a plan, a PLAN_ITEM that follows no plan, or a release. -/
inductive TakenEntry
  | plan (p : TakenPlan)
  | stray (l : List Byte)
  | release (l : List Byte)
  deriving DecidableEq, Repr

/-- The submission side of Ledger (R445–R447). -/
structure Submission where
  /-- Job and security commands, oldest first (R447). -/
  commands : List (List Byte) := []
  /-- Slot messages taken by scans and not yet acted on, in submission order. -/
  taken : List TakenEntry := []
  /-- The pending store (R446). -/
  held : List TakenPlan := []
  /-- The counter when the JOB_RUN at the head began to wait for the tiles (R266). -/
  switchAt : Option Nat := none
  deriving DecidableEq, Repr

/-- An access held by a spare-tile swap of a tile (R35, R439, R441): of a register, by BAR0 offset, or through BAR2, by
device address with its bytes or its length. -/
structure HeldAccess where
  tile : Nat
  off : Nat
  write : Bool
  src : Writer := .pcie
  val : Word := 0
  broadcast : Bool := false
  bar2 : Bool := false
  data : List Byte := []
  len : Nat := 0
  deriving DecidableEq, Repr

/-- The host port. -/
structure HostPort where
  reply : Option PcieReply := none
  held : List HeldAccess := []
  /-- The installed BAR2 base (R438). -/
  bar2Base : Nat := 0
  downPorts : List SerdesPort := []
  /-- The device is in reset, and has not begun PCIe link training (R493). -/
  inReset : Bool := true
  linkTraining : Bool := false
  deriving DecidableEq, Repr

/-- Completion rings of the device side (R448–R451): the waiting entries, and by ring the entries written and not yet
signalled. -/
structure Completion where
  queue : List CplEntry := []
  unsignalled : Tab Nat := []
  deriving DecidableEq, Repr

/-- The section of a C-plane message (R284): downlink or uplink; its type; its PRBs, 0 of them for all; its beam; of a
PRACH section, the frequency offset and the filter index of its item. -/
structure CSection where
  dl : Bool
  type : Nat
  startPrb : Nat := 0
  numPrb : Nat := 0
  beam : Nat
  freqOffset : Nat := 0
  filter : Nat := 0
  deriving DecidableEq, Repr

/-- A message of link samples (R308): its sequence number, FRAME and OFFSET, its 12-sample blocks, and the time of its
base by which it is sent, CC_DLWIN.DL_ADV before the first of them, in units of 2^−16 ns. -/
structure LinkMessage where
  seq : Nat
  frame : Word
  offset : Nat
  blocks : List PrbData
  due : Int
  deriving DecidableEq, Repr

/-- What leaves the device at its interfaces other than host memory. -/
inductive Sent
  | msix (vector : Nat) (addr : Nat) (data : Word)
  | cPlane (cc : Nat) (slot : Word) (sym : Nat) (stream : Nat) (seq : Nat) (sec : CSection)
  /-- `hdr`: udCompMeth and iqWidth, where CC_COMP puts them into each section. -/
  | uPlane (cc : Nat) (slot : Word) (sym : Nat) (stream : Nat) (seq : Nat) (hdr : Option (Nat × Nat))
      (prbs : List PrbData)
  /-- A Delay_Req of base n's port: destination address, domain, sequence number. -/
  | delayReq (base : Nat) (dst : BitVec 48) (domain : Nat) (seq : Nat)
  /-- The signs of the 192 single-carrier symbols that lead a burst and of its training symbols, true for negative, the
  bits of its payload: of each symbol of a single-carrier burst, of each subcarrier of each symbol of a multicarrier one;
  and the eCPRI messages that carry its samples. -/
  | burst (cc : Nat) (frame : Word) (slotK : Nat) (multi : Bool) (lead training : List Bool)
      (payload : List (List (List Bool))) (messages : List LinkMessage)
  /-- A request of slot k's job, or of a central channel with PRIV, at an address of the peer: a read of `len` bytes, or a
  write of (offset, byte) pairs. -/
  | peerRead (id : Nat) (slot : Nat) (priv : Bool) (addr : Nat) (len : Nat)
  | peerWrite (id : Nat) (slot : Nat) (priv : Bool) (addr : Nat) (bytes : List (Nat × Byte))
  | peerCtl (m : CtlMessage)
  | creditReturn (cls : FlitClass) (slot : Nat) (n : Nat)
  | creditCounts (held : List Nat)
  | peerSignal (slot : Nat) (handle : Nat) (sub : Bool) (amount : Word)
  | peerReply (id : Nat) (ok : Bool) (data : List Byte)
  | lockstepRecord (tile : Nat) (seq : Nat) (sig : DWord)
  /-- Half of the 32 row signatures of a pass, a flit (R414). -/
  | lockstepRows (tile : Nat) (seq : Nat) (half : Nat) (rows : List Word)
  | debugFrame (bytes : List Byte)
  deriving DecidableEq, Repr

/-! ### Integrity -/

/-- An error as the log records it (Table 13.2). -/
structure LogRecord where
  code : Nat
  severity : Nat
  level : Nat
  escalated : Bool
  unit : Nat
  inst : Nat
  detail0 : Word
  detail1 : Word
  time : DWord
  job : Nat
  deriving DecidableEq, Repr

/-- What the journal of a tile holds of one tally: sums of ADDs and SUBs and the TAKEs, and what of them a replay has
still to absorb (R378, R379). -/
structure JournalEntry where
  adds : Nat := 0
  subs : Nat := 0
  takes : Nat := 0
  absorbAdds : Nat := 0
  absorbSubs : Nat := 0
  absorbTakes : Nat := 0
  deriving DecidableEq, Repr

/-- The recovery of an error being handled (R362, R363, R372): the level it has reached, and the counter value at
which it began. The unit is that of the error. -/
structure Recovery where
  level : Nat
  began : Nat
  deriving DecidableEq, Repr

/-- The state of a carrier's proof (R386–R391). -/
structure ProofState where
  loaded : List Byte := []
  running : Option (Nat × Nat) := none
  slotsSince : Nat := 0
  /-- Tiles and engines (tile, engine, passed) of the repeats after a mismatch (R391). -/
  repeats : List (Nat × Nat × Bool) := []
  /-- The next tile and the next decode engine of the carrier's rotation (R388). -/
  nextTile : Nat := 0
  nextEngine : Nat := 0
  deriving DecidableEq, Repr

/-- A lease on one of Mequel's tallies (R248): its deadline, and what it is held for: the proof of a carrier, or the
context save of the job in a resident slot, or the spare-tile swap of a logical tile. -/
structure Lease where
  deadline : Nat
  proof : Option Nat := none
  job : Option Nat := none
  swap : Option Nat := none
  deriving DecidableEq, Repr

/-- The integrity system (Result Integrity and Recovery). -/
structure Integrity where
  /-- Physical tile of each logical tile (R3). -/
  physOf : Tab Nat := []
  /-- ROLE and LOGICAL of each physical tile (Table 13.13). -/
  role : Tab Nat := []
  lastLogical : Tab Nat := []
  /-- Physical tile quarantined at manufacture, when there is one (R384). -/
  fusedOut : Option Nat := none
  /-- Halves whose spare row cannot be used, keyed by 2p + half (R384). -/
  badSpareRow : Tab Bool := []
  rowPending : Tab (Option Nat) := []
  checkpoints : Tab (Option TileContext) := []
  journals : Tab (Tab JournalEntry) := []
  /-- TB0 tick numbers of the mismatches of each physical tile, and the tiles due for level 3 (R376, R391). -/
  mismatches : Tab (List Nat) := []
  swapDue : List Nat := []
  /-- The counter value at the TB0 tick whose slot checkpoint each logical tile has still to take (R377). -/
  ckptDue : Tab (Option Nat) := []
  /-- Self-tests running: physical tile, and whether Mequel acts on the result (R384). -/
  bist : List (Nat × Bool) := []
  ticks : Nat := 0
  /-- Errors being handled or waiting for it (R362): those whose recovery has begun first, the newest of them at the
  head, then the waiting ones in order of detection; and held ERRLOG_OVERFLOW entries (R361). -/
  handling : List LogRecord := []
  overflow : List LogRecord := []
  /-- Errors detected at a trigger's freeze edge, entered after the thaw (R475). -/
  deferred : List LogRecord := []
  /-- Errors detected so far in the beat that runs, entered at its end (R360); none outside a beat. -/
  batch : Option (List LogRecord) := none
  /-- Recoveries of the first errors of `handling`. -/
  recoveries : List Recovery := []
  proofs : Tab ProofState := []
  enginesOut : List Nat := []
  resetWanted : Bool := false
  /-- Lease deadlines of Mequel's tallies (R248). -/
  leases : Tab (Option Lease) := []
  /-- Pseudo-channels with a training failure being handled, and the counter at which each was last cleared (R381). -/
  trainCleared : Tab (Option Nat) := []
  trainFails : Tab Nat := []
  /-- Pseudo-channel of the next retraining window (R204). -/
  trainNext : Nat := 0
  deriving DecidableEq, Repr

/-! ### Bridge -/

/-- A read or write of a channel at the peer that waits for its answer (R400, R405, R409): address and length there, and
its byte position in the descriptor. -/
structure PeerTransaction where
  id : Nat
  engine : Nat
  channel : Nat
  addr : Nat
  write : Bool := false
  pos : Nat := 0
  len : Nat := 0
  /-- Its answer is dropped: the descriptor was cancelled, or the access is made again (R231, R234). -/
  drops : Bool := false
  /-- It is the last read that a dropped buffer block waits for (R234). -/
  frees : Bool := false
  /-- The answer, while an earlier access of the channel still waits for its own. -/
  answer : Option (Bool × List Byte) := none
  /-- The counter when it was sent (R409). -/
  since : Nat := 0
  deriving DecidableEq, Repr

/-- A lock-step record kept by a tile (R413). -/
structure LockstepRecord where
  seq : Nat
  sig : DWord
  rows : List Word
  dAddr : Nat
  dStride : Nat
  deriving DecidableEq, Repr

/-- The bridge port (Determinism, Lock-Step and the Bridge Port). Pools are keyed by 4 × class + slot. -/
structure Bridge where
  /-- Credits held from the peer; flits of the own buffer that are free and not granted; pools that did not agree at the
  last exchange (R402, R403). -/
  credits : Tab Nat := []
  free : Tab Nat := []
  suspect : Tab Bool := []
  recalled : List Nat := []
  recallPending : List Nat := []
  /-- The counter at a slot's recall, and when the RUNNING job last entered RUNNING (R262, R264). -/
  recallSince : Tab Nat := []
  runSince : Nat := 0
  writtenOff : List Nat := []
  /-- Counter values of the replays of the last 1 ms (R399). -/
  replays : List Nat := []
  /-- Sequence number of the next flit that the receiver takes (R399). -/
  rxSeq : Nat := 0
  /-- The counter when the link last left UP, none while it is UP or has never been (R399). -/
  leftUp : Option Nat := none
  /-- KIND 3 operations waiting for a SIG credit, oldest first: slot, handle, whether a SUB, amount (R406). -/
  sigQ : List (Nat × Nat × Bool × Word) := []
  /-- Flits of the other classes that wait for a credit or for the link, oldest first: class, slot and content (R402). -/
  txQ : List (FlitClass × Nat × Sent) := []
  outstanding : List PeerTransaction := []
  /-- Peer reads recorded at a save, keyed by 16 × slot + tile (R261). -/
  shadowReads : Tab (List PeerRead) := []
  /-- Placements of the partner job, by resident slot: ranges of device addresses (R401, R404). -/
  partner : Tab (List (Nat × Nat)) := []
  /-- The resident slot whose job runs in lock-step (R411). -/
  lsSlot : Option Nat := none
  records : Tab (List LockstepRecord) := []
  /-- Command number of each tile at lock-step start, from which its sequence numbers count (R412). -/
  seqBase : Tab Nat := []
  /-- Records received from the peer by tile, and those not yet compared (R413, R414). -/
  peerSeq : Tab Nat := []
  peerRecords : Tab (List LockstepRecord) := []
  /-- Tiles whose first divergence has been reported. -/
  diverged : List Nat := []
  deriving DecidableEq, Repr

/-! ### Power -/

/-- The power manager and limiter state beside the registers (R423–R434). -/
structure Power where
  /-- Numbers of the 10 µs intervals of the last 2 s whose P exceeded SUST (R424). -/
  overs : List Nat := []
  interval : Nat := 0
  /-- P of the last 10 ms of intervals in mW, newest first (R425, R426). -/
  recent : List Nat := []
  lastDemand : Nat := 0
  lastChange : Nat := 0
  /-- Counter value of the last reading below the warning level plus 10 mV, while a supply episode lasts (R421). -/
  supplySince : Option Nat := none
  fastLeft : Nat := 0
  vddLow : List Bool := []
  /-- PWR_VDD_MIN and PWR_TEMP_MAX have been read, and nothing has been measured since. -/
  vddRead : Bool := false
  tempRead : Bool := false
  vddWarned : Bool := false
  /-- The last reading of the hottest junction, and of the stack, was 105 °C or more (R432). -/
  hotJunction : Bool := false
  hotStack : Bool := false
  tripped : Bool := false
  wear100us : Nat := 0
  wearHot100us : Nat := 0
  energyNj : Nat := 0
  /-- Remainders of the energy division by accounting record, in nJ (R268). -/
  recordNj : Tab Nat := []
  /-- The rest number that R130 applies, from the next 256-beat period on (R428). -/
  rest : Nat := 0
  /-- Tile-beats charged to each accounting record and not yet a whole tile-µs (R266). -/
  tileBeats : Tab Nat := []
  /-- Tile-beats charged since the last reading, by 256 × physical tile + record, and the byte fields of the records at
  that reading, keyed as `acct` (R268). -/
  beatsNow : Tab Nat := []
  bytesThen : Tab DWord := []
  /-- Bytes charged at the common board since the last reading, by accounting record (R268). -/
  commonNow : Tab Nat := []
  deriving DecidableEq, Repr

/-! ### Boot and security -/

/-- What is known of a firmware image (R453). -/
structure FwImage where
  version : Nat := 0
  sec : Nat := 0
  stateVer : Nat := 0
  stateMin : Nat := 0
  hash : List Byte := []
  slot : Bool := false
  deriving DecidableEq, Repr

/-- Keys, firmware and boot (R453–R464). -/
structure Security where
  owner : Option (List Byte) := none
  keys : Tab (Option (List Byte)) := []
  storeSeq : Nat := 0
  bootSel : Bool := false
  pendingBit : Bool := false
  bootSeq : Nat := 0
  /-- Boot has copied a slot and not yet verified it; false when the flash could not be read. -/
  copied : Option Bool := none
  active : FwImage := {}
  standby : FwImage := {}
  updated : Option FwImage := none
  /-- HTAG of a FW_ACTIVATE that waits for its handover (R463). -/
  handover : Option Nat := none
  secMin : Nat := 0
  deriving DecidableEq, Repr

/-! ### Debug unit -/

/-- A frame of the debug readout port (R474): space, start address and length, the bytes sent so far, and the beats
since the last word of it. -/
structure DebugStream where
  space : Nat
  addr : Nat
  len : Nat
  bytes : List Byte := []
  age : Nat := 0
  deriving DecidableEq, Repr

/-- The debug unit, the TAP and the SMBus target (R465–R477, R488). -/
structure Debug where
  /-- The frame that is being sent. -/
  stream : Option DebugStream := none
  frozen : Bool := false
  pin : Bool := false
  frozenFor : Nat := 0
  snapshot : Tab Word := []
  ir : Byte := 0x02
  scanOut : List Bool := []
  boundary : List Bool := []
  extest : Bool := false
  jtagResult : Word := 0
  smbOffset : Nat := 0
  smbReply : Option Word := none
  /-- The level of PPS_OUT, and the counter value at which it rose last. -/
  pps : Bool := false
  ppsAt : Nat := 0
  deriving DecidableEq, Repr

/-! ### Outcomes -/

/-- Why a command stops without an effect. -/
inductive Fault
  /-- Raised by the register commands (REGISTER_READ, REGISTER_WRITE, COMMIT, BCAST_READ, BCAST_WRITE) for an offset
  that is not a multiple of 4: R4 gives no other access than an aligned word. Safe: the device has no such access. -/
  | unalignedRegisterAccess
  deriving DecidableEq, Repr

/-- Why a command has no meaning in the model. -/
inductive Refusal
  /-- Raised by `exec` alone, for a row of the opcode table that has no meaning yet. Safe: nothing can be proved of it. -/
  | notModelled (mnemonic : String)
  deriving DecidableEq, Repr

/-- The state of the NZ-2416. -/
structure State where
  /-- Active values of the BAR0 registers by offset (R4, R12). -/
  regs : Tab Word
  /-- S-field shadows by offset (R10); none where nothing is staged. -/
  shadows : Tab (Option Word)
  /-- Live 64-bit counts of the accounting records, keyed by 8 × record + field (Table 9.12, R265). -/
  acct : Tab DWord
  /-- Bytes of every memory by store address (Machine/Ops.lean gives the map). -/
  mem : List Host.Cell
  /-- ECC words with an error, by store word number: 1 a single-bit error, 2 uncorrectable (R195, R196). -/
  ecc : Tab Nat
  /-- Write-backs of corrected words not yet served: store word numbers and the corrected words, oldest first (R195). -/
  writebacks : List (Nat × List Byte)
  /-- Next line each scrubber reads: physical tiles 0–16, the common board 17, HBM pseudo-channel p 18 + p
  (R197, R202). -/
  scrub : Tab Nat
  /-- The device counter C (R335). -/
  counter : DWord
  /-- The seed in the draw units, as loaded when a job last entered RUNNING (R158). -/
  drawSeed : DWord
  /-- The model's own field: how many free values have been drawn (log entry 3). -/
  free : Nat
  bases : Tab TimeBase
  tallies : Tab Tally
  cores : Tab DigitCore
  arrays : Tab BeadArray
  rods : Tab RodEngine
  engines : Tab SlideEngine
  /-- Register writes of the slide engines in the beat in progress, as (offset, byte) pairs; none between beats (R9). -/
  regWrites : List (List (Nat × Byte))
  /-- Channels keyed by 32 × engine + channel. -/
  channels : Tab SlideChannel
  jobs : Tab JobSlot
  nextJob : Nat
  /-- The resident slot whose job was last RUNNING: its tiles' work goes on after its last END (R501). -/
  lastRun : Option Nat
  carriers : Tab CarrierState
  /-- HARQ keys, keyed by 1024 × carrier + key: empty, or the recorded SOFTBUF (R298). -/
  harq : Tab (Option Nat)
  decodes : List DecodeJob
  decodeNo : Nat
  links : Tab LinkState
  sub : Submission
  cpl : Completion
  host : HostPort
  sent : List Sent
  integ : Integrity
  bridge : Bridge
  power : Power
  sec : Security
  dbg : Debug
  /-- Commands waiting, first in first out. -/
  pending : List Instr
  deriving DecidableEq, Repr

/-- The device right after a power-on reset, before the root PLL locks: every register at the value the manual gives
(Machine/Regs.lean holds them; a register the table does not list reads its reset value), no job resident, nothing in
memory. -/
def State.reset : State where
  regs := []
  shadows := []
  acct := []
  mem := []
  ecc := []
  writebacks := []
  scrub := []
  counter := 0
  drawSeed := 0
  free := 0
  bases := []
  tallies := []
  cores := []
  arrays := []
  rods := []
  engines := []
  regWrites := []
  channels := []
  jobs := []
  nextJob := 1
  lastRun := none
  carriers := []
  harq := []
  decodes := []
  decodeNo := 0
  links := []
  sub := {}
  cpl := {}
  host := {}
  sent := []
  integ := {}
  bridge := {}
  power := {}
  sec := {}
  dbg := {}
  pending := []

end Sys2Proof.Machine
end

