-- ==== Sys2Proof/Machine/Tab.lean ====
section
/-! DEFINITION. Tab.lean: reading and writing sparse tables.

A table lists (index, value) pairs with rising indices and lists no value equal to what an unlisted index reads as
(`d`), so equal tables are equal lists. -/

namespace Sys2Proof.Machine

variable {α : Type}

/-- What index `i` reads as. -/
def tget (d : Nat → α) : Tab α → Nat → α
  | [], i => d i
  | (j, w) :: r, i => if i = j then w else tget d r i

/-- A pair put in front of the first index above its own. -/
def tput (i : Nat) (v : α) : Tab α → Tab α
  | [] => [(i, v)]
  | (j, w) :: r => if i < j then (i, v) :: (j, w) :: r else (j, w) :: tput i v r

/-- Index `i` set to `v`, the canonical form kept. -/
def tset [DecidableEq α] (d : Nat → α) (t : Tab α) (i : Nat) (v : α) : Tab α :=
  let r := t.filter fun e => e.1 ≠ i
  if v = d i then r else tput i v r

/-- Every index of a range back at what it reads as unlisted. -/
def tclear (t : Tab α) (lo hi : Nat) : Tab α :=
  t.filter fun e => e.1 < lo || hi ≤ e.1

/-- Every index that a test picks back at what it reads as unlisted. -/
def tdrop (t : Tab α) (p : Nat → Bool) : Tab α :=
  t.filter fun e => !p e.1

/-- The canonical form: indices rise, and no listed value is what an unlisted index reads as. -/
def twf [DecidableEq α] (d : Nat → α) : Tab α → Bool
  | [] => true
  | (i, v) :: r =>
    (v ≠ d i : Bool) && (match r with | [] => true | (j, _) :: _ => (i < j : Bool)) && twf d r

end Sys2Proof.Machine
end

