-- ==== Sys2Proof/Machine/Ops.lean ====
section
/-! DEFINITION. Ops.lean: the named reads and writes of State that every meaning is built from: registers, units,
memory by store address, device time, accounting and free values. -/

namespace Sys2Proof.Machine

/-! ### Groups of fields -/

def State.setInteg (s : State) (v : Integrity) : State := { s with integ := v }
def State.onInteg (s : State) (f : Integrity → Integrity) : State := s.setInteg (f s.integ)
def State.setBridge (s : State) (v : Bridge) : State := { s with bridge := v }
def State.onBridge (s : State) (f : Bridge → Bridge) : State := s.setBridge (f s.bridge)
def State.setPower (s : State) (v : Power) : State := { s with power := v }
def State.onPower (s : State) (f : Power → Power) : State := s.setPower (f s.power)
def State.setSec (s : State) (v : Security) : State := { s with sec := v }
def State.onSec (s : State) (f : Security → Security) : State := s.setSec (f s.sec)
def State.setDbg (s : State) (v : Debug) : State := { s with dbg := v }
def State.onDbg (s : State) (f : Debug → Debug) : State := s.setDbg (f s.dbg)
def State.setSub (s : State) (v : Submission) : State := { s with sub := v }
def State.onSub (s : State) (f : Submission → Submission) : State := s.setSub (f s.sub)
def State.setCpl (s : State) (v : Completion) : State := { s with cpl := v }
def State.onCpl (s : State) (f : Completion → Completion) : State := s.setCpl (f s.cpl)
def State.setHost (s : State) (v : HostPort) : State := { s with host := v }
def State.onHost (s : State) (f : HostPort → HostPort) : State := s.setHost (f s.host)

/-! ### Registers -/

/-- Active value of the register at a BAR0 offset, as stored. -/
def State.reg (s : State) (o : Nat) : Word := tget regReset s.regs o

/-- The register at a BAR0 offset set to a word. -/
def State.setReg (s : State) (o : Nat) (w : Word) : State := { s with regs := tset regReset s.regs o w }

/-- Bits [hi:lo] of a register. -/
def State.fld (s : State) (o hi lo : Nat) : Nat := bits (s.reg o) hi lo

/-- One bit of a register. -/
def State.flag (s : State) (o i : Nat) : Bool := bit (s.reg o) i

/-- Bits [hi:lo] of a register set. -/
def State.setFld (s : State) (o hi lo v : Nat) : State := s.setReg o (setBits (s.reg o) hi lo v)

/-- Bits set to 1 by the hardware. -/
def State.orReg (s : State) (o : Nat) (w : Word) : State := s.setReg o (s.reg o ||| w)

/-- A 32-bit counter that stops at all ones, advanced by k. -/
def State.bump (s : State) (o k : Nat) : State := s.setReg o (BitVec.ofNat 32 (satAdd 32 (s.reg o).toNat k))

/-- The 64-bit quantity whose low word stands at `o` (R4). -/
def State.reg64 (s : State) (o : Nat) : Nat := dword (s.reg o) (s.reg (o + 4))

/-- The 64-bit quantity whose low word stands at `o` set. -/
def State.setReg64 (s : State) (o v : Nat) : State := (s.setReg o (loWord v)).setReg (o + 4) (hiWord v)

/-- The shadow of a register, where it holds a value not yet committed (R10). -/
def State.shadow (s : State) (o : Nat) : Option Word := tget (fun _ => none) s.shadows o

/-- The shadow of a register set. -/
def State.setShadow (s : State) (o : Nat) (w : Option Word) : State :=
  { s with shadows := tset (fun _ => none) s.shadows o w }

/-! ### Units -/

/-- OWNER of a tally after reset (Table 9.5). -/
def tallyReset (n : Nat) : Tally := ⟨0, false, false, if 16256 ≤ n then 4 else 7⟩

def State.tally (s : State) (n : Nat) : Tally := tget tallyReset s.tallies n
def State.setTally (s : State) (n : Nat) (v : Tally) : State := { s with tallies := tset tallyReset s.tallies n v }

def State.core (s : State) (t : Nat) : DigitCore := tget (fun _ => {}) s.cores t
def State.setCore (s : State) (t : Nat) (v : DigitCore) : State := { s with cores := tset (fun _ => {}) s.cores t v }

def State.array (s : State) (t : Nat) : BeadArray := tget (fun _ => {}) s.arrays t
def State.setArray (s : State) (t : Nat) (v : BeadArray) : State :=
  { s with arrays := tset (fun _ => {}) s.arrays t v }

def State.rod (s : State) (t : Nat) : RodEngine := tget (fun _ => {}) s.rods t
def State.setRod (s : State) (t : Nat) (v : RodEngine) : State := { s with rods := tset (fun _ => {}) s.rods t v }

def State.engine (s : State) (e : Nat) : SlideEngine := tget (fun _ => {}) s.engines e
def State.setEngine (s : State) (e : Nat) (v : SlideEngine) : State :=
  { s with engines := tset (fun _ => {}) s.engines e v }

def State.chan (s : State) (e ch : Nat) : SlideChannel := tget (fun _ => {}) s.channels (32 * e + ch)
def State.setChan (s : State) (e ch : Nat) (v : SlideChannel) : State :=
  { s with channels := tset (fun _ => {}) s.channels (32 * e + ch) v }

def State.job (s : State) (n : Nat) : JobSlot := tget (fun _ => {}) s.jobs n
def State.setJob (s : State) (n : Nat) (v : JobSlot) : State := { s with jobs := tset (fun _ => {}) s.jobs n v }

def State.carrier (s : State) (c : Nat) : CarrierState := tget (fun _ => {}) s.carriers c
def State.setCarrier (s : State) (c : Nat) (v : CarrierState) : State :=
  { s with carriers := tset (fun _ => {}) s.carriers c v }

def State.link (s : State) (c : Nat) : LinkState := tget (fun _ => {}) s.links c
def State.setLink (s : State) (c : Nat) (v : LinkState) : State := { s with links := tset (fun _ => {}) s.links c v }

def State.tbase (s : State) (n : Nat) : TimeBase := tget (fun _ => {}) s.bases n
def State.setTbase (s : State) (n : Nat) (v : TimeBase) : State := { s with bases := tset (fun _ => {}) s.bases n v }

/-- The recorded SOFTBUF of a HARQ key, none while the key is empty (R298). -/
def State.harqKey (s : State) (c k : Nat) : Option Nat := tget (fun _ => none) s.harq (1024 * c + k)
def State.setHarqKey (s : State) (c k : Nat) (v : Option Nat) : State :=
  { s with harq := tset (fun _ => none) s.harq (1024 * c + k) v }

/-- The physical tile that holds logical tile t; logical t starts on physical t (R3; log entry 11). -/
def State.physOf (s : State) (t : Nat) : Nat := tget (fun i => i) s.integ.physOf t

/-- ROLE of a physical tile: 0 active, 1 spare, 2 quarantined (Table 13.13); tile 16 starts as the spare
(log entry 11). -/
def State.roleOf (s : State) (p : Nat) : Nat := tget (fun p => if p = 16 then 1 else 0) s.integ.role p

/-- The spare, when there is one (R384). -/
def State.spare (s : State) : Option Nat := (List.range 17).find? fun p => s.roleOf p = 1

/-- The resident slot whose job is RUNNING (R250). -/
def State.runningSlot (s : State) : Option Nat := (List.range 4).find? fun n => (s.job n).state = .running

/-- The number of the RUNNING job, 0 when none. -/
def State.runningNo (s : State) : Nat :=
  match s.runningSlot with
  | some n => (s.job n).number
  | none => 0

/-- Whether a job is RUNNING. -/
def State.anyRunning (s : State) : Bool := s.runningSlot.isSome

/-! ### Free values (log entries 3 and 4) -/

/-- The next free value. -/
def State.freeWord (s : State) : Word := Config.freeWord s.free
def State.freeChoice (s : State) : Bool := Config.freeChoice s.free
def State.drawFree (s : State) (n : Nat := 1) : State := { s with free := s.free + n }

/-- n free bytes. -/
def State.freeBytes (s : State) (n : Nat) : List Byte := (List.range n).map fun i => Config.freeByte (s.free + i)

/-! ### Memory -/

/-- What a byte of memory that nothing has written reads as (log entry 2). -/
def memReset (_ : Nat) : Byte := 0

/-- One byte by store address. -/
def State.byte (s : State) (a : Nat) : Byte := tget memReset s.mem a
def State.setByte (s : State) (a : Nat) (b : Byte) : State := { s with mem := tset memReset s.mem a b }

/-- The canonical form of memory. -/
def Memory.wf (m : List Host.Cell) : Bool := twf memReset m

/-- n bytes from a store address on. -/
def State.readBytes (s : State) (a n : Nat) : List Byte := (List.range n).map fun i => s.byte (a + i)

/-- Bytes written from a store address on. -/
def State.writeBytes (s : State) : Nat → List Byte → State
  | _, [] => s
  | a, b :: r => (s.setByte a b).writeBytes (a + 1) r

/-- A little-endian number of n bytes. -/
def State.readLE (s : State) (a n : Nat) : Nat := leNat (s.readBytes a n)
def State.writeLE (s : State) (a n v : Nat) : State := s.writeBytes a (natLE n v)

/-- Every byte of [lo, hi) back at what unwritten memory reads as. -/
def State.clearMem (s : State) (lo hi : Nat) : State := { s with mem := tclear s.mem lo hi }

/-- Store address of board offset o of physical tile p; the proof area follows the board at 0x120_0000 (Table 17.2). -/
def physStore (p o : Nat) : Nat := 2 ^ 48 + p * 0x200_0000 + o
/-- Offset of the proof area in a physical tile's store (R386). -/
def proofArea : Nat := 0x120_0000
/-- Store address of Ledger SRAM offset o. -/
def sramStore (o : Nat) : Nat := 2 ^ 49 + o
/-- Store address of boot flash offset o. -/
def flashStore (o : Nat) : Nat := 2 ^ 50 + o
/-- Store address, and device physical address, of common-board offset o (Table 1.5). -/
def commonStore (o : Nat) : Nat := 0x10_0000_0000 + o
/-- Store address of PCIe address a of host memory (R39). -/
def hostStore (a : Nat) : Nat := 0x8000_0000_0000 + a % 2 ^ 47

/-- Sizes of a tile board, the common board and HBM (Table 1.5). -/
def boardSize : Nat := 0x120_0000
def commonSize : Nat := 0x600_0000
def hbmSize : Nat := 0x6_0000_0000

/-- Store address of board offset o of logical tile t (R37). -/
def State.boardStore (s : State) (t o : Nat) : Nat := physStore (s.physOf t) o

/-- What a device physical address names (Table 1.5). -/
inductive Target
  | hbm (a : Nat)
  | common (o : Nat)
  | board (t o : Nat)
  | register (o : Nat)
  | peer (a : Nat)
  | host (a : Nat)
  | hole
  deriving DecidableEq, Repr

/-- The device physical memory map (R36). -/
def targetOf (a : Nat) : Target :=
  if a < hbmSize then .hbm a
  else if 0x10_0000_0000 ≤ a ∧ a < 0x10_0600_0000 then .common (a - 0x10_0000_0000)
  else if 0x11_0000_0000 ≤ a ∧ a < 0x11_2000_0000 then
    let t := (a - 0x11_0000_0000) / 0x200_0000
    let o := (a - 0x11_0000_0000) % 0x200_0000
    if o < boardSize then .board t o else .hole
  else if 0x20_0000_0000 ≤ a ∧ a < 0x20_0400_0000 then .register (a - 0x20_0000_0000)
  else if 0x4000_0000_0000 ≤ a ∧ a < 0x4020_0000_0000 then .peer (a - 0x4000_0000_0000)
  else if 0x8000_0000_0000 ≤ a ∧ a < 2 ^ 48 then .host (a - 0x8000_0000_0000)
  else .hole

/-- The store address of a memory target: none for registers, the peer and holes. -/
def State.storeOf (s : State) : Target → Option Nat
  | .hbm a => some a
  | .common o => some (commonStore o)
  | .board t o => some (s.boardStore t o)
  | .host a => some (hostStore a)
  | .register _ | .peer _ | .hole => none

/-- Mequel's HBM region (R72), the last 2 GiB. -/
def mequelLo : Nat := 0x5_8000_0000

/-- Whether [a, a+n) lies in HBM outside Mequel's region. -/
def inUserHbm (a n : Nat) : Bool := a + n ≤ mequelLo

/-! ### ECC state -/

/-- State of an ECC word: 0 good, 1 a single-bit error, 2 uncorrectable (R195, R196). -/
def State.eccOf (s : State) (w : Nat) : Nat := tget (fun _ => 0) s.ecc w
def State.setEcc (s : State) (w v : Nat) : State := { s with ecc := tset (fun _ => 0) s.ecc w v }

/-- The 8-byte words of [a, a+n) are written whole or in part: a word wholly covered becomes good (R196). -/
def State.eccWritten (s : State) (a n : Nat) : State :=
  { s with ecc := tclear s.ecc ((a + 7) / 8) ((a + n) / 8) }

/-- n bytes from store address a on copied to b with the state of their ECC words, as the swap path copies them
(R382). -/
def State.copyRegion (s : State) (a b n : Nat) : State :=
  let cells := s.mem.filter fun e => a ≤ e.1 && e.1 < a + n
  let words := s.ecc.filter fun e => a / 8 ≤ e.1 && e.1 < (a + n) / 8
  let s := s.clearMem b (b + n)
  let s := cells.foldl (fun s e => s.setByte (b + (e.1 - a)) e.2) s
  let s := { s with ecc := tclear s.ecc (b / 8) ((b + n) / 8) }
  words.foldl (fun s e => s.setEcc (b / 8 + (e.1 - a / 8)) e.2) s

/-! ### Device time (R335, R336) -/

/-- RATE of a base, signed (R336). -/
def State.rate (s : State) (n : Nat) : Int := (s.reg (tbBase n + 0xC)).toInt

/-- T_n at counter value c, in units of 2^−16 ns, from a given record (R336). -/
def timeAt (base : BitVec 80) (anchor : Nat) (rate : Int) (c : Nat) : Nat :=
  (((base.toNat : Int) + ((c : Int) - anchor) * 4 * (2 ^ 40 + rate) * 2 ^ 16 / (5 * 2 ^ 40)) % 2 ^ 80).toNat

/-- T_n at counter value c. -/
def State.timeOfAt (s : State) (n c : Nat) : Nat :=
  timeAt (s.tbase n).base (s.tbase n).anchor.toNat (s.rate n) c

/-- T_n now. -/
def State.timeOf (s : State) (n : Nat) : Nat := s.timeOfAt n s.counter.toNat

/-- The 64-bit integer nanosecond value of base n (R342). -/
def State.nsOf (s : State) (n : Nat) : Nat := s.timeOf n / 2 ^ 16 % 2 ^ 64

/-! ### Carrier contexts -/

/-- ENABLE (Table 10.10). -/
def State.ccEnabled (s : State) (c : Nat) : Bool := s.flag (carrierBase c) 31
/-- TYPE = LINK. -/
def State.ccLink (s : State) (c : Nat) : Bool := s.flag (carrierBase c) 30
/-- TBASE. -/
def State.ccBase (s : State) (c : Nat) : Nat := s.fld (carrierBase c) 29 28
/-- MU. -/
def State.ccMu (s : State) (c : Nat) : Nat := s.fld (carrierBase c) 27 26
/-- ACTIVE: planned slots stand before their deadline checks (Table 10.11), or received bursts are not yet reported
(R334). -/
def State.ccActive (s : State) (c : Nat) : Bool :=
  let l := s.link c
  (s.carrier c).plans.any (!·.checked) || !l.bursts.isEmpty || !l.waiting.isEmpty || l.rx.isSome || !l.rxNext.isEmpty
/-- ENABLE or ACTIVE. -/
def State.ccLive (s : State) (c : Nat) : Bool := s.ccEnabled c || s.ccActive c
/-- CC_SLOT. -/
def State.ccSlot (s : State) (c : Nat) : Word := s.reg (carrierBase c + 0x8)

/-- Whether a carrier context governed by base n has ENABLE or ACTIVE at 1 (R339). -/
def State.baseBusy (s : State) (n : Nat) : Bool :=
  (List.range 24).any fun c => s.ccBase c = n && s.ccLive c

/-! ### Accounting (R265–R269) -/

/-- Fields of an accounting record (Table 9.12). -/
def acEngine : Nat := 0
def acKsteps : Nat := 1
def acBoard : Nat := 2
def acHbm : Nat := 3
def acFh : Nat := 4
def acPcie : Nat := 5
def acBridge : Nat := 6
def acEnergy : Nat := 7

/-- The device record (R265): record number 132, after 33 records of each of the four slots. -/
def deviceRecord : Nat := 132

/-- The record of a client tag, or of the overhead (32), of the RUNNING job; the device record when none runs. -/
def State.recordOf (s : State) (tag : Nat) : Nat :=
  match s.runningSlot with
  | some n => 33 * n + min tag 32
  | none => deviceRecord

/-- The slot whose job the tiles work for: the RUNNING one, or the last whose job has ENDED and whose work in flight
goes on (R501). -/
def State.tileSlot (s : State) : Option Nat := match s.runningSlot with
  | some k => some k
  | none => s.lastRun.filter fun k => (s.job k).state = .ended

/-- The record of a client tag that work of the tiles is charged to (R266, R267). -/
def State.tileRecord (s : State) (tag : Nat) : Nat :=
  match s.tileSlot with
  | some n => 33 * n + min tag 32
  | none => deviceRecord

/-- Field k of record r. -/
def State.acctOf (s : State) (r k : Nat) : DWord := tget (fun _ => 0) s.acct (8 * r + k)

/-- v charged to field k of record r, modulo 2^64. -/
def State.charge (s : State) (r k v : Nat) : State :=
  { s with acct := tset (fun _ => 0) s.acct (8 * r + k) (s.acctOf r k + BitVec.ofNat 64 v) }

/-- n bytes charged to BYTES_BOARD of record r; those of the common board count towards its energy too (R268). -/
def State.chargeBoard (s : State) (r n : Nat) (common : Bool) : State :=
  let s := s.charge r acBoard n
  if common then s.onPower fun p => { p with commonNow := tset (fun _ => 0) p.commonNow r (tget (fun _ => 0) p.commonNow r + n) }
  else s

/-- n tile-beats of physical tile p charged to record r: ENGINE advances by 1 for every 1,250 of them (R266). -/
def State.chargeBeats (s : State) (p r n : Nat) : State :=
  let b := tget (fun _ => 0) s.power.tileBeats r + n
  let k := 256 * p + r
  (s.charge r acEngine (b / 1250)).onPower fun p => { p with
    tileBeats := tset (fun _ => 0) p.tileBeats r (b % 1250),
    beatsNow := tset (fun _ => 0) p.beatsNow k (tget (fun _ => 0) p.beatsNow k + n) }

/-- BAR0 offset of field k of record r (R269). -/
def acctOff (r k : Nat) : Nat :=
  (if r = deviceRecord then 0x0010_C000 else 0x0010_8000 + (r / 33) * 0x1000 + (r % 33) * 0x40) + 8 * k

/-! ### When the device's units act -/

/-- CLK_STATUS.LOCK: the derived clocks run (R417). -/
def State.locked (s : State) : Bool := s.flag 0x5_0000 0

/-- The derived clocks run and the device is not frozen, so that its units act (R417, R467). -/
def State.live (s : State) : Bool := !s.dbg.frozen && s.locked

/-- An event of a unit: nothing while its clocks stand still (log entry 14). -/
def State.act (s : State) (f : State → State) : State := if s.live then f s else s

/-- A register write of its own row: performed while the derived clocks run; one of the host that meets a frozen device
is discarded and counted (Table 17.1), and one before lock has no effect (R417). -/
def State.written (s : State) (src : Writer) (f : State → State) : State :=
  if s.live then f s
  else if s.dbg.frozen && src = .pcie then s.bump (dbgBase + 0x44) 1
  else s

/-- A spare-tile swap of logical tile t is in progress: the recovery that has begun last is its level 3 (R35). -/
def State.swapping (s : State) (t : Nat) : Bool :=
  match s.integ.recoveries, s.integ.handling with
  | r :: _, h :: _ => r.level = 3 && h.inst = t
  | _, _ => false

/-- An access to the window of tile t held until its swap completes (R35). -/
def State.hold (s : State) (x : HeldAccess) : State := s.onHost fun h => { h with held := h.held ++ [x] }

/-- A write of its own row in the window of logical tile t, at offset `o`: held while t is being swapped (R35). -/
def State.tileWritten (s : State) (src : Writer) (t o : Nat) (v : Word) (f : State → State) : State :=
  s.written src fun s => if s.swapping t then s.hold { tile := t, off := o, write := true, src := src, val := v } else f s

/-- As `tileWritten`, in the block of slide engine e. -/
def State.slideWritten (s : State) (src : Writer) (e o : Nat) (v : Word) (f : State → State) : State :=
  if e < 16 then s.tileWritten src e o v f else s.written src f

/-- The completion of a request of the host. -/
def State.answer (s : State) (st : PcieStatus) (data : List Byte) : State :=
  s.onHost fun h => { h with reply := some ⟨st, data⟩ }

/-- A word returned to the host that read it. -/
def State.replyWord (s : State) (w : Word) : State := s.answer .success (natLE 4 w.toNat)

/-- v / d, rounded up or down as a free choice where it is no integer: the manual states no rounding (log entry 4). -/
def State.openRound (s : State) (v : Int) (d : Nat) : Int × State :=
  if v % d = 0 then (v / d, s) else (v / d + b2n s.freeChoice, s.drawFree)

/-! ### Small helpers -/

/-- Element i of a list replaced. -/
def setAt {α : Type} (l : List α) (i : Nat) (f : α → α) : List α :=
  l.mapIdx fun j x => if j = i then f x else x

/-- An element put into a list sorted by `le`, before the first that it does not exceed. -/
def insertBy {α : Type} (le : α → α → Bool) (x : α) : List α → List α
  | [] => [x]
  | y :: r => if le x y then x :: y :: r else y :: insertBy le x r

/-- A list sorted by `le`. -/
def sortBy {α : Type} (le : α → α → Bool) (l : List α) : List α := l.foldr (insertBy le) []

/-- A function applied for each number below n, in rising order. -/
def State.forEach (s : State) (n : Nat) (f : State → Nat → State) : State := (List.range n).foldl f s

/-- Whether a port is down for want of its reference clock (R418). -/
def State.portDown (s : State) (p : SerdesPort) : Bool := s.host.downPorts.contains p

/-- The port of fronthaul link l. -/
def fhPort (l : Nat) : SerdesPort := .fronthaul (if l < 4 then 0 else 1)

/-- The port by which something leaves the device; none for the debug readout port. -/
def State.sentPort (s : State) : Sent → Option SerdesPort
  | .msix _ _ _ => some .pcie
  | .cPlane c _ _ _ _ _ => some (fhPort (s.fld (carrierBase c) 25 23))
  | .uPlane c _ _ _ _ _ _ => some (fhPort (s.fld (carrierBase c) 25 23))
  | .burst c _ _ _ _ _ _ _ => some (fhPort (s.fld (carrierBase c) 25 23))
  | .delayReq n _ _ _ => some (fhPort (s.fld (tbBase n + 4) 6 4))
  | .peerRead _ _ _ _ _ => some .bridge
  | .peerWrite _ _ _ _ _ => some .bridge
  | .peerCtl _ => some .bridge
  | .creditReturn _ _ _ => some .bridge
  | .creditCounts _ => some .bridge
  | .peerSignal _ _ _ _ => some .bridge
  | .peerReply _ _ _ => some .bridge
  | .lockstepRecord _ _ _ => some .bridge
  | .lockstepRows _ _ _ _ => some .bridge
  | .debugFrame _ => none

/-- What leaves the device: nothing through a port that is down (R418). -/
def State.send (s : State) (m : Sent) : State :=
  if (s.sentPort m).any s.portDown then s else { s with sent := s.sent ++ [m] }

/-- The job that holds a carrier's tag: record of carrier c in the RUNNING job, or the device record (R267). -/
def State.carrierRecord (s : State) (c : Nat) : Nat :=
  match s.runningSlot with
  | some n => match (s.job n).ccTag[c]? with
    | some tag => if tag < 32 then 33 * n + tag else deviceRecord
    | none => deviceRecord
  | none => deviceRecord

end Sys2Proof.Machine
end

