-- ==== Sys2Proof/Machine/Log.lean ====
section
/-! DEFINITION. Log.lean: MSI-X signalling, the error log, severities, and the order in which errors are handled
(R358–R365, R450, R475). -/

namespace Sys2Proof.Machine

/-! ### MSI-X (R450) -/

/-- Words of MSI-X vector v in the table at 0x000D_0000 (Table 16.1). -/
def msixOff (v : Nat) : Nat := 0x000D_0000 + v * 16

/-- Vector v signalled: sent, or its pending bit set while it is masked. -/
def signalVector (s : State) (v : Nat) : State :=
  if s.flag (msixOff v + 12) 0 then s.orReg (0x000D_0800 + 4 * (v / 32)) (BitVec.ofNat 32 (2 ^ (v % 32)))
  else s.send (.msix v (s.reg64 (msixOff v)) (s.reg (msixOff v + 8)))

/-- Bits of HOST_EVT set, and the event vector signalled (Table 16.5). -/
def signalEvent (s : State) (b : Nat) : State :=
  signalVector (s.orReg 0x1_0024 (BitVec.ofNat 32 (2 ^ b))) (s.fld 0x1_0020 13 8)

/-! ### Error codes (Table 13.3) -/

def eLockedWrite : Nat := 0x01
def eBcastMismatch : Nat := 0x02
def eResidue : Nat := 0x10
def eFeederTimeout : Nat := 0x11
def ePartitionFault : Nat := 0x12
def eRodException : Nat := 0x20
def eIllegalOp : Nat := 0x21
def eHoldoff : Nat := 0x22
def eSlideBus : Nat := 0x30
def eCreditStall : Nat := 0x31
def eCancelDone : Nat := 0x32
def eTallyOverflow : Nat := 0x40
def eNamespace : Nat := 0x41
def eHbmCorr : Nat := 0x50
def eHbmUncorr : Nat := 0x51
def eBoardCorr : Nat := 0x52
def eBoardUncorr : Nat := 0x53
def eFrameLate : Nat := 0x60
def eDecomp : Nat := 0x61
def eBridgeTimeout : Nat := 0x70
def eCreditLost : Nat := 0x71
def eDiverge : Nat := 0x72
def eProofMismatch : Nat := 0x80
def eProofDeferred : Nat := 0x81
def eDeadlineMiss : Nat := 0x82
def eSupplyWarn : Nat := 0x90
def eThermalWarn : Nat := 0x91
def ePeakBudget : Nat := 0x92
def eTimeRefLost : Nat := 0xA0
def eStepRefused : Nat := 0xA1
def eOverflow : Nat := 0xF0

/-- SEVERITY of an error by its code and DETAIL1 (Table 13.3). -/
def severityOf (code d1 : Nat) : Nat :=
  if code ∈ [eResidue, ePartitionFault, eIllegalOp, eSlideBus, eNamespace, eBoardUncorr, eBridgeTimeout, eCreditLost,
      eDiverge, eProofMismatch] then 2
  else if code = eRodException then (if 8 ≤ d1 then 2 else 0)
  else if code = eHbmUncorr then (if d1.testBit 31 then 3 else 2)
  else if code ∈ [eHbmCorr, eBoardCorr] then 1
  else 0

/-- The recovery level that the Handling column gives an error (Table 13.3); 0 none. -/
def levelOf (code unit inst d1 : Nat) : Nat :=
  if code = eResidue then 1
  else if code = ePartitionFault then (if d1 = 4 then 1 else 2)
  else if code = eRodException then (if 8 ≤ d1 then 2 else 0)
  else if code = eIllegalOp ∨ code = eNamespace then 2
  else if code = eSlideBus then (if unit = 3 ∧ inst < 16 then 2 else 0)
  else if code = eHbmUncorr ∧ d1.testBit 31 then 4
  else 0

/-- The part of a tile an error's unit is (R362): 0–3 a partition, 4 the Quick Sum path, 5 the tile. -/
def partOf (r : LogRecord) : Nat :=
  if r.code = eResidue then r.detail0.toNat % 8
  else if r.code = ePartitionFault then r.detail0.toNat
  else 5

/-- Whether two errors arise in the same unit (R362). -/
def sameUnit (a b : LogRecord) : Bool :=
  if (a.unit = 1 || a.unit = 3 && a.inst < 16) && (b.unit = 1 || b.unit = 3 && b.inst < 16) then
    a.inst = b.inst && partOf a = partOf b
  else a.unit = b.unit && a.inst = b.inst

/-- Whether level k can be applied to logical tile t's part: level 2 of the tile needs a checkpoint, or for a partition
is a fence; level 3 needs a spare and the checkpoint that the spare takes over (R377, R380, R382–R384; log entry 48). -/
def levelApplies (s : State) (k t part : Nat) : Bool :=
  let saved := (tget (fun _ => none) s.integ.checkpoints t).isSome
  match k with
  | 2 => part < 5 || saved
  | 3 => s.spare.isSome && saved
  | _ => true

/-- The first level from k on that can be applied (R364). -/
def firstLevel (s : State) (k t part : Nat) : Nat :=
  if k = 0 then 0
  else (([k, k + 1, k + 2].filter (· < 4)).find? fun j => levelApplies s j t part).getD 4

/-! ### Entering an error (R359–R361) -/

/-- The first word of an entry (Table 13.2). -/
def entryWord (r : LogRecord) : Nat :=
  r.code % 256 + r.severity % 4 * 2 ^ 8 + r.level % 8 * 2 ^ 10 + b2n r.escalated * 2 ^ 13 + r.unit % 16 * 2 ^ 16
    + r.inst % 32 * 2 ^ 20

/-- The eight words of entry number e (Table 13.2). -/
def entryWords (r : LogRecord) (e : Word) : List Word :=
  [BitVec.ofNat 32 (entryWord r), e, r.detail0, r.detail1, loWord r.time.toNat, hiWord r.time.toNat,
    BitVec.ofNat 32 (r.job % 2 ^ 16), 0]

/-- Consecutive registers set. -/
def State.setRegs (s : State) : Nat → List Word → State
  | _, [] => s
  | o, w :: r => (s.setReg o w).setRegs (o + 4) r

/-- An entry written to the log, and the error vector signalled for severity containable or fatal (R360). -/
def enterLog (s : State) (r : LogRecord) : State :=
  let e := s.reg 0x1000
  let s := s.setRegs (0x2000 + e.toNat % 64 * 0x20) (entryWords r e)
  let s := s.setReg 0x1000 (e + 1)
  if 2 ≤ r.severity then signalVector s (s.fld 0x1_0020 5 0) else s

/-- Entries whose number lies in CONS to PROD − 1 (R359). -/
def validEntries (s : State) : Nat := (s.reg 0x1000 - s.reg 0x1004).toNat

/-- Whether the log takes no entry of an error that arrives: 64 entries are valid, or held ones come first. -/
def logFull (s : State) : Bool := 64 ≤ validEntries s || !s.integ.overflow.isEmpty

/-- An error enters the log, or is lost or held back while the log is full (R360, R361). -/
def logError (s : State) (r : LogRecord) : State :=
  if !logFull s then enterLog s r
  else
    let s := s.bump 0x100C 1
    if r.severity < 2 then s
    else
      let s := s.orReg 0x1008 1
      let s := s.setReg 0x1010 (BitVec.ofNat 32 (r.code % 256 + r.unit % 16 * 2 ^ 16 + r.inst % 32 * 2 ^ 20))
      if s.integ.overflow.length < 64 then
        let o : LogRecord := { r with
          code := eOverflow, unit := 0, inst := 0, escalated := true,
          detail0 := BitVec.ofNat 32 r.code, detail1 := BitVec.ofNat 32 (r.unit * 256 + r.inst) }
        s.onInteg fun g => { g with overflow := g.overflow ++ [o] }
      else s

/-! ### Order of handling (R362) -/

/-- A recovery of level k begins: IG_LEVELk_CNT counts it. -/
def countLevel (s : State) (k : Nat) : State := if 1 ≤ k ∧ k ≤ 4 then s.bump (igBase + 0x400 + (k - 1) * 4) 1 else s

/-- When no handling is in progress and an error waits, its handling begins. -/
def startHandling (s : State) : State :=
  match s.integ.recoveries, s.integ.handling with
  | [], h :: _ =>
    let s := s.onInteg fun g => { g with recoveries := [⟨h.level, s.counter.toNat⟩] }
    let s := countLevel s h.level
    if h.level = 4 then (s.onInteg fun g => { g with resetWanted := true }) else s
  | _, _ => s

/-- The handling of an error of level 1 to 4 by R362: its recovery begins at once when nothing of its severity is being
handled, and otherwise it waits. -/
def queueHandling (s : State) (r : LogRecord) : State :=
  if r.level = 0 then s
  else match s.integ.recoveries, s.integ.handling with
    | _ :: _, h :: _ =>
      if h.severity < r.severity then
        let s := s.onInteg fun g => { g with
          handling := r :: g.handling,
          recoveries := ⟨r.level, s.counter.toNat⟩ :: g.recoveries }
        let s := countLevel s r.level
        if r.level = 4 then (s.onInteg fun g => { g with resetWanted := true }) else s
      else s.onInteg fun g => { g with handling := g.handling ++ [r] }
    | _, _ => startHandling (s.onInteg fun g => { g with handling := g.handling ++ [r] })

/-- The handling at the head has completed; a suspended one resumes, or a waiting one begins (R362). -/
def finishHandling (s : State) : State :=
  startHandling (s.onInteg fun g => { g with handling := g.handling.drop 1, recoveries := g.recoveries.drop 1 })

/-- The severity of an error of Table 13.3's severity `sev` at a level: level 4 makes it fatal (R358, R372, R385). -/
def severityAt (level sev : Nat) : Nat := if level = 4 then 3 else sev

/-- The recovery at the head goes to the next level of the ladder that applies (R364), its error with it. -/
def liftHead (s : State) : State :=
  match s.integ.recoveries, s.integ.handling with
  | r :: rs, h :: hs =>
    let k := firstLevel s (r.level + 1) h.inst (partOf h)
    let s := s.onInteg fun g => { g with
      handling := { h with level := k, escalated := true, severity := severityAt k h.severity } :: hs,
      recoveries := ⟨k, s.counter.toNat⟩ :: rs,
      resetWanted := g.resetWanted || k == 4 }
    countLevel s k
  | _, _ => s

/-- The recovery at the head is escalated by itself (R363): at level 4 a fatal entry is logged (R385). -/
def escalateHead (s : State) : State :=
  let s := liftHead s
  match s.integ.handling with
  | h :: _ => if h.level = 4 then logError s h else s
  | [] => s

/-- An error enters the log or is held back (R360, R361), and its handling is ordered (R362). `r.level` is the level
that Table 13.3 gives it. -/
def admitError (s : State) (r : LogRecord) : State :=
  let s := s.bump (0x3000 + r.code * 4) 1
  let want := if logFull s && 2 ≤ r.severity then min 4 (r.level + 1) else r.level
  let k := firstLevel s want r.inst (partOf r)
  -- R362 step 3: the unit of the recovery in progress fails again.
  let again := match s.integ.recoveries, s.integ.handling with
    | q :: _, h :: _ => r.severity = 2 && q.level < 4 && sameUnit h r
    | _, _ => false
  let lvl := if again then
      match s.integ.recoveries with
      | h :: _ => firstLevel s (h.level + 1) r.inst (partOf r)
      | [] => k
    else k
  let r := { r with
    level := lvl, escalated := again || lvl ≠ r.level, severity := severityAt lvl r.severity }
  let s := logError s r
  if again then liftHead s else queueHandling s r

/-- The device freezes (R466, R467). -/
def freezeNow (s : State) : State :=
  if s.dbg.frozen then s else s.onDbg fun d => { d with frozen := true, frozenFor := 0 }

/-- An error detected now: entered at once, or at the end of the beat that runs, or after the thaw when the trigger of
R475 freezes the device. -/
def raise (s : State) (code unit inst d0 d1 : Nat) : State :=
  let r : LogRecord := {
    code := code, severity := severityOf code d1, level := levelOf code unit inst d1, escalated := false,
    unit := unit, inst := inst, detail0 := BitVec.ofNat 32 d0, detail1 := BitVec.ofNat 32 d1,
    time := BitVec.ofNat 64 (s.nsOf 0), job := s.runningNo }
  let fire := s.flag (dbgBase + 0x8) 8 && s.fld (dbgBase + 0x8) 7 0 == code && !s.dbg.frozen
  if fire then
    let s := (s.orReg dbgBase 1).orReg (dbgBase + 0x4) 4
    let s := freezeNow (s.setFld (dbgBase + 0x8) 8 8 0)
    s.onInteg fun g => { g with deferred := g.deferred ++ [r] }
  else if s.dbg.frozen then s.onInteg fun g => { g with deferred := g.deferred ++ [r] }
  else match s.integ.batch with
    | some l => s.onInteg fun g => { g with batch := some (l ++ [r]) }
    | none => admitError s r

/-- Errors of one beat in increasing UNIT and then INSTANCE (R360). -/
def beatOrder (l : List LogRecord) : List LogRecord :=
  (List.range 16).flatMap fun u => (List.range 32).flatMap fun i => l.filter fun r => r.unit = u && r.inst = i

/-- What happens in one beat, the errors detected in it entered at its end. -/
def inOneBeat (f : State → State) (s : State) : State :=
  let s := f (s.onInteg fun g => { g with batch := some [] })
  (beatOrder (s.integ.batch.getD [])).foldl admitError (s.onInteg fun g => { g with batch := none })

/-- An event at which several units may detect errors at once. -/
def State.actTogether (s : State) (f : State → State) : State := s.act (inOneBeat f)

/-! ### Taint (R369) -/

/-- Carrier c's slots that have an accepted UL plan and whose deadline check has not run are tainted: their UL plans and
the DL plans of the same slots; LINK contexts are never tainted. -/
def taintCarrier (s : State) (c : Nat) : State :=
  if s.ccLink c then s
  else
    let cs := s.carrier c
    let slots := (cs.plans.filter fun p => p.ul && !p.checked).map (·.slot)
    s.setCarrier c { cs with
      plans := cs.plans.map fun p => if p.checked || !slots.contains p.slot then p else { p with tainted := true } }

/-- The carrier set of logical tile t, from the RUNNING job's bind report. -/
def carrierSet (s : State) (t : Nat) : List Nat :=
  match s.runningSlot with
  | some n => (s.job n).image.carrierSets.getD t []
  | none => []

/-- The carrier set of a tile tainted. -/
def taintTile (s : State) (t : Nat) : State := (carrierSet s t).foldl taintCarrier s

/-- The carriers an image imports, by a SPACE 4 grid or a KIND 1 tally. -/
def importsOf (b : BoundImage) : List Nat :=
  (List.range 24).filter fun c =>
    b.tallies.any (fun d => d.kind = 1 && d.arg0 = c) || b.places.any (fun p => p.carrier && p.owner = c)

/-- Every carrier that the RUNNING job imports (Table 13.4). -/
def importedCarriers (s : State) : List Nat :=
  match s.runningSlot with
  | some n => importsOf (s.job n).image
  | none => []

/-- The carrier whose buffer region holds a common-board offset. -/
def bufferOwner (s : State) (o : Nat) : Option Nat :=
  (List.range 24).find? fun c => (List.range 5).any fun r =>
    let a := (s.reg (carrierBase c + 0x80 + 8 * r)).toNat
    let n := (s.reg (carrierBase c + 0x84 + 8 * r)).toNat
    a ≤ o && o < a + n

end Sys2Proof.Machine
end

