-- ==== Sys2Proof/Machine/Tally.lean ====
section
/-! DEFINITION. Tally.lean: the operations of Table 9.1 on a tally (R239–R241), the journal of a tile (R378, R379),
and the signals from outside a job (R246). -/

namespace Sys2Proof.Machine

/-- The largest count (R239). -/
def tallyMax : Nat := 0x7FFF_FFFF

/-- OVF or UNF set; TALLY_OVERFLOW is logged when both were clear, naming the issuing unit (R240). -/
def tallySaturated (s : State) (n : Nat) (up : Bool) (unit inst : Nat) : State :=
  let v := s.tally n
  let s := s.setTally n { v with ovf := v.ovf || up, unf := v.unf || !up }
  if v.ovf || v.unf then s else raise s eTallyOverflow 0 0 n (unit * 256 + inst)

/-- ADD a to tally n by a unit (R239, R240). -/
def tallyAdd (s : State) (n a unit inst : Nat) : State :=
  let v := s.tally n
  let c := v.count + a % 2 ^ 32
  let s := s.setTally n { v with count := min tallyMax c }
  if tallyMax < c then tallySaturated s n true unit inst else s

/-- SUB a from tally n by a unit (R239, R240). -/
def tallySub (s : State) (n a unit inst : Nat) : State :=
  let v := s.tally n
  let k := a % 2 ^ 32
  let s := s.setTally n { v with count := v.count - k }
  if v.count < k then tallySaturated s n false unit inst else s

/-- Whether a TAKE succeeds (Table 9.1). -/
def tallyTakes (s : State) (n : Nat) : Bool := 1 ≤ (s.tally n).count

/-- A TAKE that succeeds (Table 9.1). -/
def tallyTake (s : State) (n : Nat) : State :=
  let v := s.tally n
  s.setTally n { v with count := v.count - 1 }

/-- Whether a WAIT for threshold t completes (Table 9.1). -/
def tallyMet (s : State) (n t : Nat) : Bool := min (t % 2 ^ 32) tallyMax ≤ (s.tally n).count

/-- The namespace of the job that the tiles work for: its first tally and length (R243). -/
def runningNs (s : State) : Nat × Nat :=
  match s.tileSlot with
  | some k => ((s.job k).image.nsBase, (s.job k).image.nsLen)
  | none => (0, 0)

/-- Whether that job may name tally n (R245). -/
def inNamespace (s : State) (n : Nat) : Bool :=
  let (b, l) := runningNs s
  b ≤ n && n < b + l

/-! ### The journal (R378, R379) -/

/-- What tile t's journal holds of tally n. -/
def journalOf (s : State) (t n : Nat) : JournalEntry := tget (fun _ => {}) (tget (fun _ => []) s.integ.journals t) n

def setJournal (s : State) (t n : Nat) (e : JournalEntry) : State :=
  let j := tget (fun _ => []) s.integ.journals t
  s.onInteg fun g => { g with journals := tset (fun _ => []) g.journals t (tset (fun _ => {}) j n e) }

/-- An ADD by tile t's digit core or slide engine: absorbed while a replay has journaled amounts left (R379 step 5),
otherwise applied and journaled. -/
def tileAdd (s : State) (t n a unit : Nat) : State :=
  let e := journalOf s t n
  let a := a % 2 ^ 32
  let k := min a e.absorbAdds
  let s := setJournal s t n { e with absorbAdds := e.absorbAdds - k, adds := e.adds + (a - k) }
  if k < a || a = 0 then tallyAdd s n (a - k) unit t else s

/-- A SUB by tile t's digit core, with the journal as in `tileAdd`. -/
def tileSub (s : State) (t n a unit : Nat) : State :=
  let e := journalOf s t n
  let a := a % 2 ^ 32
  let k := min a e.absorbSubs
  let s := setJournal s t n { e with absorbSubs := e.absorbSubs - k, subs := e.subs + (a - k) }
  if k < a || a = 0 then tallySub s n (a - k) unit t else s

/-- Whether a TAKE by tile t's slide engine succeeds, absorbed or applied. -/
def tileTakes (s : State) (t n : Nat) : Bool := 1 ≤ (journalOf s t n).absorbTakes || tallyTakes s n

/-- A TAKE by tile t's slide engine that succeeds. -/
def tileTake (s : State) (t n : Nat) : State :=
  let e := journalOf s t n
  if 1 ≤ e.absorbTakes then setJournal s t n { e with absorbTakes := e.absorbTakes - 1 }
  else setJournal (tallyTake s n) t n { e with takes := e.takes + 1 }

/-! ### Signals from outside the job (R246) -/

/-- The device tallies of every resident job that a declaration picks. -/
def importedTallies (s : State) (p : TallyDecl → Bool) : List Nat :=
  (List.range 4).flatMap fun k =>
    let j := s.job k
    ((j.image.tallies.zipIdx).filter (fun d => p d.1)).map fun d => j.image.nsBase + d.2

/-- Symbol k of carrier c has arrived (R22, R246). -/
def signalSymbol (s : State) (c k : Nat) : State :=
  (importedTallies s fun d => d.kind = 1 && d.arg0 = c && d.arg1 = k).foldl (fun s n => tallyAdd s n 1 6 c) s

/-- A slot tick of base n (R246, KIND 2). -/
def signalTick (s : State) (n : Nat) : State :=
  (importedTallies s fun d => d.kind = 2 && d.arg0 = n).foldl (fun s i => tallyAdd s i 1 9 n) s

/-! ### TALLYn registers (R249, Tables 9.2–9.5) -/

/-- OVF and UNF of a tally cleared by the ones of a word (W1C). -/
def tallyStatusWrite (s : State) (n : Nat) (w : Word) : State :=
  let v := s.tally n
  s.setTally n { v with ovf := v.ovf && !bit w 0, unf := v.unf && !bit w 1 }

/-- Whether a WAIT or TAKE is pending on tally n (Table 9.5). -/
def tallyWaited (s : State) (n : Nat) : Bool :=
  (List.range 16).any (fun t => (s.core t).waitOn = some n) ||
  (List.range 640).any (fun i => (tget (fun _ => {}) s.channels i).waitOn = some n)

/-- TALLYn_STATUS as read. -/
def tallyStatusWord (s : State) (n : Nat) : Word :=
  let v := s.tally n
  BitVec.ofNat 32 (b2n v.ovf + 2 * b2n v.unf + 4 * b2n (tallyWaited s n) + v.owner % 8 * 256)

/-- A tally back at 0 with clear flags, under an owner (R243, R244, R249). -/
def tallyFresh (s : State) (n count owner : Nat) : State := s.setTally n ⟨count % 2 ^ 31, false, false, owner⟩

/-! ### Mequel's leases (R248) -/

/-- The lease on Mequel's tally 16,256 + i. -/
def leaseOf (s : State) (i : Nat) : Option Lease := tget (fun _ => none) s.integ.leases i

/-- A free tally of Mequel's leased. The manual gives an operation a deadline and does not say which: it is a free value
(log entry 3). -/
def takeLease (s : State) (what : Lease) : State :=
  match (List.range 128).find? fun i => (leaseOf s i).isNone with
  | some i =>
    (s.onInteg fun g => { g with
      leases := tset (fun _ => none) g.leases i (some { what with deadline := s.counter.toNat + s.freeWord.toNat }) }).drawFree
  | none => s

/-- Whether a lease that a test picks is held. -/
def leased (s : State) (p : Lease → Bool) : Bool := (List.range 128).any fun i => (leaseOf s i).any p

/-- LEASE_STATUS.INUSE. -/
def leasesInUse (s : State) : Nat := (List.range 128).countP fun i => (leaseOf s i).isSome

/-- A lease freed: the count 0 and both flags clear (R248, R249). -/
def freeLease (s : State) (i : Nat) : State :=
  tallyFresh (s.onInteg fun g => { g with leases := tset (fun _ => none) g.leases i none }) (16256 + i) 0 4

/-- The leases that a test picks, freed. -/
def freeLeases (s : State) (p : Lease → Bool) : State :=
  s.forEach 128 fun s i => if (leaseOf s i).any p then freeLease s i else s

end Sys2Proof.Machine
end

