-- ==== Sys2Proof/Machine/Completion.lean ====
section
/-! DEFINITION. Completion.lean: the completion rings of host memory (R448–R451, Table 16.3). -/

namespace Sys2Proof.Machine

/-- Entries written to ring r (CPLr_TAIL). -/
def cplTail (s : State) (r : Nat) : Word := s.reg (cplBase r + 0x10)

/-- Whether ring r is enabled and has room for its next entry (R448). A ring that is not enabled takes no entry, and
its entries wait as for a full ring (log entry 12), as they do while the PCIe port is down. -/
def cplRoom (s : State) (r : Nat) : Bool :=
  !s.portDown .pcie && s.flag (cplBase r + 0x14) 0 && (cplTail s r - s.reg (cplBase r + 0xC)).toNat < (s.reg (cplBase r + 8)).toNat

/-- The 32 bytes of entry count e on a ring of `size` entries (Table 16.3, R448). -/
def cplBytes (x : CplEntry) (e : Word) (size : Nat) : List Byte :=
  natLE 1 x.code ++ natLE 1 (1 - e.toNat / size % 2) ++ natLE 2 x.htag ++ natLE 4 e.toNat
    ++ ((x.body ++ List.replicate 6 0).take 6).flatMap (fun (w : Word) => natLE 4 w.toNat)

/-- The number of entries of ring r written and not yet signalled, set. -/
def setUnsignalled (s : State) (r n : Nat) : State :=
  s.onCpl fun c => { c with unsignalled := tset (fun _ => 0) c.unsignalled r n }

/-- The message of ring r, which covers every entry written so far. -/
def ringMessage (s : State) (r : Nat) : State := signalVector (setUnsignalled s r 0) (s.fld (cplBase r + 0x14) 13 8)

/-- The message of ring r: after each entry, or held back for coalescing (R451). -/
def cplSignal (s : State) (r : Nat) : State :=
  if s.fld (cplBase r + 0x14) 23 16 = 0 then ringMessage s r
  else setUnsignalled s r (tget (fun _ => 0) s.cpl.unsignalled r + 1)

/-- An entry written at its place in host memory, then the ring's message (R27, R448, R451). Base bits below 4 KiB are
taken as 0. -/
def cplWrite (s : State) (x : CplEntry) : State :=
  let r := x.ring
  let e := cplTail s r
  let size := (s.reg (cplBase r + 8)).toNat
  let base := s.reg64 (cplBase r) / 4096 * 4096
  let s := s.writeBytes (hostStore (base + e.toNat % size * 32)) (cplBytes x e size)
  let s := s.setReg (cplBase r + 0x10) (e + 1)
  cplSignal s r

/-- Whether an entry for ring r would be written or wait: it is dropped otherwise (R449). -/
def cplTakes (s : State) (r : Nat) : Bool :=
  cplRoom s r && !s.cpl.queue.any (·.ring = r) || s.cpl.queue.length < 65536

/-- An entry for its ring: written when there is room and none waits before it, otherwise queued, and dropped when the
queue of 65,536 entries is full (R449). -/
def cplPost (s : State) (x : CplEntry) : State :=
  if cplRoom s x.ring && !s.cpl.queue.any (·.ring = x.ring) then cplWrite s x
  else if s.cpl.queue.length < 65536 then s.onCpl fun c => { c with queue := c.queue ++ [x] }
  else s.bump (cplBase x.ring + 0x18) 1

/-- The ring of carrier c: CC_RINGc (R449). -/
def ccRing (s : State) (c : Nat) : Nat := s.fld (0x1_0028 + 4 * (c / 8)) (4 * (c % 8) + 2) (4 * (c % 8))

/-- The first waiting entry of ring r. -/
def cplWaiting (s : State) (r : Nat) : Option CplEntry := s.cpl.queue.find? (·.ring = r)

/-- The queue without its first entry of ring r. -/
def cplUnqueue (s : State) (r : Nat) : State :=
  s.onCpl fun c => { c with queue := c.queue.eraseP (·.ring = r) }

/-- The words of a body given as bytes. -/
def bodyWords (l : List Byte) : List Word := (List.range 6).map fun i => BitVec.ofNat 32 (field l (4 * i) 4)

/-! ### Commands -/

/-- COMPLETION_ENTRY_WRITE: the oldest waiting entry of ring r, when there is room for it (R448, R449). -/
def entryWrite (s : State) (r : Nat) : State :=
  match cplWaiting s r with
  | some x => if cplRoom s r then cplWrite (cplUnqueue s r) x else s
  | none => s

/-- MSIX_COALESCE_EXPIRY: the message of the entries of ring r not yet signalled (R451). -/
def coalesceExpiry (s : State) (r : Nat) : State :=
  if tget (fun _ => 0) s.cpl.unsignalled r = 0 then s else ringMessage s r

/-- The PBA word of vector v, and its bit. -/
def pbaOff (v : Nat) : Nat := 0x000D_0800 + 4 * (v / 32)

/-- Vector v unmasked: a pending message is sent (R450). -/
def vectorUnmask (s : State) (v : Nat) : State :=
  let s := s.setFld (msixOff v + 12) 0 0 0
  if s.flag (pbaOff v) (v % 32) then signalVector (s.setFld (pbaOff v) (v % 32) (v % 32) 0) v else s

def execCompletionEntryWrite (r : Fin 8) (s : State) : Host.Outcome State Fault Refusal :=
  .next (s.act fun s => entryWrite s r)

def execMsixCoalesceExpiry (r : Fin 8) (s : State) : Host.Outcome State Fault Refusal :=
  .next (s.act fun s => coalesceExpiry s r)

def execMsixVectorUnmask (v : Fin 64) (s : State) : Host.Outcome State Fault Refusal :=
  .next (s.written .pcie fun s => vectorUnmask s v)

end Sys2Proof.Machine
end

