-- ==== Sys2Proof/Machine/Boards.lean ====
section
/-! DEFINITION. Boards.lean: ECC of the tile boards, the common board and HBM, scrubbing, refresh and retraining
(R187–R206, R381). -/

namespace Sys2Proof.Machine

/-! ### Where an ECC word lies -/

/-- The memories that ECC covers. -/
inductive Site
  | board (p : Nat)
  | common
  | hbm
  deriving DecidableEq, Repr

/-- The memory a store address lies in; proof areas, Ledger SRAM, flash and host memory have no ECC here. -/
def siteOf (a : Nat) : Option Site :=
  if a < hbmSize then some .hbm
  else if 0x10_0000_0000 ≤ a ∧ a < 0x10_0600_0000 then some .common
  else if 2 ^ 48 ≤ a ∧ a < 2 ^ 48 + 17 * 0x200_0000 ∧ (a - 2 ^ 48) % 0x200_0000 < boardSize then
    some (.board ((a - 2 ^ 48) / 0x200_0000))
  else none

/-- The slice of a common-board offset (R198). -/
def sliceOf (o : Nat) : Nat := slice o 10 7 ^^^ slice o 14 11

/-- The line of the slice that a common-board offset lies in (R198). -/
def sliceLine (o : Nat) : Nat := slice o 26 11

/-- The row of its bank that a tile-board offset lies in (R187). -/
def bankRow (o : Nat) : Nat := slice o 24 13

/-- The bank of a tile-board offset (R187). -/
def bankOf (o : Nat) : Nat := slice o 12 7 ^^^ slice o 18 13

/-- The pseudo-channel of an HBM address (R201). -/
def pseudoOf (a : Nat) : Nat := slice a 12 8 ^^^ slice a 17 13

/-- The pseudo-channel-local address L of an HBM address (R201). -/
def localOf (a : Nat) : Nat := slice a 34 13 * 2 ^ 8 + slice a 7 0

/-- The HBM address of local address l in pseudo-channel p (R201). -/
def hbmAddr (p l : Nat) : Nat :=
  let hi := l / 2 ^ 8
  hi * 2 ^ 13 + (p ^^^ (hi % 32)) * 2 ^ 8 + l % 2 ^ 8

/-- Where a local address lies in its pseudo-channel (Table 7.4): stack, row, bank, bank group, and byte in the page. -/
structure HbmPlace where
  stack : Nat
  row : Nat
  bank : Nat
  group : Nat
  byte : Nat
  deriving DecidableEq, Repr

/-- The place of local address l (Table 7.4). -/
def hbmPlace (l : Nat) : HbmPlace := ⟨slice l 29 28, slice l 27 14, slice l 13 12, slice l 11 10, slice l 9 0⟩

/-- The number among the 48 banks of a pseudo-channel that HBM_REFRESH names (R203): stack, bank group and bank. -/
def HbmPlace.bankNo (x : HbmPlace) : Nat := x.stack * 16 + x.group * 4 + x.bank

/-- The logical tile that a physical tile holds now, when it is active. -/
def logicalOf (s : State) (p : Nat) : Option Nat := (List.range 16).find? fun t => s.physOf t = p

/-! ### Requesters -/

/-- Who makes an access, from which each memory's requester code follows (Table 7.1, R200, R202): a tile unit by its
code 0–9 with the partition of an array unit (R196), a slide engine, Ledger or BAR2, the scrubber, the decode unit, the
fronthaul unit or the atomic unit. -/
inductive Requester
  | tileUnit (code : Nat) (part : Nat := 0)
  | slide (e : Nat)
  | ledger
  | scrubber
  | decoder
  | fronthaul
  | atomic
  deriving DecidableEq, Repr

/-- Requester code at a tile board (Table 7.1). -/
def Requester.boardCode : Requester → Nat
  | .tileUnit k _ => k
  | .scrubber => 10
  | _ => 9

/-- DETAIL1 of BOARD_ECC_UNCORR at a tile board (Table 13.3): the requester code, and for the units of R196 the partition
in [15:8] (log entry 84). -/
def Requester.boardDetail : Requester → Nat
  | .tileUnit k p => if k < 3 then k + p * 2 ^ 8 else k
  | r => r.boardCode

/-- Requester code at the common board (R200). -/
def Requester.commonCode : Requester → Nat
  | .fronthaul => 0
  | .decoder => 1
  | .atomic => 2
  | .slide e => 3 + e
  | .scrubber => 24
  | _ => 23

/-- Requester code at HBM (R202). -/
def Requester.hbmCode : Requester → Nat
  | .slide e => e
  | .scrubber => 21
  | .decoder => 22
  | _ => 20

/-! ### Errors met by a read or a write (R195, R196, R200, R202) -/

/-- A corrected word: logged, counted and marked. -/
def eccCorrected (s : State) (w : Nat) (r : Requester) : State :=
  let a := 8 * w
  match siteOf a with
  | some (.board p) =>
    let o := (a - 2 ^ 48) % 0x200_0000
    match logicalOf s p with
    | some t => raise ((s.orReg (brdBase t + 4) 2).bump (brdBase t + 0xC) 1) eBoardCorr 1 t o r.boardCode
    | none => raise s eBoardCorr 2 p o r.boardCode
  | some .common =>
    let o := a - 0x10_0000_0000
    raise ((s.orReg (cbBase + 4) 2).bump (cbBase + 0xC) 1) eBoardCorr 5 (sliceOf o) o r.commonCode
  | some .hbm =>
    raise ((s.orReg (hbmBase + 8) 2).bump (hbmBase + 0x14) 1) eHbmCorr 4 (pseudoOf a) (a % 2 ^ 32)
      (a / 2 ^ 32 + r.hbmCode * 2 ^ 8)
  | none => s

/-- An uncorrectable word read: logged, counted, recorded when it is the first, and tainting by Table 13.4. -/
def eccUncorrectable (s : State) (w : Nat) (r : Requester) : State :=
  let a := 8 * w
  match siteOf a with
  | some (.board p) =>
    let o := (a - 2 ^ 48) % 0x200_0000
    match logicalOf s p with
    | some t =>
      let s := if s.flag (brdBase t + 4) 0 then s else
        (s.setFld (brdBase t + 4) 7 4 r.boardCode).setReg (brdBase t + 8) (BitVec.ofNat 32 o)
      let s := (s.orReg (brdBase t + 4) 1).bump (brdBase t + 0x10) 1
      let s := raise s eBoardUncorr 1 t o r.boardDetail
      if r.boardCode < 10 then taintTile s t else s
    | none => raise s eBoardUncorr 2 p o r.boardDetail
  | some .common =>
    let o := a - 0x10_0000_0000
    let s := if s.flag (cbBase + 4) 0 then s else
      (s.setFld (cbBase + 4) 8 4 r.commonCode).setReg (cbBase + 8) (BitVec.ofNat 32 o)
    let s := (s.orReg (cbBase + 4) 1).bump (cbBase + 0x10) 1
    let s := raise s eBoardUncorr 5 (sliceOf o) o r.commonCode
    if r = .scrubber then s
    else match bufferOwner s o with
      | some c => taintCarrier s c
      | none => (importedCarriers s).foldl taintCarrier s
  | some .hbm =>
    let s := if s.flag (hbmBase + 8) 0 then s else
      (s.setFld (hbmBase + 8) 12 8 r.hbmCode).setReg64 (hbmBase + 0xC) a
    let s := (s.orReg (hbmBase + 8) 1).bump (hbmBase + 0x18) 1
    let s := raise s eHbmUncorr 4 (pseudoOf a) (a % 2 ^ 32) (a / 2 ^ 32 + r.hbmCode * 2 ^ 8)
    match r with
    | .slide e => if e < 16 then taintTile s e else s
    | _ => s
  | none => s

/-- What one ECC word with an error does to a read of it: a single-bit error is corrected and its write-back queued
(R195); an uncorrectable one is reported and stays (R196). -/
def eccMet (r : Requester) (s : State) (w : Nat) : State :=
  match s.eccOf w with
  | 0 => s
  | 1 =>
    let s := eccCorrected s w r
    if s.writebacks.any (·.1 = w) then s else { s with writebacks := s.writebacks ++ [(w, s.readBytes (8 * w) 8)] }
  | _ => eccUncorrectable s w r

/-- The words with an error among those that [a, a+n) touches. -/
def eccTouched (s : State) (a n : Nat) : List Nat :=
  if n = 0 then [] else (s.ecc.filter fun e => a / 8 ≤ e.1 && e.1 ≤ (a + n - 1) / 8).map (·.1)

/-- A read of n bytes at a store address: the bytes as stored, and the effects of the errors it meets. -/
def memRead (s : State) (a n : Nat) (r : Requester) : List Byte × State :=
  (s.readBytes a n, (eccTouched s a n).foldl (eccMet r) s)

/-- SSTRIDE in bytes (R280). -/
def sstride (nprb : Nat) : Nat := (48 * nprb + 511) / 512 * 512

/-- The carrier-buffer region 0 or 2 of a resident job that holds a common-board offset. -/
def samplePlace (s : State) (o : Nat) : Option Placement :=
  (List.range 4).findSome? fun k => (s.job k).image.places.find? fun p =>
    p.carrier && (p.region = 0 || p.region = 2) && p.off ≤ o && o < p.off + p.size

/-- The entry of region 0, or 64 on of region 2, that an offset of a sample region lies in (R281, R282). -/
def sampleEntry (s : State) (p : Placement) (o : Nat) : Nat :=
  let stream := if p.region = 0 then sstride (s.fld (carrierBase p.owner) 22 14) else 4096
  let e := (o - p.off) / max 1 (s.fld (carrierBase p.owner) 13 8 * stream)
  if p.region = 0 then e else 64 + e

/-- Whether a common-board offset lies in an entry whose symbol-arrival tally has not been signalled since it was
written, or whose symbol no plan scheduled (R23, R24; log entry 90). -/
def unannounced (s : State) (o : Nat) : Bool :=
  match samplePlace s o with
  | some p => !tget (fun _ => false) (s.carrier p.owner).ready (sampleEntry s p o)
  | none => false

/-- A read of n bytes for their value: bytes of carrier-buffer entries not announced are free values (R24). -/
def dataRead (s : State) (a n : Nat) (r : Requester) : List Byte × State :=
  let (l, s) := memRead s a n r
  match siteOf a with
  | some .common =>
    let o := a - 0x10_0000_0000
    if (List.range n).any fun i => unannounced s (o + i) then
      (l.mapIdx fun i b => if unannounced s (o + i) then Config.freeByte (s.free + i) else b, s.drawFree n)
    else (l, s)
  | _ => (l, s)

/-- Whether [a, a+n) covers the whole of ECC word w. -/
def covers (a n w : Nat) : Bool := a ≤ 8 * w && 8 * w + 8 ≤ a + n

/-- Bytes written from a store address on, but for those of a word that `skip` picks. -/
def writeSkipping (s : State) (skip : Nat → Bool) : Nat → List Byte → State
  | _, [] => s
  | a, b :: r => writeSkipping (if skip (a / 8) then s else s.setByte a b) skip (a + 1) r

/-- Array and rod commands (R95): whether a write is one of theirs, and by which queue. -/
def Requester.isCommand : Requester → Option Bool
  | .tileUnit k _ => if k = 3 then some true else if k = 7 ∨ k = 8 then some false else none
  | _ => none

/-- n board bytes of tile t from offset o on are about to be written: by a command, what stood there stays what its digit
core reads until an AWAIT or RWAIT has counted it (R95); by another requester, the core reads the new bytes. -/
def markUnseen (s : State) (t o n : Nat) (r : Requester) : State :=
  let c := s.core t
  match r.isCommand with
  | none => if c.unseen.isEmpty then s else s.setCore t { c with unseen := tclear c.unseen o (o + n) }
  | some rod =>
    if c.status = .idle || c.status = .halted then s
    else s.setCore t { c with unseen := (List.range n).foldl (fun u i =>
      let l := tget (fun _ => []) u (o + i)
      tset (fun _ => []) u (o + i) (l ++ [(s.byte (s.boardStore t (o + i)), rod)])) c.unseen }

/-- The digit core whose board a write reaches learns of it. -/
def unseenWrite (s : State) (a n : Nat) (r : Requester) : State :=
  match siteOf a with
  | some (.board p) => match logicalOf s p with
    | some t => markUnseen s t ((a - 2 ^ 48) % 0x200_0000) n r
    | none => s
  | _ => s

/-- A write that meets the words `bad`, those with an error (R195, R196): it clears the error of a word that it covers
whole, corrects a single-bit error of another and merges its bytes, leaves an uncorrectable word that it covers in part
as it is, and drops the write-backs of the words it changes. `put` stores the bytes, but for those of a word that its
argument picks. -/
def eccMerge (s : State) (bad : List Nat) (whole : Nat → Bool) (r : Requester) (put : (Nat → Bool) → State → State) :
    State :=
  let stuck := bad.filter fun w => s.eccOf w = 2 && !whole w
  let fixed := bad.filter fun w => s.eccOf w = 1 && !whole w
  let s := fixed.foldl (fun s w => eccCorrected s w r) s
  let s := put (stuck.contains ·) s
  let s := (bad.filter fun w => !stuck.contains w).foldl (fun s w => s.setEcc w 0) s
  { s with writebacks := s.writebacks.filter fun x => !(bad.contains x.1 && !stuck.contains x.1) }

/-- A write of bytes at a store address. -/
def memWrite (s : State) (a : Nat) (bs : List Byte) (r : Requester) : State :=
  let n := bs.length
  let s := unseenWrite s a n r
  let bad := eccTouched s a n
  if bad.isEmpty then s.writeBytes a bs
  else eccMerge s bad (covers a n) r fun skip s => writeSkipping s skip a bs

/-- The (address, byte) pairs of a masked write, but for those of a word that `skip` picks. -/
def writePairs (s : State) (skip : Nat → Bool) (l : List (Nat × Byte)) : State :=
  l.foldl (fun s e => if skip (e.1 / 8) then s else s.setByte e.1 e.2) s

/-- A write under a byte mask, as one write: (address, byte) pairs. Bytes of one ECC word are merged into it together
(R188). -/
def memWriteMasked (s : State) (l : List (Nat × Byte)) (r : Requester) : State :=
  let s := l.foldl (fun s e => unseenWrite s e.1 1 r) s
  let bad := (s.ecc.map (·.1)).filter fun w => l.any fun e => e.1 / 8 = w
  eccMerge s bad (fun w => (List.range 8).all fun i => l.any fun e => e.1 = 8 * w + i) r fun skip s => writePairs s skip l

/-! ### Scrubbing (R197, R200, R202) -/

/-- What nature does to a word before a scrub read meets it: a single-bit error, which the stored code corrects, or an
uncorrectable change, after which the word holds unknown bits (log entry 3). -/
def upset (s : State) (w : Nat) (double : Bool) : State :=
  if double then
    let s := s.writeBytes (8 * w) (s.freeBytes 8)
    (s.drawFree 8).setEcc w 2
  else if s.eccOf w = 0 then s.setEcc w 1 else s

/-- An upset in a unit of `words` ECC words from store address a on. -/
def applyUpset (s : State) (a words : Nat) : Upset → State
  | .none => s
  | .single k => if k < words then upset s (a / 8 + k) false else s
  | .double k => if k < words then upset s (a / 8 + k) true else s

/-- The next unit of scrubber b. -/
def scrubPos (s : State) (b : Nat) : Nat := tget (fun _ => 0) s.scrub b

/-- Scrubber b moved on, wrapping after `n` units. -/
def scrubNext (s : State) (b n : Nat) : State :=
  { s with scrub := tset (fun _ => 0) s.scrub b ((scrubPos s b + 1) % n) }

/-- One scrub read of a board of `lines` 128-byte lines at store address `base`. -/
def scrubLine (s : State) (b base lines : Nat) (u : Upset) : State :=
  let a := base + 128 * (scrubPos s b % lines)
  let s := applyUpset s a 16 u
  scrubNext (memRead s a 128 .scrubber).2 b lines

/-- BOARD_SCRUB_READ. -/
def boardScrubRead (s : State) (b : Board) (u : Upset) : State :=
  match b with
  | .tile t => if s.flag (brdBase t) 0 then scrubLine s (s.physOf t) (s.boardStore t 0) 147456 u else s
  | .spare =>
    match s.spare with
    | some p => scrubLine s p (physStore p 0) 147456 u
    | none => s
  | .common => if s.flag cbBase 0 then scrubLine s 17 (commonStore 0) 786432 u else s

/-- BOARD_SCRUB_READ (R197, R200). -/
def execBoardScrubRead (b : Board) (u : Upset) (s : State) : Host.Outcome State Fault Refusal :=
  .next (s.act fun s => boardScrubRead s b u)

/-- HBM_SCRUB_READ (R202): the next 64 B unit of a pseudo-channel. -/
def hbmScrubRead (s : State) (p : Nat) (u : Upset) : State :=
  if s.flag hbmBase 0 then
    let a := hbmAddr p (64 * (scrubPos s (18 + p) % 0xC0_0000))
    let s := applyUpset s a 8 u
    scrubNext (memRead s a 64 .scrubber).2 (18 + p) 0xC0_0000
  else s

def execHbmScrubRead (pc : Fin 32) (u : Upset) (s : State) : Host.Outcome State Fault Refusal :=
  .next (s.act fun s => hbmScrubRead s pc u)

/-- BOARD_ECC_WRITEBACK (R195): the oldest waiting write-back wins its port. -/
def eccWriteback (s : State) : State :=
  match s.writebacks with
  | [] => s
  | (w, bs) :: r => { (s.writeBytes (8 * w) bs).setEcc w 0 with writebacks := r }

def execBoardEccWriteback (s : State) : Host.Outcome State Fault Refusal := .next (s.act eccWriteback)

/-! ### Refresh and retraining (R203, R204, R381) -/

/-- HBM_REFRESH: a bank refreshed. Refresh keeps what the bank holds and R203 gives it no other effect than the wait
of an access to that bank, which is timing (log entry 20). -/
def hbmRefresh (s : State) (_pc : Fin 32) (_bank : Fin 48) : State := s

def execHbmRefresh (pc : Fin 32) (bank : Fin 48) (s : State) : Host.Outcome State Fault Refusal :=
  .next (s.act fun s => hbmRefresh s pc bank)

/-- Beats in one second. -/
def beatsPerSecond : Nat := 1250000000

/-- A training failure of pseudo-channel p logged (R381): fatal when `fatal`. -/
def trainFailure (s : State) (p : Nat) (fatal : Bool) : State :=
  raise s (if fatal then eHbmUncorr else eHbmCorr) 4 p 0 (2 ^ 31)

/-- Bit p of HBM_TRAIN_FAIL becomes 1 (R204): R381 logs it, and a fatal entry too within 1 s of the bit's last clearing.
-/
def trainFailed (s : State) (p : Nat) : State :=
  let s := s.orReg (hbmBase + 0x1C) (BitVec.ofNat 32 (2 ^ p))
  let again := match tget (fun _ => none) s.integ.trainCleared p with
    | some c => decide (s.counter.toNat < c + beatsPerSecond)
    | none => false
  let s := trainFailure s p false
  if again then trainFailure s p true else s

/-- HBM_RETRAIN_WINDOW (R204): the next pseudo-channel's window, unless RETRAIN_PERIOD is 0; it closes in the next beat
(R204 bounds it from above only; log entry 84). -/
def hbmRetrainWindow (s : State) (ok : Bool) : State :=
  if s.fld hbmBase 23 16 = 0 then s
  else
    let p := s.integ.trainNext % 32
    let f := if ok then 0 else tget (fun _ => 0) s.integ.trainFails p + 1
    let s := s.setFld (hbmBase + 4) 7 2 (2 * p + 1)
    let s := s.onInteg fun g => { g with trainNext := (p + 1) % 32, trainFails := tset (fun _ => 0) g.trainFails p f }
    if 3 ≤ f ∧ !s.flag (hbmBase + 0x1C) p then trainFailed s p else s

def execHbmRetrainWindow (ok : Bool) (s : State) : Host.Outcome State Fault Refusal := .next (s.act fun s => hbmRetrainWindow s ok)

/-- A beat closes the retraining window that is open (Table 7.6). -/
def windowBeat (s : State) : State := if s.flag (hbmBase + 4) 2 then s.setFld (hbmBase + 4) 2 2 0 else s

/-- HBM_EXTRA_RETRAIN (R381): on a pseudo-channel whose bit is set. -/
def hbmExtraRetrain (s : State) (p : Nat) (ok : Bool) : State :=
  if !s.flag (hbmBase + 0x1C) p then s
  else if ok then
    let s := s.setFld (hbmBase + 0x1C) p p 0
    s.onInteg fun g => { g with
      trainFails := tset (fun _ => 0) g.trainFails p 0,
      trainCleared := tset (fun _ => none) g.trainCleared p (some s.counter.toNat) }
  else trainFailure s p true

def execHbmExtraRetrain (pc : Fin 32) (ok : Bool) (s : State) : Host.Outcome State Fault Refusal :=
  .next (s.act fun s => hbmExtraRetrain s pc ok)

end Sys2Proof.Machine
end

