-- ==== Sys2Proof/Machine/PeerPort.lean ====
section
/-! DEFINITION. PeerPort.lean: the sending side of the bridge port: link state, credit pools and KIND 3 operations
(R398, R402, R403, R406, Table 14.3). -/

namespace Sys2Proof.Machine

/-- BR_STATUS.STATE: 0 DOWN, 1 TRAINING, 2 UP, 3 RETRAIN (Table 14.5). -/
def bridgeState (s : State) : Nat := s.fld (brBase + 4) 2 0
def bridgeUp (s : State) : Bool := bridgeState s = 2

/-- Whether traffic of slot k's job may be sent: the link is UP, and no recall of another slot waits (R264, R407). -/
def bridgeOpen (s : State) (k : Nat) : Bool := bridgeUp s && s.bridge.recallPending.all (· = k)

/-- The number of a traffic class (Table 14.3). -/
def classNo : FlitClass → Nat
  | .ctl => 0 | .req => 1 | .rsp => 2 | .sig => 3

/-- A resident slot's number in a message. -/
def slotNo (k : Nat) : Fin 4 := ⟨k % 4, Nat.mod_lt k (by decide)⟩

/-- The key of a pool: CTL is device-wide, the others are per resident slot. -/
def poolKey (c : FlitClass) (slot : Nat) : Nat := match c with
  | .ctl => 0
  | c => 4 * classNo c + slot

/-- The size of a pool (Table 14.3). -/
def poolSize : FlitClass → Nat
  | .ctl => 64 | .req => 112 | .rsp => 112 | .sig => 16

/-- Credits held from the peer for a pool. -/
def creditsOf (s : State) (c : FlitClass) (slot : Nat) : Nat := tget (fun _ => 0) s.bridge.credits (poolKey c slot)
def setCredits (s : State) (c : FlitClass) (slot n : Nat) : State :=
  s.onBridge fun b => { b with credits := tset (fun _ => 0) b.credits (poolKey c slot) n }

/-- A flit sent, spending one credit of its pool (R402). -/
def spendCredit (s : State) (c : FlitClass) (slot : Nat) : State :=
  (setCredits s c slot (creditsOf s c slot - 1)).bump (brBase + 0x40) 1

/-- The own buffer's free and ungranted flits once a flit has left: the credits that it returns are granted again, those
of the CTL pool with every CTL flit (log entry 94). -/
def freeAfter (f : Tab Nat) (cls : FlitClass) (m : Sent) : Tab Nat :=
  let f := match m with
    | .creditReturn c k n => tset (fun _ => 0) f (poolKey c k) (tget (fun _ => 0) f (poolKey c k) - n)
    | _ => f
  if cls = .ctl then tset (fun _ => 0) f (poolKey .ctl 0) 0 else f

/-- A flit leaves, when the link is UP, its pool has a credit and no earlier flit of the pool waits; otherwise it waits
(R402). -/
def sendFlit (s : State) (cls : FlitClass) (slot : Nat) (m : Sent) : State :=
  let first := s.bridge.txQ.all fun x => poolKey x.1 x.2.1 ≠ poolKey cls slot
  if bridgeUp s && 1 ≤ creditsOf s cls slot && first then
    ((spendCredit s cls slot).send m).onBridge fun b => { b with free := freeAfter b.free cls m }
  else s.onBridge fun b => { b with txQ := b.txQ ++ [(cls, slot, m)] }

/-- Waiting flits sent as far as credits allow, each pool in order. -/
def flushFlits (s : State) : State :=
  s.bridge.txQ.foldl (fun s x => sendFlit s x.1 x.2.1 x.2.2) (s.onBridge fun b => { b with txQ := [] })

/-- The oldest KIND 3 operation whose traffic may be sent, and whose pool has a credit, sent. -/
def sendSignal (s : State) : State :=
  match s.bridge.sigQ.find? fun x => bridgeOpen s x.1 && 1 ≤ creditsOf s .sig x.1 with
  | some (slot, h, sub, a) =>
    let s := spendCredit (s.onBridge fun b => { b with sigQ := b.sigQ.erase (slot, h, sub, a) }) .sig slot
    s.send (.peerSignal slot h sub a)
  | none => s

/-- Flits of the own REQ buffer of slot k that are free and ungranted, n of them, granted to the peer again (R407). -/
def grantAgain (s : State) (k n : Nat) : State :=
  if n = 0 then s
  else
    let s := s.onBridge fun b => { b with free := tset (fun _ => 0) b.free (poolKey .req k) 0 }
    sendFlit s .ctl 0 (.peerCtl (.grant (slotNo k) n))

/-- Waiting KIND 3 operations sent as far as credits allow. -/
def flushSignals (s : State) : State := s.forEach s.bridge.sigQ.length fun s _ => sendSignal s

/-- A SIGNAL or SUB by the RUNNING job on tally n is sent to the peer when the tally is of KIND 3 (R406). -/
def shareOperation (s : State) (n : Nat) (sub : Bool) (a : Word) : State :=
  match s.tileSlot with
  | some k =>
    let h := n - (s.job k).image.nsBase
    match (s.job k).image.tallies[h]? with
    | some d =>
      if d.kind = 3 then
        flushSignals (s.onBridge fun b => { b with sigQ := b.sigQ ++ [(k, h, sub, a)] })
      else s
    | none => s
  | none => s

end Sys2Proof.Machine
end

