-- ==== Sys2Proof/Machine/JobEvents.lean ====
section
/-! DEFINITION. JobEvents.lean: how the RUNNING job ends or faults, and the completion entries of job commands
(R251, R255, Table 9.9). -/

namespace Sys2Proof.Machine

/-- Job states as JOB_SLOTn_STATUS codes them (Table 9.15). -/
def jobStateCode : JobState → Nat
  | .empty => 0 | .loaded => 1 | .bound => 2 | .running => 3 | .preempted => 4 | .ended => 5 | .faulted => 6

/-- The fields of Table 9.9. -/
structure JobBody where
  cmdStatus : Nat := 0
  bindStatus : Nat := 0
  job : Nat := 0
  detail : Nat := 0
  state : Nat := 0
  slot : Nat := 0xFF
  cause : Nat := 0
  beats : Nat := 0
  time : Nat := 0
  deriving DecidableEq, Repr

/-- The 24 body bytes of Table 9.9, as words. -/
def JobBody.words (b : JobBody) : List Word :=
  [BitVec.ofNat 32 (b.cmdStatus % 256 + b.bindStatus % 256 * 2 ^ 8 + b.job % 2 ^ 16 * 2 ^ 16),
    BitVec.ofNat 32 b.detail,
    BitVec.ofNat 32 (b.state % 256 + b.slot % 256 * 2 ^ 8 + b.cause % 256 * 2 ^ 16),
    BitVec.ofNat 32 b.beats, loWord b.time, hiWord b.time]

/-- A job completion entry on ring 0 (R255, R449). -/
def postJob (s : State) (code htag : Nat) (b : JobBody) : State :=
  cplPost s { ring := 0, code := code, htag := htag, body := b.words }

/-- A tile whose job leaves RUNNING before all its tasks have ended: its core IDLE with empty queues, no pass in
flight, and its slide channels with no descriptor (R251: the tiles are then idle; log entry 13). RRB and the summary
queue keep what they hold (R501), and a tile halt of the host stands (R477). -/
def idleTile (s : State) (t : Nat) : State :=
  let c := s.core t
  let s := s.setCore t { c with
    status := .idle, stallCause := 0, rep := none, delay := none, hazards := [], irq := c.irq &&& 1, holdoff := [],
    holdoffLogged := 0, heldBy := none, arrayQ := [], rodQ := [], slideQ := [], waitOn := none, signals := [],
    unseen := [], fetchWait := 0, fetched := none }
  let s := s.setArray t { s.array t with passes := [], quickSum := [] }
  s.forEach 32 fun s ch => s.setChan t ch {}

/-- BR_LS_STATUS.STATE: 0 OFF, 1 WAITING, 2 COMPARING, 3 DIVERGED, 4 BROKEN, 5 REFUSED (Table 14.7). -/
def lsState (s : State) : Nat := s.fld (brBase + 0x14) 2 0
def setLsState (s : State) (st cause : Nat) : State :=
  (s.setFld (brBase + 0x14) 2 0 st).setFld (brBase + 0x14) 11 8 cause

/-- Whether lock-step has begun and not stopped. -/
def lsBegun (s : State) : Bool := lsState s = 2 || lsState s = 3

/-- Lock-step that has begun stops here with STATE BROKEN (R415). -/
def lsStop (s : State) : State := if lsBegun s then s.setFld (brBase + 0x14) 2 0 4 else s

/-- Lock-step that has begun stops with STATE BROKEN on both chips: the peer is told on CTL (R415; log entry 104). -/
def lsBreak (s : State) : State :=
  if lsBegun s then lsStop (if bridgeUp s then sendFlit s .ctl 0 (.peerCtl (.lockstepEnd false)) else s) else s

/-- Slot k's job ends, faults or is unloaded: lock-step stops where it is that job's. -/
def lsLeaves (s : State) (k : Nat) : State := if s.bridge.lsSlot = some k then lsBreak s else s

/-- The RUNNING job of slot k leaves RUNNING for ENDED or FAULTED without a command: a JOB_EVENT reports it (R251,
R255). A fault stops the tiles; after an end their cores are IDLE already, and the commands they issued complete
(R501). -/
def jobLeaves (s : State) (k : Nat) (st : JobState) (cause detail : Nat) : State :=
  let j := s.job k
  let s := s.setJob k { j with state := st, endDetail := BitVec.ofNat 32 detail }
  let s := lsLeaves (if st = .ended then s else s.forEach 16 idleTile) k
  postJob s 0x14 0 {
    job := j.number, detail := detail, state := jobStateCode st, slot := k, cause := cause, time := s.nsOf 0 }

/-- A job-level error of the RUNNING job (JOB_EVENT CAUSE 2; R251). -/
def jobError (s : State) (code : Nat) : State :=
  match s.runningSlot with
  | some k => jobLeaves s k .faulted 2 code
  | none => s

/-- A job-level error of slot k's job while it does not run: FAULTED, its contexts dropped, and reported (R251). -/
def absentError (s : State) (k code : Nat) : State :=
  let j := s.job k
  let s := lsLeaves (s.setJob k { j with state := .faulted, contexts := [], endDetail := BitVec.ofNat 32 code }) k
  postJob s 0x14 0 {
    job := j.number, detail := code, state := jobStateCode .faulted, slot := k, cause := 2, time := s.nsOf 0 }

/-- A divergence with ACTION 1: the job in lock-step enters FAULTED, a pre-empted one too (R414). -/
def lsFault (s : State) : State :=
  match s.bridge.lsSlot with
  | none => s
  | some k => match (s.job k).state with
    | .running => jobLeaves s k .faulted 2 eDiverge
    | .preempted => absentError s k eDiverge
    | _ => s

/-- FAULT_INSTRUCTION (R251): the RUNNING job ends in FAULTED, its operand reported. -/
def faultInstruction (s : State) (operand : DWord) : State :=
  match s.runningSlot with
  | some k => jobLeaves s k .faulted 1 (operand.toNat % 2 ^ 32)
  | none => s

def execFaultInstruction (operand : DWord) (s : State) : Host.Outcome State Fault Refusal :=
  .next (s.act fun s => faultInstruction s operand)

/-- The logical tile of virtual tile v (R71): v mod min(VTILES, 16). -/
def tileOfV (vtiles v : Nat) : Nat := v % min (max vtiles 1) 16

/-- Whether the job runs a task on logical tile t. -/
def hasTask (b : BoundImage) (t : Nat) : Bool := b.tasks.any fun k => tileOfV b.vtiles k.vtile = t

/-- When every task of the RUNNING job has executed END, it enters ENDED (R251). -/
def checkEnded (s : State) : State :=
  match s.runningSlot with
  | some k =>
    let b := (s.job k).image
    if (List.range 16).all fun t => !hasTask b t || (s.core t).ended then jobLeaves s k .ended 0 0 else s
  | none => s

end Sys2Proof.Machine
end

