-- ==== Sys2Proof/Machine/Operands.lean ====
section
/-! DEFINITION. Operands.lean: the operand forms of the commands that wait in the device's queues: rod command words
(Table 6.3), array command words (Table 4.4), pass and Quick Sum descriptors (Tables 4.5, 4.8). -/

namespace Sys2Proof.Machine

/-- Whether [a, a+n) lies in a tile board (Table 1.5). -/
def onBoard (a n : Nat) : Bool := a + n ≤ boardSize

/-! ### Rod commands (Tables 6.3 and 6.4) -/

/-- A rod command word, by its fields. -/
structure RodCmd where
  op : Nat
  type : Nat
  vd : Nat
  va : Nat
  vb : Nat
  msk : Nat
  masked : Bool
  zero : Bool
  sat : Bool
  bscal : Bool
  depArr : Bool
  axis : Nat
  rmode : Nat
  stream : Nat
  post : Bool
  dtype : Nat
  /-- sb. -/
  sb : Nat
  word : Nat
  deriving DecidableEq, Repr

/-- The fields of a word. -/
def rodCmd (w : DWord) : RodCmd :=
  let n := w.toNat
  { op := slice n 63 58, type := slice n 57 54, vd := slice n 53 49, va := slice n 48 44, vb := slice n 43 39,
    msk := slice n 38 36, masked := n.testBit 35, zero := n.testBit 34, sat := n.testBit 33, bscal := n.testBit 32,
    depArr := n.testBit 31, axis := slice n 30 29, rmode := slice n 28 27, stream := slice n 26 22,
    post := n.testBit 21, dtype := slice n 20 17, sb := slice n 31 0, word := n }

/-- Bits [hi:lo] of a command word, as a mask. -/
def wordMask (hi lo : Nat) : Nat := (2 ^ (hi + 1 - lo) - 1) * 2 ^ lo

/-- Fields of a rod command, as masks of the word. -/
def mOp : Nat := wordMask 63 58 ||| wordMask 31 31
def mType : Nat := wordMask 57 54
def mVd : Nat := wordMask 53 49
def mVd3 : Nat := wordMask 51 49
def mVa : Nat := wordMask 48 44
def mVa3 : Nat := wordMask 46 44
def mVb : Nat := wordMask 43 39
def mVb3 : Nat := wordMask 41 39
def mMask : Nat := wordMask 38 35
def mMsk : Nat := wordMask 38 36
def mZero : Nat := wordMask 34 34
def mSat : Nat := wordMask 33 33
def mBscal : Nat := wordMask 32 32
def mAxis : Nat := wordMask 30 29
def mRound : Nat := wordMask 28 22
def mPost : Nat := wordMask 21 21
def mDtype : Nat := wordMask 20 17

/-- The bits of the word that an opcode uses (Table 6.4); none for a reserved opcode. DESIGN CHOICE (log entry 63): of a
field used in part (VB or VD of which three bits name a register) the other bits are an unused field, as are the bits of
sb beyond the operand, and a value of them is rod fault 8; R164 says only that a field an opcode does not use must be 0.
With BSCAL the whole of VB is used, and its upper bits are not looked at. -/
def rodUses (op : Nat) : Option Nat :=
  let el := mOp ||| mType ||| mVd ||| mVa ||| mMask ||| mZero
  let two := el ||| mVb ||| mBscal
  match op with
  | 0x00 => some (mOp ||| mType)
  | 0x01 => some (el ^^^ mVa ||| mVb3 ||| wordMask 24 0)
  | 0x02 => some (mOp ||| mType ||| mVa ||| mVb3 ||| mMask ||| wordMask 24 0)
  | 0x03 => some (mOp ||| mVd3 ||| wordMask 24 0)
  | 0x04 => some (mOp ||| mVa3 ||| wordMask 24 0)
  | 0x05 => some (mOp ||| mVd3 ||| wordMask 31 0)
  | 0x06 => some (mOp ||| wordMask 50 49 ||| wordMask 31 0)
  | 0x07 => some (mOp ||| wordMask 27 0)
  | 0x08 | 0x09 | 0x0A | 0x10 => some (two ||| mSat)
  | 0x0B | 0x0C | 0x11 | 0x12 | 0x13 | 0x14 => some two
  | 0x0D | 0x0E | 0x16 => some el
  | 0x0F => some (two ||| mRound)
  | 0x15 => some (el ||| mRound ||| mDtype)
  | 0x18 | 0x19 => some (mOp ||| mType ||| mVd3 ||| mVa ||| mVb ||| mBscal ||| mMask ||| mZero)
  | 0x1A | 0x1B | 0x1C => some (mOp ||| mVd3 ||| mVa3 ||| mVb3)
  | 0x1D => some (mOp ||| mVd3 ||| mVa3)
  | 0x1E => some (mOp ||| mVd3 ||| 1)
  | 0x20 => some (el ||| mSat ||| mAxis ||| mPost)
  | 0x21 | 0x22 => some (el ||| mAxis ||| mPost)
  | 0x23 | 0x24 => some (mOp ||| mType ||| mVa ||| mMask ||| mAxis ||| mPost)
  | 0x25 | 0x26 => some (mOp ||| mType ||| mMsk ||| mPost)
  | 0x28 | 0x29 => some (mOp ||| mType ||| mVd ||| mVa ||| mVb3 ||| mMsk ||| mZero ||| mPost)
  | 0x30 => some (el ||| mDtype)
  | 0x31 => some (el ||| mVb ||| mRound ||| mDtype)
  | 0x32 => some (el ||| mVb ||| mDtype)
  | _ => none

/-- Whether an opcode reads TYPE. -/
def rodTyped (op : Nat) : Bool :=
  op = 0 || op = 1 || op = 2 || (8 ≤ op && op ≤ 0x19) || 0x20 ≤ op

/-- The type a register is read in: int4 lives in the int8 view (Table 6.2). -/
def regElem : Elem → Elem
  | .int4 => .int8
  | t => t

/-- TYPE and DTYPE admitted by an opcode (Table 6.4, R171, R174, R179, R180). -/
def rodTypesOk (op : Nat) (t dt : Elem) : Bool :=
  let real := !t.complex && t != .int4
  match op with
  | 0x08 | 0x09 | 0x0A => t != .int4
  | 0x0B | 0x0C | 0x0D => real
  | 0x0E => t != .int4
  | 0x0F | 0x10 | 0x11 | 0x12 | 0x13 => !t.float && t != .int4
  | 0x15 => t != .int4 && dt != .int4
  | 0x18 => real
  | 0x19 => t != .int4
  | 0x20 | 0x21 | 0x22 | 0x23 | 0x24 => real
  | 0x30 => t != .int4 && dt == (if t.float then .fp32 else .int32)
  | 0x31 => (t.float || t == .int32) && [.int4, .int8, .uint8, .int16, .cint8, .cint16].contains dt
  | 0x32 => dt.float && [.int4, .int8, .uint8, .int16, .cint8, .cint16].contains t
  | _ => true

/-- Entries that a command posts (Table 6.5). -/
def rodPosts (c : RodCmd) : Nat :=
  match c.op with
  | 0x20 | 0x21 | 0x22 => if c.post && c.axis = 2 then 1 else 0
  | 0x23 | 0x24 => 2
  | 0x25 | 0x26 => 1
  | 0x28 | 0x29 => if c.post then 1 else 0
  | _ => 0

/-- Cause 8 of Table 6.7: a reserved opcode, type, axis or rounding mode, a type not admitted, or an unused field not
0. DRAWSET with VD[1:0] 3, which names nothing, is among them. -/
def rodBad (c : RodCmd) : Bool :=
  match rodUses c.op with
  | none => true
  | some m =>
    (c.word &&& (2 ^ 64 - 1 - m)) != 0 ||
    (c.op == 6 && c.vd == 3) ||
    (c.op == 7 && !c.sb.testBit 27 && slice c.sb 26 25 != 0) ||
    ((m &&& mAxis) == mAxis && c.axis == 3 && 0x20 ≤ c.op) ||
    ((c.op == 0x23 || c.op == 0x24) && c.axis != 2) ||
    ((m &&& mRound) == mRound && c.rmode == 3 && 8 ≤ c.op) ||
    (rodTyped c.op && match elemOfRod c.type with
      | none => true
      | some t =>
        if (m &&& mDtype) == mDtype && 8 ≤ c.op then
          match elemOfRod c.dtype with
          | none => true
          | some dt => !rodTypesOk c.op t dt
        else !rodTypesOk c.op t t)

/-- A CVT from a floating to an integer type, which is the one that can consume draws (R148). -/
def floatToInteger (c : RodCmd) : Bool :=
  (elemOfRod c.type).any (·.float) && (elemOfRod c.dtype).any (!·.float)

/-- Whether a command consumes draws when RMODE is 2 (R148, R168). -/
def rodStochastic (c : RodCmd) : Bool := (c.op = 0x0F || c.op = 0x31 || c.op = 0x15 && floatToInteger c) && c.rmode = 2

/-! ### Array commands (Table 4.4) -/

def arrPart (w : DWord) : Nat := slice w.toNat 63 62
def arrDepRod (w : DWord) : Bool := w.toNat.testBit 61
def arrDepArr (w : DWord) : Bool := w.toNat.testBit 60
def arrDesc (w : DWord) : Nat := slice w.toNat 24 0
/-- Reserved bits of the word, and the low bits of DESC, are 0. -/
def arrReservedOk (w : DWord) : Bool := slice w.toNat 59 25 = 0 && slice w.toNat 5 0 = 0

/-! ### Pass descriptors (Table 4.5) -/

/-- A pass descriptor, by its fields. -/
structure PassDesc where
  aAddr : Nat
  aStride : Nat
  bAddr : Nat
  bStride : Nat
  dAddr : Nat
  dStride : Nat
  k : Nat
  za : Int
  zb : Int
  optype : Nat
  ta : Bool
  tb : Bool
  step : Nat
  dtype : Nat
  dRod : Bool
  rows : Nat
  cols : Nat
  shift : Nat
  mode : Nat
  stream : Nat
  tag : Nat
  drawBase : Nat
  drawRstride : Nat
  reservedOk : Bool
  deriving DecidableEq, Repr

/-- The 64 bytes of a pass descriptor read (Table 4.5). -/
def passDesc (l : List Byte) : PassDesc :=
  let op := field l 0x20 1
  let dt := field l 0x22 1
  let dr := field l 0x25 1
  { aAddr := field l 0 4, aStride := field l 4 4, bAddr := field l 8 4, bStride := field l 0xC 4,
    dAddr := field l 0x10 4, dStride := field l 0x14 4, k := field l 0x18 3,
    za := signed 16 (field l 0x1C 2), zb := signed 16 (field l 0x1E 2), optype := op % 8,
    ta := op.testBit 3, tb := op.testBit 4, step := field l 0x21 1, dtype := dt % 4, dRod := dt.testBit 7,
    rows := field l 0x23 1, cols := field l 0x24 1, shift := dr % 64, mode := dr / 64, stream := field l 0x26 1,
    tag := field l 0x27 1, drawBase := field l 0x28 8, drawRstride := field l 0x30 4,
    reservedOk := field l 0x1B 1 = 0 && op < 32 && slice dt 6 2 = 0 && field l 0x34 12 = 0 }

/-- The element type of OPTYPE codes (Table 4.5). -/
def opElem : Nat → Option Elem
  | 0 => some .int8 | 1 => some .uint8 | 2 => some .int4 | 3 => some .cint8 | 4 => some .int16 | _ => none

/-- The element type of DTYPE codes (Table 4.5). -/
def dElem : Nat → Option Elem
  | 0 => some .int8 | 1 => some .int16 | 2 => some .int32 | _ => none

/-! ### Quick Sum descriptors (Table 4.8) -/

/-- A Quick Sum descriptor, by its fields. -/
structure QsDesc where
  wAddr : Nat
  wStride : Nat
  xAddr : Nat
  dAddr : Nat
  n : Nat
  k : Nat
  zw : Int
  zx : Int
  optype : Nat
  ta : Bool
  dtype : Nat
  dRod : Bool
  shift : Nat
  mode : Nat
  stream : Nat
  tag : Nat
  drawBase : Nat
  reservedOk : Bool
  deriving DecidableEq, Repr

/-- The 64 bytes of a Quick Sum descriptor read (Table 4.8). -/
def qsDesc (l : List Byte) : QsDesc :=
  let op := field l 0x1A 1
  let dt := field l 0x1B 1
  let dr := field l 0x1C 1
  { wAddr := field l 0 4, wStride := field l 4 4, xAddr := field l 8 4, dAddr := field l 0xC 4,
    n := field l 0x10 4, k := field l 0x14 2, zw := signed 16 (field l 0x16 2), zx := signed 16 (field l 0x18 2),
    optype := op % 4, ta := op.testBit 2, dtype := dt % 4, dRod := dt.testBit 7, shift := dr % 64, mode := dr / 64,
    stream := field l 0x1D 1, tag := field l 0x1E 1, drawBase := field l 0x20 8,
    reservedOk := op < 8 && slice dt 6 2 = 0 && field l 0x1F 1 = 0 && field l 0x28 24 = 0 }

/-! ### Where a command drains to (R117, R136) -/

/-- Whether the step writes D, its parts per element and the part it writes (R117). -/
def stepWrites (step : Nat) : Bool := [0, 2, 3, 5, 7, 11].contains step
def stepParts (step : Nat) : Nat := if [2, 3, 5, 7].contains step then 2 else 1
def stepPart (step : Nat) : Nat := if step = 3 ∨ step = 7 then 1 else 0

/-- Bytes of one part of DTYPE. -/
def dBytes (dtype : Nat) : Nat := 2 ^ dtype

/-- Board offset of block element (r, c) (R117). -/
def drainAddr (d : PassDesc) (r c : Nat) : Nat :=
  d.dAddr + r * d.dStride + c * stepParts d.step * dBytes d.dtype + stepPart d.step * dBytes d.dtype

/-- Whether an array or Quick Sum command in flight drains to board offset a. -/
def drainsTo (x : PassInFlight) (a : Nat) : Bool :=
  if x.cmd.quickSum then
    let d := qsDesc x.desc
    !d.dRod && d.dAddr ≤ a && a < d.dAddr + d.n * dBytes d.dtype
  else
    let d := passDesc x.desc
    !d.dRod && stepWrites d.step && (List.range d.rows).any fun r => (List.range d.cols).any fun c =>
      drainAddr d r c ≤ a && a < drainAddr d r c + dBytes d.dtype

/-! ### Slide descriptors (Table 8.2) -/

/-- The 64 bytes of a slide descriptor read (Table 8.2); `no` is given at its acceptance and `bad` is left to
R215. -/
def slideDesc (l : List Byte) (addr : Nat) : SlideDesc :=
  let op := field l 0x2D 1
  let ct := field l 0x28 2
  let kt := field l 0x2A 2
  { addr := addr, src := field l 0 8, dst := field l 8 8, len0 := field l 0x10 3, n1 := field l 0x14 2,
    n2 := field l 0x16 2, sstr1 := signed 32 (field l 0x18 4), dstr1 := signed 32 (field l 0x1C 4),
    sstr2 := signed 32 (field l 0x20 4), dstr2 := signed 32 (field l 0x24 4), ringLen := field l 0x24 2,
    ctally := ct % 2 ^ 14, noCtally := ct.testBit 15, ktally := kt % 2 ^ 14, noKtally := kt.testBit 15,
    channel := field l 0x2C 1 % 32, cancel := op.testBit 0, stream := op.testBit 1, tag := field l 0x2E 1,
    chmask := field l 0x30 4, no := 0, bad := false }

/-- Bytes that a descriptor moves (R214). -/
def slideTotal (d : SlideDesc) : Nat := d.len0 * d.n1 * d.n2

/-- The reserved fields and ranges of R213 and R215, from the 64 bytes. -/
def slideFieldsOk (l : List Byte) (d : SlideDesc) : Bool :=
  let ct := field l 0x28 2
  let kt := field l 0x2A 2
  let common := field l 0x13 1 = 0 && !ct.testBit 14 && !kt.testBit 14 && field l 0x2C 1 < 32
    && field l 0x2D 1 < 4 && field l 0x2F 1 = 0 && field l 0x34 12 = 0
  if d.cancel then common
  else
    common && 1 ≤ d.len0 && 1 ≤ d.n1 && 1 ≤ d.n2 && d.chmask = 0
      && (if d.stream then
          d.dstr1 = 0 && field l 0x26 2 = 0 && 1 ≤ d.ringLen && slideTotal d % 512 = 0 && d.dst % 512 = 0
        else kt = 0x8000)

end Sys2Proof.Machine
end

