-- ==== Sys2Proof/Machine/DigitCore.lean ====
section
/-! DEFINITION. DigitCore.lean: the digit core of a tile (The Digit Core): issue, result distances, waiting, illegal
operations, interrupts, and the native instructions of Table 3.9.

One command issues one instruction with the fields it carries; the core is in order and every instruction that leaves
D takes its whole effect in that step. What the exposed pipeline still shows, a read inside a result distance (R83)
and the order of writes (R84), is kept by the list `hazards`. -/

namespace Sys2Proof.Machine

/-! ### Registers as an instruction sees them -/

/-- Physical register of sN (R77). -/
def sIndex (c : DigitCore) (n : Nat) : Nat := if n < 16 then n else 16 + (n - 16 + c.rrb.toNat) % 16

/-- What a reader may see of a register: the new value, or for a producer too close in front (R83) the old one, as a
free choice decides (log entry 4). -/
def seenFrom (s : State) (salt : Nat) : Nat → List Hazard → Nat
  | cur, [] => cur
  | cur, h :: r => if Config.freeChoice (s.free + salt) then cur else seenFrom s (salt + 1) h.old r

/-- The value of `o`, now `cur`, as seen under the hazards of core t. -/
def seen (s : State) (t : Nat) (o : HazardOf) (cur salt : Nat) : Nat :=
  seenFrom s salt cur ((s.core t).hazards.filter (·.of = o))

/-- sN of core t as read. -/
def readS (s : State) (t n : Nat) (salt : Nat := 0) : Word :=
  let i := sIndex (s.core t) n
  BitVec.ofNat 32 (seen s t (.scalar i) (tget (fun _ => 0) (s.core t).s i).toNat salt)

/-- pN and qN of core t, as an address use or a post-modify reads them. -/
def readP (s : State) (t n : Nat) : Nat := seen s t (.address n) (tget (fun _ => 0) (s.core t).p n).toNat 16
def readQ (s : State) (t n : Nat) : DWord :=
  BitVec.ofNat 64 (seen s t (.mode n) (tget (fun _ => 0) (s.core t).q n).toNat 24)

/-- Beats from D to the beat at whose end a result lands (Table 3.2): a post-modify, an LD, a result of E1, one of E2, and
the bytes of an ST. -/
def inA : Nat := 1
def inM2 : Nat := 3
def inE1 : Nat := 4
def inE2 : Nat := 5
def inW : Nat := 6

/-- The oldest of the writes to `o` that are still to land replaces v. -/
def reviseOldest (o : HazardOf) (v : Nat) : List Hazard → List Hazard
  | [] => []
  | h :: r => if h.of = o && !r.any (·.of = o) then { h with old := v } :: r else h :: reviseOldest o v r

/-- `o`, now `cur`, written with v, promised from distance d on and landing in `lat` beats (Table 3.3, R84): the hazards
after it, and what `o` comes to hold. An earlier write that lands later remains, and v stands until then. -/
def landing (hs : List Hazard) (o : HazardOf) (cur v d lat : Nat) : List Hazard × Nat :=
  if hs.any fun h => h.of = o && lat < h.lands then
    (reviseOldest o v (hs.filter fun h => h.of ≠ o || lat < h.lands), cur)
  else (if d ≤ 1 then hs.filter (·.of ≠ o) else ⟨o, cur, d, lat⟩ :: hs, v)

/-- sN written. -/
def putS (s : State) (t n : Nat) (v : Word) (d : Nat := 1) (lat : Nat := inE1) : State :=
  let c := s.core t
  let i := sIndex c n
  let (hs, r) := landing c.hazards (.scalar i) (tget (fun _ => 0) c.s i).toNat v.toNat d lat
  s.setCore t { c with hazards := hs, s := tset (fun _ => 0) c.s i (BitVec.ofNat 32 r) }

/-- pN written. -/
def putP (s : State) (t n : Nat) (v : Nat) (d lat : Nat) : State :=
  let c := s.core t
  let (hs, r) := landing c.hazards (.address n) (tget (fun _ => 0) c.p n).toNat v d lat
  s.setCore t { c with hazards := hs, p := tset (fun _ => 0) c.p n (BitVec.ofNat 32 r) }

/-- A hazard noted of a register or byte whose writes all land in program order: it held `old`, and its new value is
promised from distance d on (Table 3.3). -/
def note (c : DigitCore) (o : HazardOf) (old d lat : Nat) : DigitCore :=
  { c with hazards := ⟨o, old, d, lat⟩ :: c.hazards }

/-- Accumulator n written. -/
def putAcc (s : State) (t n : Nat) (re im : BitVec 48) : State :=
  let c := s.core t
  let c' := note c (.accRe n) (tget (fun _ => 0) c.accRe n).toNat 2 inE2
  let c' := note c' (.accIm n) (tget (fun _ => 0) c.accIm n).toNat 2 inE2
  s.setCore t { c' with
    accRe := tset (fun _ => 0) c.accRe n re, accIm := tset (fun _ => 0) c.accIm n im }

/-! ### Issue -/

/-- How an instruction leaves D: done, and the core goes on to the next; moved, with the core's place already set
(REP); ended (END); waiting under a cause of Table 3.15; an illegal operation of Table 3.7; or a tally named outside the
namespace. -/
inductive DcResult
  | done (s : State)
  | moved (s : State)
  | ended (s : State)
  | wait (cause : Nat) (s : State)
  | illegal (n : Nat)
  | violation (tally : Nat)

/-- What an instruction may not stand in: nothing, a delay slot and a repeat body (branch class, REP, END), or a
repeat body (TWAIT) (R86, R88). -/
inductive DcKind | plain | branch | twait
  deriving DecidableEq, Repr

/-- Whether the instruction in D is held off (R99). -/
def heldOff (c : DigitCore) : Bool := c.delay.isSome || c.rep.isSome

/-- The words of a 64-byte line. -/
def lineWords (l : List Byte) : List Word := (List.range 16).map fun i => BitVec.ofNat 32 (field l (4 * i) 4)

/-- Whether the instruction in D comes from the repeat cache: in every iteration but the first (R89). -/
def fromRepeat (c : DigitCore) : Bool := match c.rep with
  | some r => r.iter ≠ 0
  | none => false

/-- Whether the fetch of the instruction in D misses: with ICACHE_EN 0, every one (R82). -/
def fetchMisses (s : State) (t : Nat) : Bool :=
  let c := s.core t
  !fromRepeat c && c.fetched.isNone &&
    (!s.flag (dcBase t) 0 || (tget (fun _ => []) c.icache (c.pc.toNat / 64)).isEmpty)

/-- Beats that an instruction-cache miss costs when the fill wins arbitration at once (R82). -/
def missBeats : Nat := 12

/-- The line of the instruction in D filled from the board, and its word kept. -/
def fillLine (s : State) (t : Nat) : State :=
  let line := (s.core t).pc.toNat / 64
  let (l, s) := memRead s (s.boardStore t (64 * line)) 64 (.tileUnit 6)
  let ws := lineWords l
  let c := s.core t
  s.setCore t { c with
    icache := if s.flag (dcBase t) 0 then tset (fun _ => []) c.icache line ws else c.icache,
    fetched := some (ws.getD (c.pc.toNat / 4 % 16) 0) }

/-- The word of the instruction in D, once it is fetched: from the repeat cache in later iterations, else from the
instruction cache or the line just filled (R82, R89). -/
def fetchedWord (s : State) (t : Nat) : Word :=
  let c := s.core t
  match c.rep with
  | some r => if r.iter ≠ 0 then c.repCache.getD r.posn 0 else fromLine c
  | none => fromLine c
where
  fromLine (c : DigitCore) : Word :=
    c.fetched.getD ((tget (fun _ => []) c.icache (c.pc.toNat / 64)).getD (c.pc.toNat / 4 % 16) 0)

/-- Beats pass at core t in which no instruction leaves D: writes on their way land (R84, R85). -/
def landBeats (s : State) (t n : Nat) : State :=
  let c := s.core t
  if c.hazards.isEmpty then s
  else s.setCore t { c with hazards := c.hazards.map fun h => { h with lands := h.lands - n } }

/-- The instruction in D fetched, with the beats that a miss costs charged to DC_STALL1 (R82, R105), and captured in the
repeat cache in the first iteration of a body. -/
def dcFetch (s : State) (t : Nat) : State :=
  let n := if fetchMisses s t then missBeats else (s.core t).fetchWait
  let s := if fetchMisses s t then fillLine s t else s
  let s := if n = 0 then s else landBeats (s.bump (dcBase t + 0x44) n) t n
  let w := fetchedWord s t
  let c := s.core t
  s.setCore t { c with
    fetchWait := 0, fetched := if fromRepeat c then c.fetched else some w,
    repCache := if c.rep.isSome && !fromRepeat c then c.repCache ++ [w] else c.repCache }

/-- The hazards after one more instruction has left D. -/
def ageHazards (l : List Hazard) : List Hazard :=
  (l.map fun h => { h with left := h.left - 1, lands := h.lands - 1 }).filter fun h => 1 ≤ h.left

/-- pc + 4k, in 25 bits. -/
def pcPlus (pc : BitVec 25) (k : Nat) : BitVec 25 := pc + BitVec.ofNat 25 (4 * k)

/-- Where the core goes after an instruction: on, back to the start of a repeat body, or to a branch target after its
second delay slot (R78, R86, R88). -/
def dcAdvance (c : DigitCore) : DigitCore :=
  match c.rep with
  | some r =>
    if r.posn + 1 < r.len then { c with rep := some { r with posn := r.posn + 1 }, pc := pcPlus c.pc 1 }
    else
      let c := if r.rot then { c with rrb := c.rrb - 1 } else c
      if r.more = 0 then { c with rep := none, pc := pcPlus c.pc 1 }
      else { c with rep := some { r with more := r.more - 1, iter := r.iter + 1, posn := 0 }, pc := r.start }
  | none =>
    match c.delay with
    | some d =>
      if d.left ≤ 1 then { c with delay := none, pc := d.target.getD (pcPlus c.pc 1) }
      else { c with delay := some { d with left := d.left - 1 }, pc := pcPlus c.pc 1 }
    | none => { c with pc := pcPlus c.pc 1 }

/-- An instruction has left D: the core runs on, and the hazards age. Free choices used are spent. -/
def dcSettle (s : State) (t : Nat) : State :=
  let c := s.core t
  let s := if c.hazards.isEmpty then s else s.drawFree 64
  s.setCore t { c with
    hazards := ageHazards c.hazards, status := .run, stallCause := 0, waitOn := none, fetchWait := 0, fetched := none,
    stirred := true }

/-- An instruction has left D with its effect, and the core goes on to the next. -/
def dcRetire (s : State) (t : Nat) : State := dcSettle (s.setCore t (dcAdvance (s.core t))) t

/-- END has left D: the core is IDLE, and the job ends with its last task (R251). -/
def dcFinish (s : State) (t : Nat) : State :=
  checkEnded (s.setCore t { s.core t with
    status := .idle, stallCause := 0, hazards := [], rep := none, delay := none, waitOn := none, fetchWait := 0,
    fetched := none, unseen := [], ended := true, stirred := true })

/-- The core halts at the instruction in D, which has no effect (R103). -/
def dcHalt (s : State) (t : Nat) : State :=
  let c := s.core t
  s.setCore t { c with
    status := .halted, stallCause := 0, hazards := [], waitOn := none, fetchWait := 0, fetched := none }

/-- An illegal operation (R103). -/
def dcIllegal (s : State) (t n : Nat) : State :=
  raise (dcHalt s t) eIllegalOp 1 t (s.core t).pc.toNat n

/-- A tally named outside the job's namespace (R245). -/
def dcViolation (s : State) (t n : Nat) : State :=
  raise (dcHalt s t) eNamespace 1 t (s.core t).pc.toNat n

/-- Why the instruction in D may not issue at all: illegal operations 0 to 2, the lowest number first where it meets
several (log entry 82). -/
def dcForbidden (c : DigitCore) (reserved : Bool) (kind : DcKind) : Option Nat :=
  if reserved then some 0
  else if kind = .branch ∧ c.delay.isSome then some 1
  else if kind ≠ .plain ∧ c.rep.isSome then some 2
  else none

/-- The core is in STATE RUN or STALL and no interrupt takes the place of the instruction in D (R100). -/
def dcReady (c : DigitCore) : Bool :=
  (c.status = .run || c.status = .stall) && (c.irq = 0 || heldOff c)

/-- The instruction in D of core t, with `run` for its own work (R83–R88, R99, R103). -/
def dcIssue (t : Nat) (reserved : Bool) (kind : DcKind) (run : State → DcResult) (s : State) : State :=
  s.act fun s =>
    let c := s.core t
    if !dcReady c then s
    else
      let s := if c.status = .run then dcFetch s t else s
      match dcForbidden c reserved kind with
      | some n => dcIllegal s t n
      | none =>
        match run s with
        | .done s' => dcRetire s' t
        | .moved s' => dcSettle s' t
        | .ended s' => dcFinish s' t
        | .wait k s' =>
          s'.setCore t { s'.core t with status := .stall, stallCause := k }
        | .illegal n => dcIllegal s t n
        | .violation n => dcViolation s t n

/-- An instruction with nothing to wait for. -/
def dcPlain (t : Nat) (reserved : Bool) (f : State → State) (s : State) : State :=
  dcIssue t reserved .plain (fun s => .done (f s)) s

/-! ### Scalar instructions (Table 3.9) -/

/-- sd = f sa sb, of format R with FUNC 0. -/
def dcAlu (t : Tile) (f : DcR) (op : Word → Word → Word) (s : State) : State :=
  dcPlain t (f.func ≠ 0)
    (fun s => putS s t f.sd.toNat (op (readS s t f.sa.toNat) (readS s t f.sb.toNat 4))) s

def dcAdd (t : Tile) (f : DcR) (s : State) : State := dcAlu t f (· + ·) s
def dcSub (t : Tile) (f : DcR) (s : State) : State := dcAlu t f (· - ·) s
def dcAnd (t : Tile) (f : DcR) (s : State) : State := dcAlu t f (· &&& ·) s
def dcOr (t : Tile) (f : DcR) (s : State) : State := dcAlu t f (· ||| ·) s
def dcXor (t : Tile) (f : DcR) (s : State) : State := dcAlu t f (· ^^^ ·) s

/-- Whether the fields a shift does not use are 0: with FUNC[10] the count is FUNC[4:0] and SB is unused. -/
def shiftReserved (f : DcR) : Bool :=
  if f.func.getLsbD 10 then f.func.toNat / 32 % 32 ≠ 0 || f.sb ≠ 0 else f.func ≠ 0

/-- sd = sa shifted by sb[4:0] or FUNC[4:0]. -/
def dcShift (t : Tile) (f : DcR) (op : Word → Nat → Word) (s : State) : State :=
  dcPlain t (shiftReserved f) (fun s =>
    let n := if f.func.getLsbD 10 then f.func.toNat % 32 else (readS s t f.sb.toNat 4).toNat % 32
    putS s t f.sd.toNat (op (readS s t f.sa.toNat) n)) s

def dcShl (t : Tile) (f : DcR) (s : State) : State := dcShift t f (fun a n => a <<< n) s
def dcShr (t : Tile) (f : DcR) (s : State) : State := dcShift t f (fun a n => a >>> n) s
def dcSar (t : Tile) (f : DcR) (s : State) : State := dcShift t f (fun a n => a.sshiftRight n) s

/-- NOP: every field 0. -/
def dcNop (t : Tile) (f : DcR) (s : State) : State :=
  dcPlain t (f.sd ≠ 0 || f.sa ≠ 0 || f.sb ≠ 0 || f.func ≠ 0) id s

/-- sd = sa + IMM. -/
def dcAddi (t : Tile) (f : DcI) (s : State) : State :=
  dcPlain t false (fun s => putS s t f.sd.toNat (readS s t f.sa.toNat + f.imm.signExtend 32)) s

/-- sd = (IMM << 16) | sa[15:0]. -/
def dcLui (t : Tile) (f : DcI) (s : State) : State :=
  dcPlain t false (fun s =>
    putS s t f.sd.toNat (BitVec.ofNat 32 (f.imm.toNat * 2 ^ 16 + (readS s t f.sa.toNat).toNat % 2 ^ 16))) s

/-- Condition bit n of core t set to v; B may see it from distance 5 on. -/
def putC (s : State) (t n : Nat) (v : Bool) : State :=
  let c := s.core t
  let c' := note c (.cond n) (b2n (c.c.getLsbD n)) 5 inE1
  s.setCore t { c' with c := if v then c.c ||| BitVec.ofNat 8 (2 ^ n) else c.c &&& ~~~(BitVec.ofNat 8 (2 ^ n)) }

/-- CMP: c[FUNC[2:0]] = relation FUNC[5:3] of sa, sb; relations 6 and 7 are reserved. -/
def dcCmp (t : Tile) (f : DcR) (s : State) : State :=
  let n := f.func.toNat % 8
  let k := f.func.toNat / 8 % 8
  dcPlain t (f.sd ≠ 0 || 64 ≤ f.func.toNat || 6 ≤ k) (fun s =>
    match relation k (readS s t f.sa.toNat) (readS s t f.sb.toNat 4) with
    | some v => putC s t n v
    | none => s) s

/-- MAXX and MINX (R93): the index is sb, or with FUNC[0] the iteration number. When sd and si are one register, which
of the two writes remains is a free choice (log entry 4). -/
def dcSearch (t : Tile) (f : DcR) (better : Word → Word → Bool) (s : State) : State :=
  let byIter := f.func.getLsbD 0
  let si := f.func.toNat / 64
  dcPlain t (f.func.toNat / 2 % 32 ≠ 0 || (byIter && f.sb ≠ 0)) (fun s =>
    let a := readS s t f.sa.toNat
    let d := readS s t f.sd.toNat 4
    let ix := if byIter then
        (match (s.core t).rep with
          | some r => BitVec.ofNat 32 r.iter
          | none => 0)
      else readS s t f.sb.toNat 8
    if better a d then
      if sIndex (s.core t) f.sd.toNat = sIndex (s.core t) si then
        (putS s t si (if Config.freeChoice (s.free + 12) then a else ix)).drawFree 64
      else putS (putS s t f.sd.toNat a) t si ix
    else s) s

def dcMaxx (t : Tile) (f : DcR) (s : State) : State := dcSearch t f (fun a d => d.slt a) s
def dcMinx (t : Tile) (f : DcR) (s : State) : State := dcSearch t f (fun a d => a.slt d) s

/-! ### Addresses and memory (R79, R80) -/

/-- Low n bits reversed. -/
def revBits (n v : Nat) : Nat := (List.range n).foldl (fun a i => a + b2n (v.testBit i) * 2 ^ (n - 1 - i)) 0

/-- The smallest power of two that is at least n. -/
def ceilPow2 (n : Nat) : Nat := if n ≤ 1 then 1 else 2 ^ (Nat.log2 (n - 1) + 1)

/-- pN after a post-modify (R79): INC 0 none, 1 +size, 2 −size, 3 +STEP; none when it is illegal. DESIGN CHOICE (log entry
82): of a bit-reversed field that reaches past bit 31 the pointer keeps the low 32 bits; R79 says nothing of one. -/
def postModify (p : Nat) (q : DWord) (size inc : Nat) : Option Nat :=
  if inc = 0 then some p
  else
    let w := q.toNat
    let mode := slice w 31 30
    let width := slice w 29 25
    let len := slice w 24 0
    let d : Int := if inc = 1 then size else if inc = 2 then -(size : Int) else signed 32 (w / 2 ^ 32)
    match mode with
    | 0 => some (pattern 32 ((p : Int) + d))
    | 1 =>
      if (len : Int) < d.natAbs then none
      else
        let base : Int := (p : Int) - p % ceilPow2 len
        let v := (p : Int) + d
        some (pattern 32 (if base + len ≤ v then v - len else if v < base then v + len else v))
    | 2 =>
      if inc = 3 ∨ width = 0 then none
      else
        let e := Nat.log2 size
        let f := p / 2 ^ e % 2 ^ width
        let r := revBits width f
        let r' := if inc = 1 then (r + 1) % 2 ^ width else (r + 2 ^ width - 1) % 2 ^ width
        some (p - f * 2 ^ e + revBits width r' * 2 ^ e)
    | _ => none

/-- Whether an access of `size` bytes at board address a is legal (R80). -/
def accessOk (a size : Nat) : Bool := a < boardSize && a % size = 0

/-- The byte at board offset a, now b, that a data read reads: what stood there before a command wrote it, while no AWAIT
or RWAIT has counted the command (R95). -/
def settledByte (s : State) (t a : Nat) (b : Byte) : Byte :=
  match tget (fun _ => []) (s.core t).unseen a with
  | (v, _) :: _ => v
  | [] => b

/-- Of a byte now `cur`, whose recent stores are `hs`: a store too close in front is seen as a whole or not at all, as one
free choice decides (Table 3.3; log entry 4). -/
def byteFrom (s : State) : Nat → List Hazard → Nat
  | cur, [] => cur
  | cur, h :: r => if Config.freeChoice (s.free + 32 + h.left) then cur else byteFrom s h.old r

/-- The bytes of a data read as seen. -/
def loadSeen (s : State) (t a : Nat) (l : List Byte) : Nat :=
  leNat (l.mapIdx fun i b => BitVec.ofNat 8
    (byteFrom s (settledByte s t (a + i) b).toNat ((s.core t).hazards.filter (·.of = .byte (a + i)))))

/-- A data read of `size` bytes over bus X (code 4) or Y (code 5): by LD, and by CMAC and RMAC as by LD (log
entry 82). -/
def dcRead (s : State) (t a size code : Nat) : Nat × State :=
  let (l, s) := memRead s (s.boardStore t a) size (.tileUnit code)
  (loadSeen s t a l, s)

/-- A post-modify result written to pN. -/
def putPost (s : State) (t n v : Nat) : State := putP s t n v 1 inA

/-- Bytes of a SIZE code. -/
def sizeOf (z : BitVec 2) : Nat := 2 ^ z.toNat

/-- The address of LD and ST: pn + DISP. DESIGN CHOICE (log entry 82): the sum wraps modulo 2³² before the range check of
R80, which does not say. -/
def ldstAddr (s : State) (t : Nat) (f : DcL) : Nat :=
  pattern 32 ((readP s t f.p.toNat : Int) + f.disp.toInt)

/-- LD: sign-extended into S. An address out of range or misaligned is found before an illegal post-modify (log
entry 82). -/
def dcLd (t : Tile) (f : DcL) (s : State) : State :=
  dcIssue t (f.size = 3) .plain (fun s =>
    let n := f.p.toNat
    let size := sizeOf f.size
    let a := ldstAddr s t f
    if !accessOk a size then .illegal 4
    else match postModify (readP s t n) (readQ s t n) size f.inc.toNat with
      | none => .illegal 5
      | some p' =>
        let (v, s) := dcRead s t a size 4
        let s := if f.inc = 0 then s else putPost s t n p'
        .done (putS s t f.s.toNat (BitVec.ofInt 32 (signed (8 * size) v)) 1 inM2)) s

/-- Bytes that ST is about to overwrite, noted for LD (Table 3.3). -/
def noteBytes (s : State) (t a size : Nat) : State :=
  s.forEach size fun s i =>
    s.setCore t (note (s.core t) (.byte (a + i))
      (settledByte s t (a + i) (s.byte (s.boardStore t (a + i)))).toNat 5 inW)

/-- ST: the low bytes of S. -/
def dcSt (t : Tile) (f : DcL) (s : State) : State :=
  dcIssue t (f.size = 3) .plain (fun s =>
    let n := f.p.toNat
    let size := sizeOf f.size
    let a := ldstAddr s t f
    if !accessOk a size then .illegal 4
    else match postModify (readP s t n) (readQ s t n) size f.inc.toNat with
      | none => .illegal 5
      | some p' =>
        let v := readS s t f.s.toNat
        let s := if f.inc = 0 then s else putPost s t n p'
        let s := noteBytes s t a size
        .done (memWrite s (s.boardStore t a) (natLE size v.toNat) (.tileUnit 4))) s

/-- p[SD[2:0]] = sa. -/
def dcMovp (t : Tile) (f : DcR) (s : State) : State :=
  dcPlain t (8 ≤ f.sd.toNat || f.sb ≠ 0 || f.func ≠ 0)
    (fun s => putP s t f.sd.toNat (readS s t f.sa.toNat).toNat 4 inE1) s

/-- sd = p[SA[2:0]], of which a MOVP still to land may show either value (log entry 82). -/
def dcMvfp (t : Tile) (f : DcR) (s : State) : State :=
  dcPlain t (8 ≤ f.sa.toNat || f.sb ≠ 0 || f.func ≠ 0)
    (fun s => putS s t f.sd.toNat (BitVec.ofNat 32 (readP s t f.sa.toNat))) s

/-- q[SD[2:0]] = sb as the high word, sa as the low word. -/
def dcMovq (t : Tile) (f : DcR) (s : State) : State :=
  dcPlain t (8 ≤ f.sd.toNat || f.func ≠ 0) (fun s =>
    let n := f.sd.toNat
    let c := s.core t
    let v := dword (readS s t f.sa.toNat) (readS s t f.sb.toNat 4)
    let c' := note c (.mode n) (tget (fun _ => 0) c.q n).toNat 4 inE1
    s.setCore t { c' with q := tset (fun _ => 0) c.q n (BitVec.ofNat 64 v) }) s

/-! ### Multiply-accumulate (R90–R92) -/

/-- v added to a 48-bit accumulator part: modulo 2^48, or saturating. -/
def accAdd (a : BitVec 48) (v : Int) (sat : Bool) : BitVec 48 :=
  let r := a.toInt + v
  BitVec.ofInt 48 (if sat then clampInt (-(2 ^ 47)) (2 ^ 47 - 1) r else r)

/-- The signed halves of a word. -/
def loHalf (w : Nat) : Int := signed 16 w
def hiHalf (w : Nat) : Int := signed 16 (w / 2 ^ 16)

/-- The common work of CMAC and RMAC: both operands read, both post-modifies made, and the sums added to the
accumulator. When PX and PY are one register, which post-modify remains is a free choice (log entry 4). -/
def dcMac (t : Tile) (f : DcC) (sums : State → Nat → Nat → Int × Int) (s : State) : DcResult :=
  let px := f.px.toNat
  let py := f.py.toNat
  let ax := readP s t px
  let ay := readP s t py
  if !accessOk ax 4 || !accessOk ay 4 then .illegal 4
  else match postModify ax (readQ s t px) 4 f.xinc.toNat, postModify ay (readQ s t py) 4 f.yinc.toNat with
    | some p, some q =>
      let (x, s) := dcRead s t ax 4 4
      let (y, s) := dcRead s t ay 4 5
      let both := px = py && f.xinc ≠ 0 && f.yinc ≠ 0
      let keepX := Config.freeChoice (s.free + 40)
      let s := if f.xinc = 0 || (both && !keepX) then s else putPost s t px p
      let s := if f.yinc = 0 || (both && keepX) then s else putPost s t py q
      let s := if both then s.drawFree 64 else s
      let (re, im) := sums s x y
      let (re, im) := if f.neg then (-re, -im) else (re, im)
      let a := f.acc.toNat
      let c := s.core t
      .done (putAcc s t a (accAdd (tget (fun _ => 0) c.accRe a) re f.sat)
        (accAdd (tget (fun _ => 0) c.accIm a) im f.sat))
    | _, _ => .illegal 5

/-- The product of R90 before NEG. -/
def cmacSums (f : DcC) (x y : Nat) : Int × Int :=
  let xr := loHalf x
  let xi := if f.cjx then -hiHalf x else hiHalf x
  let yr := loHalf y
  let yi := if f.cjy then -hiHalf y else hiHalf y
  (xr * yr - xi * yi, xr * yi + xi * yr)

/-- CMAC (R90). -/
def dcCmac (t : Tile) (f : DcC) (s : State) : State :=
  dcIssue t (f.reserved ≠ 0 || f.sk ≠ 0) .plain (dcMac t f fun _ x y => cmacSums f x y) s

/-- The pair sums of R91 before NEG. -/
def rmacSums (k x y : Nat) : Int × Int :=
  (loHalf x * loHalf y + hiHalf x * hiHalf y, loHalf x * loHalf k + hiHalf x * hiHalf k)

/-- RMAC (R91). -/
def dcRmac (t : Tile) (f : DcC) (s : State) : State :=
  dcIssue t (f.reserved ≠ 0 || f.cjx || f.cjy) .plain
    (dcMac t f fun s x y => rmacSums (readS s t f.sk.toNat).toNat x y) s

/-- CLRA: both parts 0. -/
def dcClra (t : Tile) (f : DcR) (s : State) : State :=
  dcPlain t (8 ≤ f.sd.toNat || f.sa ≠ 0 || f.sb ≠ 0 || f.func ≠ 0) (fun s => putAcc s t f.sd.toNat 0 0) s

/-- MOVA: sat32 of the accumulator part rounded by sh, readable from distance 2 on (R92). -/
def dcMova (t : Tile) (f : DcR) (s : State) : State :=
  dcPlain t (8 ≤ f.sa.toNat || f.sb ≠ 0 || 64 ≤ f.func.toNat) (fun s =>
    let n := f.sa.toNat
    let c := s.core t
    let im := f.func.getLsbD 5
    let cur := if im then tget (fun _ => 0) c.accIm n else tget (fun _ => 0) c.accRe n
    let v := BitVec.ofNat 48 (seen s t (if im then .accIm n else .accRe n) cur.toNat 0)
    putS s t f.sd.toNat (BitVec.ofInt 32 (sat32 (roundShift v.toInt (f.func.toNat % 32) 0 0))) 2 inE2) s

/-! ### Branches, repeats, rotation (R78, R86–R88) -/

/-- A branch leaves D: its delay slots follow, then its target when taken. -/
def branchTo (s : State) (t : Nat) (target : Option (BitVec 25)) : State :=
  s.setCore t { s.core t with delay := some ⟨target, 3⟩ }

/-- The target of a branch: OFFSET instructions from it. -/
def branchTarget (s : State) (t : Nat) (f : DcB) : BitVec 25 :=
  (s.core t).pc + BitVec.ofInt 25 (4 * f.offset.toInt)

/-- B (R87). -/
def dcB (t : Tile) (f : DcB) (s : State) : State :=
  dcIssue t false .branch (fun s =>
    let n := f.cbit.toNat
    let bit := seen s t (.cond n) (b2n ((s.core t).c.getLsbD n)) 0 = 1
    let taken := f.always || (bit != f.neg)
    .done (branchTo s t (if taken then some (branchTarget s t f) else none))) s

/-- CALL (R86): pushes the address after its second delay slot. DESIGN CHOICE (log entry 82): NEG and CBIT are ignored,
and ALWAYS 0 is illegal operation 0, which Table 3.7 does not list. -/
def dcCall (t : Tile) (f : DcB) (s : State) : State :=
  dcIssue t (!f.always) .branch (fun s =>
    let c := s.core t
    if 16 ≤ c.stack.length then .illegal 3
    else .done (branchTo (s.setCore t { c with stack := pcPlus c.pc 3 :: c.stack }) t (some (branchTarget s t f)))) s

/-- RETN (R86). DESIGN CHOICE (log entry 82): ALWAYS 0 or OFFSET not 0 is illegal operation 0, which Table 3.7 does not
list. -/
def dcRetn (t : Tile) (f : DcB) (s : State) : State :=
  dcIssue t (!f.always || f.offset ≠ 0) .branch (fun s =>
    let c := s.core t
    match c.stack with
    | [] => .illegal 3
    | a :: r => .done (branchTo (s.setCore t { c with stack := r }) t (some a))) s

/-- REP (R88): the body starts at the next instruction; COUNT 0 skips it. -/
def dcRep (t : Tile) (f : DcP) (s : State) : State :=
  dcIssue t false .branch (fun s =>
    let c := s.core t
    let n := f.count.toNat
    let len := f.len1.toNat + 1
    if f.creg && 32 ≤ n then .illegal 7
    else
      let count := if f.creg then (readS s t n).toNat else n
      if count = 0 then .moved (s.setCore t { c with pc := pcPlus c.pc (len + 1) })
      else .moved (s.setCore t { c with
        pc := pcPlus c.pc 1, repCache := [],
        rep := some {
          more := count - 1, start := pcPlus c.pc 1, len := len, iter := 0, posn := 0, rot := f.rot } })) s

/-- ROT: RRB decremented (R78). -/
def dcRot (t : Tile) (f : DcR) (s : State) : State :=
  dcPlain t (f.sd ≠ 0 || f.sa ≠ 0 || f.sb ≠ 0 || f.func ≠ 0)
    (fun s => s.setCore t { s.core t with rrb := (s.core t).rrb - 1 }) s

/-! ### Coprocessor commands and summaries (R94–R96) -/

/-- Array and Quick Sum commands not completed. -/
def arrayOutstanding (s : State) (t : Nat) : Nat :=
  (s.core t).arrayQ.length + (s.array t).passes.length + (s.array t).quickSum.length

/-- Rod commands not completed. -/
def rodOutstanding (s : State) (t : Nat) : Nat := (s.core t).rodQ.length

/-- The command word of AISS and RISS: sa the high word, sb the low word. -/
def commandWord (s : State) (t : Nat) (f : DcR) : DWord :=
  BitVec.ofNat 64 (dword (readS s t f.sb.toNat 4) (readS s t f.sa.toNat))

/-- AISS (R94): FUNC[0] selects the Quick Sum path. -/
def dcAiss (t : Tile) (f : DcR) (s : State) : State :=
  dcIssue t (f.sd ≠ 0 || 2 ≤ f.func.toNat) .plain (fun s =>
    if 16 ≤ arrayOutstanding s t then .wait 2 s
    else
      let c := s.core t
      .done (s.setCore t { c with
        arrayQ := c.arrayQ ++ [⟨f.func.getLsbD 0, commandWord s t f, c.arrIssued, c.rodIssued⟩],
        arrIssued := c.arrIssued + 1 })) s

/-- RISS (R94). -/
def dcRiss (t : Tile) (f : DcR) (s : State) : State :=
  dcIssue t (f.sd ≠ 0 || f.func ≠ 0) .plain (fun s =>
    if 16 ≤ rodOutstanding s t then .wait 3 s
    else
      let c := s.core t
      .done (s.setCore t { c with
        rodQ := c.rodQ ++ [⟨commandWord s t f, c.arrIssued⟩], rodIssued := c.rodIssued + 1 })) s

/-- SISS (R211): the descriptor address is sa (log entry 17). -/
def dcSiss (t : Tile) (f : DcR) (s : State) : State :=
  dcIssue t (f.sd ≠ 0 || f.func ≠ 0) .plain (fun s =>
    let c := s.core t
    if 16 ≤ c.slideQ.length then .wait 4 s
    else .done (s.setCore t { c with
      slideQ := c.slideQ ++ [readS s t f.sa.toNat], slideIssued := c.slideIssued + 1 })) s

/-- Whether the fields that AWAIT and RWAIT do not use are not 0, or k lies outside 0–16, which is taken as a reserved
value (log entry 82). -/
def waitReserved (f : DcI) : Bool := f.sd ≠ 0 || f.sa ≠ 0 || 16 < f.imm.toNat

/-- The writes to a byte that remain to be observed when the first n of one queue are: those behind the last of the n. -/
def afterSeen (rod : Bool) : List (Byte × Bool) → Nat → List (Byte × Bool)
  | l, 0 => l
  | [], _ => []
  | x :: r, n + 1 => afterSeen rod r (if x.2 = rod then n else n + 1)

/-- The array and Quick Sum commands of tile t that have written and are not completed (R368). -/
def withheldOf (s : State) (t : Nat) : List PassInFlight :=
  ((s.array t).passes ++ (s.array t).quickSum).filter (·.withheld)

/-- An AWAIT (`rod` false) or RWAIT (`rod` true) passes D: an LD may observe the board writes of the commands it counts
as completed (R95). A withheld pass or MATVEC has written and is not completed (R368): of the array's writes to a byte
it drains to, the last stays unobserved. -/
def sawCommands (s : State) (t : Nat) (rod : Bool) : State :=
  let held := if rod then [] else withheldOf s t
  let left (e : Nat × List (Byte × Bool)) : List (Byte × Bool) :=
    afterSeen rod e.2 ((e.2.filter (·.2 = rod)).length - (held.filter (drainsTo · e.1)).length)
  let c := s.core t
  s.setCore t { c with unseen := (c.unseen.map fun e => (e.1, left e)).filter (!·.2.isEmpty) }

/-- AWAIT k (R85). -/
def dcAwait (t : Tile) (f : DcI) (s : State) : State :=
  dcIssue t (waitReserved f) .plain
    (fun s => if arrayOutstanding s t ≤ f.imm.toNat then .done (sawCommands s t false) else .wait 6 s) s

/-- RWAIT k (R85). -/
def dcRwait (t : Tile) (f : DcI) (s : State) : State :=
  dcIssue t (waitReserved f) .plain
    (fun s => if rodOutstanding s t ≤ f.imm.toNat then .done (sawCommands s t true) else .wait 6 s) s

/-- MOVS: sd = the next summary (R96). -/
def dcMovs (t : Tile) (f : DcR) (s : State) : State :=
  dcIssue t (f.sa ≠ 0 || f.sb ≠ 0 || f.func ≠ 0) .plain (fun s =>
    let c := s.core t
    match c.sumQ with
    | w :: r => .done (putS (s.setCore t { c with sumQ := r }) t f.sd.toNat w)
    | [] => if c.rodQ.any fun q => 1 ≤ rodPosts (rodCmd q.word) then .wait 5 s else .illegal 6) s

/-! ### Tallies and the tile control block (R97, R98) -/

/-- Whether every array, rod and copy command that core t issued before a signal has completed, so that the memory effects
of R65 have been performed. A STREAM's blocks have signals of their own (log entry 83). -/
def signalReady (s : State) (t : Nat) (g : PendingSignal) : Bool :=
  let c := s.core t
  let a := s.array t
  (c.arrayQ ++ a.passes.map (·.cmd) ++ a.quickSum.map (·.cmd)).all (fun q => g.arr ≤ q.no) &&
    g.rod ≤ c.rodDone && g.slide ≤ c.slideIssued - c.slideQ.length &&
    (List.range 32).all fun ch => (s.chan t ch).q.all fun d => d.stream || g.slide ≤ d.no

/-- A signal applied to its tally, and what of it the journal does not absorb sent to the peer where it is shared (R379,
R406). -/
def applySignal (s : State) (t : Nat) (g : PendingSignal) : State :=
  let e := journalOf s t g.tally
  let left := g.amount.toNat - (if g.sub then e.absorbSubs else e.absorbAdds)
  let s := if g.sub then tileSub s t g.tally g.amount.toNat 1 else tileAdd s t g.tally g.amount.toNat 1
  if 1 ≤ left || g.amount = 0 then shareOperation s g.tally g.sub (BitVec.ofNat 32 left) else s

/-- The first n signals of core t that wait for nothing more, in issue order (R242). -/
def applySignals (t : Nat) : Nat → State → State
  | 0, s => s
  | n + 1, s =>
    match (s.core t).signals with
    | [] => s
    | g :: r =>
      if signalReady s t g then applySignals t n (applySignal (s.setCore t { s.core t with signals := r }) t g) else s

/-- The signals of core t that nothing holds back any more. -/
def releaseSignals (s : State) (t : Nat) : State := applySignals t (s.core t).signals.length s

/-- TSIG and TSUB passed on to the tally unit. -/
def dcSignal (t : Tile) (f : DcR) (sub : Bool) (s : State) : State :=
  dcIssue t (f.sd ≠ 0 || f.func ≠ 0) .plain (fun s =>
    let n := (readS s t f.sa.toNat).toNat
    let a := readS s t f.sb.toNat 4
    if inNamespace s n then
      let c := s.core t
      .done (releaseSignals (s.setCore t { c with
        signals := c.signals ++ [⟨n, a, sub, c.arrIssued, c.rodIssued, c.slideIssued⟩] }) t)
    else .violation n) s

/-- TSIG: tally sa plus sb. -/
def dcTsig (t : Tile) (f : DcR) (s : State) : State := dcSignal t f false s

/-- TSUB: tally sa minus sb. -/
def dcTsub (t : Tile) (f : DcR) (s : State) : State := dcSignal t f true s

/-- Whether core t has a signal for tally n that is not yet applied; a TWAIT behind it waits for it (R242). -/
def signalsTally (s : State) (t n : Nat) : Bool := (s.core t).signals.any (·.tally = n)

/-- TWAIT: waits until tally sa is at least sb. -/
def dcTwait (t : Tile) (f : DcR) (s : State) : State :=
  dcIssue t (f.sd ≠ 0 || f.func ≠ 0) .twait (fun s =>
    let n := (readS s t f.sa.toNat).toNat
    if !inNamespace s n then .violation n
    else if !signalsTally s t n && tallyMet s n (readS s t f.sb.toNat 4).toNat then .done s
    else .wait 7 (s.setCore t { s.core t with waitOn := some n })) s

/-- The count of tally n as core t reads it: its own earlier signals come first (R242). -/
def countFor (s : State) (t n : Nat) : Nat :=
  ((s.core t).signals.filter (·.tally = n)).foldl
    (fun c g => if g.sub then c - g.amount.toNat else min tallyMax (c + g.amount.toNat)) (s.tally n).count

/-- TRD: sd = the count of tally sa. -/
def dcTrd (t : Tile) (f : DcR) (s : State) : State :=
  dcIssue t (f.sb ≠ 0 || f.func ≠ 0) .plain (fun s =>
    let n := (readS s t f.sa.toNat).toNat
    if inNamespace s n then .done (putS s t f.sd.toNat (BitVec.ofNat 32 (countFor s t n))) else .violation n) s

/-- TAG: TCTL_TAG.TAG = sa[4:0]. -/
def dcTag (t : Tile) (f : DcR) (s : State) : State :=
  dcPlain t (f.sd ≠ 0 || f.sb ≠ 0 || f.func ≠ 0)
    (fun s => s.setFld (tileBase t + 0x10) 4 0 (readS s t f.sa.toNat).toNat) s

/-- SHED: sd = TCTL_SHED. -/
def dcShed (t : Tile) (f : DcR) (s : State) : State :=
  dcPlain t (f.sa ≠ 0 || f.sb ≠ 0 || f.func ≠ 0)
    (fun s => putS s t f.sd.toNat (s.reg (tileBase t + 0x14))) s

/-- END: the native program ends. -/
def dcEnd (t : Tile) (f : DcR) (s : State) : State :=
  dcIssue t (f.sd ≠ 0 || f.sa ≠ 0 || f.sb ≠ 0 || f.func ≠ 0) .branch .ended s

/-! ### Interrupts (R100, R101, R102) and the instruction cache (R82) -/

/-- Interrupt request n raised on core t (Table 3.5). -/
def raiseIrq (s : State) (t n : Nat) : State :=
  let c := s.core t
  s.setCore t { c with irq := c.irq ||| BitVec.ofNat 4 (2 ^ n) }

/-- The pending request with the lowest priority number. -/
def firstIrq (c : DigitCore) : Option Nat := (List.range 4).find? fun n => c.irq.getLsbD n

/-- The hold-off of request n at core t so far, in beats. -/
def holdoffOf (c : DigitCore) (n : Nat) : Nat := tget (fun _ => 0) c.holdoff n

/-- Request n taken or taken back: its hold-off begins anew with the next one (R102). -/
def dropIrq (c : DigitCore) (n : Nat) : DigitCore :=
  { c with
    irq := c.irq &&& ~~~(BitVec.ofNat 4 (2 ^ n)), holdoff := tset (fun _ => 0) c.holdoff n 0
    holdoffLogged := c.holdoffLogged &&& ~~~(BitVec.ofNat 4 (2 ^ n)) }

/-- The interrupt taken at the instruction in D, which becomes the resume address (R100). -/
def takeInterrupt (s : State) (t n : Nat) : State :=
  let c := s.core t
  let s := s.setReg (dcBase t + 0x10) (BitVec.ofNat 32 (max (s.reg (dcBase t + 0x10)).toNat (holdoffOf c n)))
  s.setCore t { dropIrq c n with
    status := .held, stallCause := 0, hazards := [], waitOn := none, fetchWait := 0, fetched := none, bankWait := 0
    heldBy := some n }

/-- DIGIT_CORE_RESUME (R101): fetch restarts at the resume address. A core halted by DBG_HALT stays held while its bit
stands. -/
def coreResume (s : State) (t : Nat) : State :=
  let c := s.core t
  if c.status = .held && !s.flag (dbgBase + 0xC) t then
    s.setCore t { c with status := .run, heldBy := none }
  else s

/-- The request whose hold-off has reached LIMIT and has not been reported (R102). -/
def overdueRequest (s : State) (t : Nat) : Option Nat :=
  let c := s.core t
  let limit := s.fld (dcBase t + 0xC) 15 0
  if 1 ≤ limit && (c.status = .run || c.status = .stall) then
    (List.range 4).find? fun n => c.irq.getLsbD n && limit ≤ holdoffOf c n && !c.holdoffLogged.getLsbD n
  else none

/-- DIGIT_HOLDOFF_EXCEEDED (R102). -/
def holdoffExceeded (s : State) (t : Nat) : State :=
  match overdueRequest s t with
  | some n =>
    let c := s.core t
    raise (s.setCore t { c with holdoffLogged := c.holdoffLogged ||| BitVec.ofNat 4 (2 ^ n) }) eHoldoff 1 t c.pc.toNat
      (holdoffOf c n)
  | none => s

/-- The instruction cache of core t emptied. -/
def icacheInv (s : State) (t : Nat) : State := s.setCore t { s.core t with icache := [] }

/-! ### Native words (R104, Tables 3.8 and 3.9) -/

/-- The formats of Table 3.8. -/
def formatR (w : Word) : DcR := ⟨w.extractLsb' 21 5, w.extractLsb' 16 5, w.extractLsb' 11 5, w.extractLsb' 0 11⟩
def formatI (w : Word) : DcI := ⟨w.extractLsb' 21 5, w.extractLsb' 16 5, w.extractLsb' 0 16⟩
def formatL (w : Word) : DcL :=
  ⟨w.extractLsb' 21 5, w.extractLsb' 18 3, w.extractLsb' 16 2, w.extractLsb' 14 2, w.extractLsb' 0 14⟩
def formatC (w : Word) : DcC :=
  ⟨w.extractLsb' 23 3, w.extractLsb' 20 3, w.extractLsb' 17 3, bit w 16, bit w 15, bit w 14, bit w 13,
    w.extractLsb' 11 2, w.extractLsb' 9 2, w.extractLsb' 4 5, w.extractLsb' 0 4⟩
def formatB (w : Word) : DcB := ⟨bit w 25, bit w 24, w.extractLsb' 21 3, w.extractLsb' 0 21⟩
def formatP (w : Word) : DcP := ⟨bit w 25, w.extractLsb' 19 6, bit w 18, w.extractLsb' 0 18⟩

/-- A reserved opcode: illegal operation 0 (R103, R104). -/
def dcReserved (t : Tile) (s : State) : State := dcIssue t true .plain .done s

/-- The native instruction of word w issued on core t: OP [31:26] picks it by Table 3.9. -/
def dcWord (t : Tile) (w : Word) (s : State) : State :=
  match (w.extractLsb' 26 6).toNat with
  | 0x00 => dcNop t (formatR w) s
  | 0x01 => dcAdd t (formatR w) s
  | 0x02 => dcSub t (formatR w) s
  | 0x03 => dcAnd t (formatR w) s
  | 0x04 => dcOr t (formatR w) s
  | 0x05 => dcXor t (formatR w) s
  | 0x06 => dcShl t (formatR w) s
  | 0x07 => dcShr t (formatR w) s
  | 0x08 => dcSar t (formatR w) s
  | 0x09 => dcAddi t (formatI w) s
  | 0x0A => dcLui t (formatI w) s
  | 0x0B => dcCmp t (formatR w) s
  | 0x0C => dcMaxx t (formatR w) s
  | 0x0D => dcMinx t (formatR w) s
  | 0x10 => dcLd t (formatL w) s
  | 0x11 => dcSt t (formatL w) s
  | 0x12 => dcMovp t (formatR w) s
  | 0x13 => dcMvfp t (formatR w) s
  | 0x14 => dcMovq t (formatR w) s
  | 0x18 => dcCmac t (formatC w) s
  | 0x19 => dcRmac t (formatC w) s
  | 0x1A => dcClra t (formatR w) s
  | 0x1B => dcMova t (formatR w) s
  | 0x20 => dcB t (formatB w) s
  | 0x21 => dcCall t (formatB w) s
  | 0x22 => dcRetn t (formatB w) s
  | 0x23 => dcRep t (formatP w) s
  | 0x24 => dcRot t (formatR w) s
  | 0x28 => dcAiss t (formatR w) s
  | 0x29 => dcRiss t (formatR w) s
  | 0x2A => dcSiss t (formatR w) s
  | 0x2B => dcAwait t (formatI w) s
  | 0x2C => dcRwait t (formatI w) s
  | 0x2D => dcMovs t (formatR w) s
  | 0x30 => dcTsig t (formatR w) s
  | 0x31 => dcTsub t (formatR w) s
  | 0x32 => dcTwait t (formatR w) s
  | 0x33 => dcTrd t (formatR w) s
  | 0x34 => dcTag t (formatR w) s
  | 0x35 => dcShed t (formatR w) s
  | 0x3E => dcEnd t (formatR w) s
  | _ => dcReserved t s

/-- A beat of core t that fetches: the beats of a miss pass one by one, charged to DC_STALL1, and the word in D issues in
the beat after (R82, R105). DESIGN CHOICE (log entry 82): STATE reads RUN and STALL_CAUSE 0 meanwhile. -/
def fetchBeat (s : State) (t : Nat) : State :=
  let miss := fetchMisses s t
  let s := if miss then fillLine s t else s
  let n := if miss then missBeats else (s.core t).fetchWait
  landBeats ((s.setCore t { s.core t with fetchWait := n - 1 }).bump (dcBase t + 0x44) 1) t 1

/-- Whether a word is a CMAC or RMAC whose operands X and Y lie in one bank of the board (R81, R187). -/
def operandsCollide (s : State) (t : Nat) (w : Word) : Bool :=
  let op := (w.extractLsb' 26 6).toNat
  let f := formatC w
  let bank (n : Nat) : Nat := bankOf (tget (fun _ => 0) (s.core t).p n).toNat
  (op = 0x18 || op = 0x19) && bank f.px.toNat = bank f.py.toNat

/-- A beat of core t in RUN or STALL with no request to take, run as the native program in its board says: a bank shared
by the operands of the instruction before waited for, or a miss, or the instruction in D issued, a stall charged to its
cause (R81, R82, R85, R105). DESIGN CHOICE (log entry 82): STATE goes on reading RUN in a beat of a shared bank or of a
miss, and STALL_CAUSE 0. -/
def nativeBeat (s : State) (t : Tile) : State :=
  let c := s.core t
  if c.bankWait.testBit 0 then
    (s.setCore t { c with bankWait := c.bankWait - 1 }).bump (dcBase t + 0x40) 1
  else
    let s := if c.bankWait = 0 then s else s.setCore t { c with bankWait := c.bankWait / 2 }
    if c.status = .run && (fetchMisses s t || 1 ≤ c.fetchWait) then fetchBeat s t
    else
      let w := fetchedWord s t
      let s' := dcWord t w s
      let c := s'.core t
      if c.status = .stall then landBeats (s'.bump (dcBase t + 0x40 + 4 * c.stallCause) 1) t 1
      else if c.status = .run && operandsCollide s t w then s'.setCore t { c with bankWait := c.bankWait ||| 2 } else s'

/-! ### Meanings -/

def execDcNop (t : Tile) (f : DcR) (s : State) : Host.Outcome State Fault Refusal := .next (dcNop t f s)
def execDcAdd (t : Tile) (f : DcR) (s : State) : Host.Outcome State Fault Refusal := .next (dcAdd t f s)
def execDcSub (t : Tile) (f : DcR) (s : State) : Host.Outcome State Fault Refusal := .next (dcSub t f s)
def execDcAnd (t : Tile) (f : DcR) (s : State) : Host.Outcome State Fault Refusal := .next (dcAnd t f s)
def execDcOr (t : Tile) (f : DcR) (s : State) : Host.Outcome State Fault Refusal := .next (dcOr t f s)
def execDcXor (t : Tile) (f : DcR) (s : State) : Host.Outcome State Fault Refusal := .next (dcXor t f s)
def execDcShl (t : Tile) (f : DcR) (s : State) : Host.Outcome State Fault Refusal := .next (dcShl t f s)
def execDcShr (t : Tile) (f : DcR) (s : State) : Host.Outcome State Fault Refusal := .next (dcShr t f s)
def execDcSar (t : Tile) (f : DcR) (s : State) : Host.Outcome State Fault Refusal := .next (dcSar t f s)
def execDcAddi (t : Tile) (f : DcI) (s : State) : Host.Outcome State Fault Refusal := .next (dcAddi t f s)
def execDcLui (t : Tile) (f : DcI) (s : State) : Host.Outcome State Fault Refusal := .next (dcLui t f s)
def execDcCmp (t : Tile) (f : DcR) (s : State) : Host.Outcome State Fault Refusal := .next (dcCmp t f s)
def execDcMaxx (t : Tile) (f : DcR) (s : State) : Host.Outcome State Fault Refusal := .next (dcMaxx t f s)
def execDcMinx (t : Tile) (f : DcR) (s : State) : Host.Outcome State Fault Refusal := .next (dcMinx t f s)
def execDcLd (t : Tile) (f : DcL) (s : State) : Host.Outcome State Fault Refusal := .next (dcLd t f s)
def execDcSt (t : Tile) (f : DcL) (s : State) : Host.Outcome State Fault Refusal := .next (dcSt t f s)
def execDcMovp (t : Tile) (f : DcR) (s : State) : Host.Outcome State Fault Refusal := .next (dcMovp t f s)
def execDcMvfp (t : Tile) (f : DcR) (s : State) : Host.Outcome State Fault Refusal := .next (dcMvfp t f s)
def execDcMovq (t : Tile) (f : DcR) (s : State) : Host.Outcome State Fault Refusal := .next (dcMovq t f s)
def execDcCmac (t : Tile) (f : DcC) (s : State) : Host.Outcome State Fault Refusal := .next (dcCmac t f s)
def execDcRmac (t : Tile) (f : DcC) (s : State) : Host.Outcome State Fault Refusal := .next (dcRmac t f s)
def execDcClra (t : Tile) (f : DcR) (s : State) : Host.Outcome State Fault Refusal := .next (dcClra t f s)
def execDcMova (t : Tile) (f : DcR) (s : State) : Host.Outcome State Fault Refusal := .next (dcMova t f s)
def execDcB (t : Tile) (f : DcB) (s : State) : Host.Outcome State Fault Refusal := .next (dcB t f s)
def execDcCall (t : Tile) (f : DcB) (s : State) : Host.Outcome State Fault Refusal := .next (dcCall t f s)
def execDcRetn (t : Tile) (f : DcB) (s : State) : Host.Outcome State Fault Refusal := .next (dcRetn t f s)
def execDcRep (t : Tile) (f : DcP) (s : State) : Host.Outcome State Fault Refusal := .next (dcRep t f s)
def execDcRot (t : Tile) (f : DcR) (s : State) : Host.Outcome State Fault Refusal := .next (dcRot t f s)
def execDcAiss (t : Tile) (f : DcR) (s : State) : Host.Outcome State Fault Refusal := .next (dcAiss t f s)
def execDcRiss (t : Tile) (f : DcR) (s : State) : Host.Outcome State Fault Refusal := .next (dcRiss t f s)
def execDcSiss (t : Tile) (f : DcR) (s : State) : Host.Outcome State Fault Refusal := .next (dcSiss t f s)
def execDcAwait (t : Tile) (f : DcI) (s : State) : Host.Outcome State Fault Refusal := .next (dcAwait t f s)
def execDcRwait (t : Tile) (f : DcI) (s : State) : Host.Outcome State Fault Refusal := .next (dcRwait t f s)
def execDcMovs (t : Tile) (f : DcR) (s : State) : Host.Outcome State Fault Refusal := .next (dcMovs t f s)
def execDcTsig (t : Tile) (f : DcR) (s : State) : Host.Outcome State Fault Refusal := .next (dcTsig t f s)
def execDcTsub (t : Tile) (f : DcR) (s : State) : Host.Outcome State Fault Refusal := .next (dcTsub t f s)
def execDcTwait (t : Tile) (f : DcR) (s : State) : Host.Outcome State Fault Refusal := .next (dcTwait t f s)
def execDcTrd (t : Tile) (f : DcR) (s : State) : Host.Outcome State Fault Refusal := .next (dcTrd t f s)
def execDcTag (t : Tile) (f : DcR) (s : State) : Host.Outcome State Fault Refusal := .next (dcTag t f s)
def execDcShed (t : Tile) (f : DcR) (s : State) : Host.Outcome State Fault Refusal := .next (dcShed t f s)
def execDcEnd (t : Tile) (f : DcR) (s : State) : Host.Outcome State Fault Refusal := .next (dcEnd t f s)
def execDigitCoreResume (t : Tile) (s : State) : Host.Outcome State Fault Refusal :=
  .next (s.act fun s => coreResume s t)
def execDigitHoldoffExceeded (t : Tile) (s : State) : Host.Outcome State Fault Refusal :=
  .next (s.act fun s => holdoffExceeded s t)
def execIcacheInv (t : Tile) (s : State) : Host.Outcome State Fault Refusal :=
  .next (s.tileWritten .pcie t (dcBase t) (0x10 ||| (s.reg (dcBase t) &&& 1)) fun s => icacheInv s t)

end Sys2Proof.Machine
end

