-- ==== Sys2Proof/Machine/RodEngine.lean ====
section
/-! DEFINITION. RodEngine.lean: the rod engine of a tile (The Rod Engine).

Each command of the opcode table runs the head of the tile's rod queue when that head has its opcode: the start
conditions of R166 that one step can show are DEP_ARR and room for the summaries. -/

namespace Sys2Proof.Machine

/-- Tile t is stopped for a pre-emption save: its rod engine starts nothing (R185), its slide channels are HELD (R238). -/
def rodHeld (s : State) (t : Nat) : Bool := (s.core t).heldBy = some 2

/-! ### Registers, masks, elements (R160–R163) -/

/-- What a command reads its rod registers through: byte b of register v at v × 2048 + b. -/
abbrev RodBytes := Nat → Byte

/-- Bytes of one part in a register view (Table 6.2). -/
def partBytes (t : Elem) : Nat := max 1 ((regElem t).partBits / 8)
/-- Parts of one register in a view. -/
def viewParts (t : Elem) : Nat := 2048 / partBytes t
/-- Elements of one register in a view. -/
def viewElems (t : Elem) : Nat := viewParts t / t.parts
/-- Elements of one row in a view. -/
def viewCols (t : Elem) : Nat := viewElems t / 32

/-- Byte position of part k of register v; parts past the end continue in the next register, modulo 32. -/
def partPos (t : Elem) (v k : Nat) : Nat := (v * 2048 + k * partBytes t) % 65536

/-- Part k of register v. -/
def partOfReg (rd : RodBytes) (t : Elem) (v k : Nat) : Nat :=
  leNat ((List.range (partBytes t)).map fun i => rd (partPos t v k + i))

/-- Part k of register v written. -/
def setPart (m : Tab Byte) (t : Elem) (v k x : Nat) : Tab Byte :=
  ((natLE (partBytes t) x).zipIdx).foldl (fun m b => tset (fun _ => 0) m (partPos t v k + b.2) b.1) m

/-- The mask bit that governs linear element i (R162). -/
def maskBit (e : RodEngine) (msk i : Nat) : Bool := (tget (fun _ => 0) e.m ((msk + i / 1024) % 8)).getLsbD (i % 1024)

/-- Mask m with bit i set to b. -/
def setMaskBit (m : BitVec 1024) (i : Nat) (b : Bool) : BitVec 1024 :=
  if b then m ||| BitVec.ofNat 1024 (2 ^ i) else m &&& ~~~(BitVec.ofNat 1024 (2 ^ i))

/-- Whether element i is written or taken. -/
def taken (e : RodEngine) (c : RodCmd) (i : Nat) : Bool := !c.masked || maskBit e c.msk i

/-- Part p of a broadcast register as an element (R163). -/
def broadcastPart (t : Elem) (b : Word) (p : Nat) : Nat :=
  match t with
  | .cint8 => slice b.toNat (16 * p + 7) (16 * p)
  | .cint16 => slice b.toNat (16 * p + 15) (16 * p)
  | .cint32 => if p = 0 then b.toNat else 0
  | t => b.toNat % 2 ^ (8 * partBytes t)

/-- Part k of the B operand. -/
def partOfB (e : RodEngine) (rd : RodBytes) (c : RodCmd) (t : Elem) (k : Nat) : Nat :=
  if c.bscal then broadcastPart t (tget (fun _ => 0) e.b (c.vb % 8)) (k % t.parts) else partOfReg rd t c.vb k

/-! ### Running a command -/

/-- What a command leaves: the engine, the flags of Table 6.6 it raised, and its summaries. -/
structure RodOut where
  eng : RodEngine
  flags : Nat := 0
  sums : List Word := []
  /-- COMPRESS wrote, or EXPAND read, two registers. -/
  wide : Bool := false

/-- How a command ends: with its effect, on the engine alone or on memory too, or in a cause of Table 6.7. -/
inductive RodEnd
  | ok (o : RodOut)
  | mem (o : RodOut) (s : State)
  | fault (cause : Nat)

/-- Parts 0 to n − 1 of VD written from `val`: an element not taken keeps its value, or becomes 0 with ZERO. Flags come
from the taken elements only (R170). -/
def writeParts (e : RodEngine) (c : RodCmd) (t : Elem) (n : Nat) (sel : Nat → Bool) (val : Nat → Flagged) : RodOut :=
  (List.range n).foldl (fun o k =>
    if sel k then
      let x := val k
      { o with eng := { o.eng with v := setPart o.eng.v t c.vd k x.val }, flags := fxOr o.flags x.flags }
    else if c.zero then { o with eng := { o.eng with v := setPart o.eng.v t c.vd k 0 } }
    else o) { eng := e }

/-- An element-wise operation on parts. -/
def elementWise (e : RodEngine) (c : RodCmd) (t : Elem) (val : Nat → Flagged) : RodOut :=
  writeParts e c t (viewParts t) (fun k => taken e c (k / t.parts)) val

/-- An exact integer in type t: wrapped, or saturated with SAT (R60). -/
def intResult (t : Elem) (sat : Bool) (v : Int) : Flagged :=
  if sat then
    let (v, f) := satFlag t.lo t.hi v
    ⟨t.ofInt v, f⟩
  else ⟨t.ofInt v, 0⟩

/-- The seed that the draw units hold: that of the job that last entered RUNNING (R158). -/
def seedOf (s : State) : DWord := s.drawSeed

/-- The draw of output part k of a command whose source rows hold `cols` parts (R168). -/
def rodDraw (s : State) (e : RodEngine) (c : RodCmd) (cols k : Nat) : Nat :=
  (draw (seedOf s) c.stream (e.db.toNat + (k / cols) * e.drs.toNat + k % cols)).toNat

/-- DB after a stochastic command (R168). -/
def advanceDraws (e : RodEngine) (c : RodCmd) : RodEngine :=
  if rodStochastic c then { e with db := e.db + BitVec.ofNat 64 (32 * e.drs.toNat) } else e

/-! ### Element-wise operations (R170, R143) -/

/-- One part of ADD, SUB, MIN and MAX, and of MUL of real types. -/
def arithPart (op : Nat) (t : Elem) (sat : Bool) (a b : Nat) : Flagged :=
  let x := t.toInt a
  let y := t.toInt b
  if t.float then
    match op with
    | 0x08 => fadd t.fmt a b
    | 0x09 => fsub t.fmt a b
    | 0x0A => fmul t.fmt a b
    | 0x0B => fminmax t.fmt false a b
    | _ => fminmax t.fmt true a b
  else
    match op with
    | 0x08 => intResult t sat (x + y)
    | 0x09 => intResult t sat (x - y)
    | 0x0A => intResult t sat (x * y)
    | 0x0B => intResult t sat (min x y)
    | _ => intResult t sat (max x y)

/-- ADD, SUB, MUL, MIN, MAX. -/
def rodArith (_s : State) (e : RodEngine) (rd : RodBytes) (c : RodCmd) (t : Elem) : RodEnd :=
  let a := partOfReg rd t c.va
  let b := partOfB e rd c t
  .ok (elementWise e c t fun k =>
    if c.op = 0x0A && t.complex then
      let i := k / 2 * 2
      let ar := t.toInt (a i)
      let ai := t.toInt (a (i + 1))
      let br := t.toInt (b i)
      let bi := t.toInt (b (i + 1))
      intResult t c.sat (if k % 2 = 0 then ar * br - ai * bi else ar * bi + ai * br)
    else arithPart c.op t c.sat (a k) (b k))

/-- ABS (0x0D) and NEG (0x0E). -/
def rodUnary (_s : State) (e : RodEngine) (rd : RodBytes) (c : RodCmd) (t : Elem) : RodEnd :=
  .ok (elementWise e c t fun k =>
    let a := partOfReg rd t c.va k
    if c.op = 0x0D then (if t.float then fabs t.fmt a else intResult t false (t.toInt a).natAbs)
    else if t.float then fneg t.fmt a else intResult t false (-(t.toInt a)))

/-- SHR (0x0F), rounding by RMODE under R58 and R147, and SHL (0x10). -/
def rodShift (s : State) (e : RodEngine) (rd : RodBytes) (c : RodCmd) (t : Elem) : RodEnd :=
  let o := elementWise e c t fun k =>
    let a := t.toInt (partOfReg rd t c.va k)
    let n := partOfB e rd c t k % 64
    if c.op = 0x10 then intResult t c.sat (a * (2 ^ n : Nat))
    else
      let u := if c.rmode = 2 then rodDraw s e c (viewCols t * t.parts) k else 0
      intResult t false (roundShift a n c.rmode u)
  .ok { o with eng := advanceDraws o.eng c }

/-- AND, OR, XOR. -/
def rodLogic (_s : State) (e : RodEngine) (rd : RodBytes) (c : RodCmd) (t : Elem) : RodEnd :=
  .ok (elementWise e c t fun k =>
    let a := partOfReg rd t c.va k
    let b := partOfB e rd c t k
    ⟨if c.op = 0x11 then a &&& b else if c.op = 0x12 then a ||| b else a ^^^ b, 0⟩)

/-- SEL: VA where the mask bit of MSK is 1, VB elsewhere. -/
def rodSelect (_s : State) (e : RodEngine) (rd : RodBytes) (c : RodCmd) (t : Elem) : RodEnd :=
  .ok (elementWise e c t fun k =>
    ⟨if maskBit e c.msk (k / t.parts) then partOfReg rd t c.va k else partOfB e rd c t k, 0⟩)

/-- MOV. -/
def rodMove (_s : State) (e : RodEngine) (rd : RodBytes) (c : RodCmd) (t : Elem) : RodEnd :=
  .ok (elementWise e c t fun k => ⟨partOfReg rd t c.va k, 0⟩)

/-- Whether element i of VA is less than (`lt`) or equal to element i of VB, and the flag that a NaN raises. -/
def compareElem (e : RodEngine) (rd : RodBytes) (c : RodCmd) (t : Elem) (lt : Bool) (i : Nat) : Bool × Nat :=
  let a := partOfReg rd t c.va
  let b := partOfB e rd c t
  if t.float then ((if lt then fless t.fmt (a i) (b i) else fequal t.fmt (a i) (b i)), nanFlag t.fmt (a i) (b i))
  else if t.complex then (a (2 * i) = b (2 * i) && a (2 * i + 1) = b (2 * i + 1), 0)
  else (if lt then t.toInt (a i) < t.toInt (b i) else a i = b i, 0)

/-- CMPLT (0x18) and CMPEQ (0x19): a mask written, one bit for each element. -/
def rodCompare (_s : State) (e : RodEngine) (rd : RodBytes) (c : RodCmd) (t : Elem) : RodEnd :=
  .ok ((List.range (viewElems t)).foldl (fun o i =>
    let m := (c.vd + i / 1024) % 8
    let put (b : Bool) (f : Nat) : RodOut := { o with
      eng := { o.eng with m := tset (fun _ => 0) o.eng.m m (setMaskBit (tget (fun _ => 0) o.eng.m m) (i % 1024) b) },
      flags := fxOr o.flags f }
    if taken e c i then
      let (b, f) := compareElem e rd c t (c.op = 0x18) i
      put b f
    else if c.zero then put false 0 else o) { eng := e })

/-! ### Masks, broadcast registers, draw state -/

/-- MAND, MOR, MXOR, MNOT, MSET. -/
def rodMaskOp (_s : State) (e : RodEngine) (_rd : RodBytes) (c : RodCmd) (_t : Elem) : RodEnd :=
  let a := tget (fun _ => 0) e.m (c.va % 8)
  let b := tget (fun _ => 0) e.m (c.vb % 8)
  let r := match c.op with
    | 0x1A => a &&& b
    | 0x1B => a ||| b
    | 0x1C => a ^^^ b
    | 0x1D => ~~~a
    | _ => if c.sb.testBit 0 then BitVec.allOnes 1024 else 0
  .ok { eng := { e with m := tset (fun _ => 0) e.m (c.vd % 8) r } }

/-- BSET: b[VD[2:0]] ← sb. Bit 31 of sb is DEP_ARR and part of the value both (log entry 19). -/
def rodBset (_s : State) (e : RodEngine) (_rd : RodBytes) (c : RodCmd) (_t : Elem) : RodEnd :=
  .ok { eng := { e with b := tset (fun _ => 0) e.b (c.vd % 8) (BitVec.ofNat 32 c.sb) } }

/-- DRAWSET: VD[1:0] 0 DB[31:0], 1 DB[63:32], 2 DRS. DESIGN CHOICE (log entry 19): bit 31 of sb is DEP_ARR and part of the
value both, as with BSET. -/
def rodDrawset (_s : State) (e : RodEngine) (_rd : RodBytes) (c : RodCmd) (_t : Elem) : RodEnd :=
  .ok { eng := match c.vd with
    | 0 => { e with db := BitVec.ofNat 64 (e.db.toNat / 2 ^ 32 * 2 ^ 32 + c.sb) }
    | 1 => { e with db := BitVec.ofNat 64 (e.db.toNat % 2 ^ 32 + c.sb * 2 ^ 32) }
    | _ => { e with drs := BitVec.ofNat 32 c.sb } }

/-! ### Loads and stores (R169) -/

/-- Bytes of one row of LDR and STR. -/
def rowBytes (t : Elem) : Nat := if t = .int4 then 32 else 64

/-- ADDR and S of LDR and STR. -/
def ldrAddr (c : RodCmd) : Nat := c.sb % 2 ^ 25
def ldrStride (e : RodEngine) (c : RodCmd) : Nat := (tget (fun _ => 0) e.b (c.vb % 8)).toNat

/-- Cause 9 for LDR and STR: ADDR or S not a multiple of 8, or a row off the board. -/
def ldrBad (e : RodEngine) (c : RodCmd) (t : Elem) : Bool :=
  ldrAddr c % 8 != 0 || ldrStride e c % 8 != 0 || !onBoard (ldrAddr c + 31 * ldrStride e c) (rowBytes t)

/-- Part k of a row-major register image as 32 rows of board bytes hold it. -/
def imagePart (t : Elem) (rows : List (List Byte)) (k : Nat) : Nat :=
  let per := viewParts t / 32
  let row := rows.getD (k / per) []
  if t = .int4 then
    pattern 8 (signed 4 ((field row (k % per / 2) 1) / 16 ^ (k % 2)))
  else field row (k % per * partBytes t) (partBytes t)

/-- LDR. -/
def rodLdr (t : Nat) (s : State) (e : RodEngine) (_rd : RodBytes) (c : RodCmd) (ty : Elem) : RodEnd :=
  if ldrBad e c ty then .fault 9
  else
    let (rows, s) := (List.range 32).foldl (fun (acc : List (List Byte) × State) r =>
      let (l, s) := memRead acc.2 (acc.2.boardStore t (ldrAddr c + r * ldrStride e c)) (rowBytes ty) (.tileUnit 3)
      (acc.1 ++ [l], s)) ([], s)
    .mem (elementWise e c ty fun k => ⟨imagePart ty rows k, 0⟩) s

/-- The (board offset, byte) pairs that STR writes for row r, and its flags. An int4 element is saturated to −8 to 7;
of a byte whose other nibble is masked off, the board's nibble stays. -/
def strRow (s : State) (t : Nat) (e : RodEngine) (rd : RodBytes) (c : RodCmd) (ty : Elem) (r : Nat) :
    List (Nat × Byte) × Nat :=
  let base := ldrAddr c + r * ldrStride e c
  let per := viewParts ty / 32
  if ty = .int4 then
    (List.range 32).foldl (fun acc j =>
      let old := (s.byte (s.boardStore t (base + j))).toNat
      let nib (h : Nat) : Nat × Nat × Bool :=
        let k := r * per + 2 * j + h
        if taken e c k then
          let (v, f) := satFlag (-8) 7 (signed 8 (partOfReg rd ty c.va k))
          (pattern 4 v, f, true)
        else (old / 16 ^ h % 16, 0, false)
      let (lo, f0, w0) := nib 0
      let (hi, f1, w1) := nib 1
      if w0 || w1 then (acc.1 ++ [(base + j, BitVec.ofNat 8 (lo + 16 * hi))], fxOr acc.2 (fxOr f0 f1)) else acc)
      ([], 0)
  else
    ((List.range 64).filterMap fun j =>
      let k := r * per + j / partBytes ty
      if taken e c (k / ty.parts) then some (base + j, rd (c.va * 2048 + r * 64 + j)) else none, 0)

/-- STR. -/
def rodStr (t : Nat) (s : State) (e : RodEngine) (rd : RodBytes) (c : RodCmd) (ty : Elem) : RodEnd :=
  if ldrBad e c ty then .fault 9
  else
    let (s, f) := (List.range 32).foldl (fun (acc : State × Nat) r =>
      let (l, f) := strRow acc.1 t e rd c ty r
      let s := if c.masked || ty = .int4 then
          memWriteMasked acc.1 (l.map fun x => (acc.1.boardStore t x.1, x.2)) (.tileUnit 3)
        else memWrite acc.1 (acc.1.boardStore t (ldrAddr c + r * ldrStride e c)) (l.map (·.2)) (.tileUnit 3)
      (s, fxOr acc.2 f)) (s, 0)
    .mem { eng := e, flags := f } s

/-- LDM. -/
def rodLdm (t : Nat) (s : State) (e : RodEngine) (_rd : RodBytes) (c : RodCmd) (_ty : Elem) : RodEnd :=
  let a := ldrAddr c
  if a % 128 ≠ 0 ∨ !onBoard a 128 then .fault 9
  else
    let (l, s) := memRead s (s.boardStore t a) 128 (.tileUnit 3)
    .mem { eng := { e with m := tset (fun _ => 0) e.m (c.vd % 8) (BitVec.ofNat 1024 (leNat l)) } } s

/-- STM. -/
def rodStm (t : Nat) (s : State) (e : RodEngine) (_rd : RodBytes) (c : RodCmd) (_ty : Elem) : RodEnd :=
  let a := ldrAddr c
  if a % 128 ≠ 0 ∨ !onBoard a 128 then .fault 9
  else
    let m := tget (fun _ => 0) e.m (c.va % 8)
    .mem { eng := e } (memWrite s (s.boardStore t a) (natLE 128 m.toNat) (.tileUnit 3))

/-- CLIPFLUSH (R181): the counter is a 32-bit word of the tile board or, with sb[27], of the common board. -/
def rodClipflush (t : Nat) (s : State) (e : RodEngine) (_rd : RodBytes) (c : RodCmd) (_ty : Elem) : RodEnd :=
  let common := c.sb.testBit 27
  let a := if common then c.sb % 2 ^ 27 else c.sb % 2 ^ 25
  if a % 4 ≠ 0 ∨ (if common then commonSize else boardSize) < a + 4 then .fault 9
  else
    let w := if common then commonStore a else s.boardStore t a
    let who : Requester := if common then .atomic else .tileUnit 3
    let (l, s) := memRead s w 4 who
    let v := min 0x7FFF_FFFF (signed 32 (leNat l) + e.clipacc)
    .mem { eng := { e with clipacc := 0 } } (memWrite s w (natLE 4 (pattern 32 v)) who)

/-! ### CVT, APPLY, DEQUANT, MEASURE (R171, R179, R180) -/

/-- Zeros of the last destination register that `n` parts only partly cover, with ZERO (R171). -/
def zeroRest (e : RodEngine) (c : RodCmd) (t : Elem) (n : Nat) : RodEngine :=
  if !c.zero then e
  else
    let per := viewParts t
    (List.range ((per - n % per) % per)).foldl (fun e j => { e with v := setPart e.v t c.vd (n + j) 0 }) e

/-- A command that maps source part k to destination part k: elements count by part when one side alone is complex,
and the mask governs by complex element (R171). -/
def mapParts (e : RodEngine) (c : RodCmd) (t dt : Elem) (val : Nat → Flagged) : RodOut :=
  let n := viewParts t
  let per := if t.complex || dt.complex then 2 else 1
  let o := writeParts e c dt n (fun k => taken e c (k / per)) val
  { o with eng := zeroRest o.eng c dt n }

/-- The draw of source part k. -/
def partDraw (s : State) (e : RodEngine) (c : RodCmd) (t : Elem) (k : Nat) : Nat :=
  if c.rmode = 2 then rodDraw s e c (viewParts t / 32) k else 0

/-- CVT. -/
def rodCvt (s : State) (e : RodEngine) (rd : RodBytes) (c : RodCmd) (t : Elem) : RodEnd :=
  match elemOfRod c.dtype with
  | none => .fault 8
  | some dt =>
    let o := mapParts e c t dt fun k => convertPart t dt (partOfReg rd t c.va k) c.rmode (partDraw s e c t k)
    .ok { o with eng := advanceDraws o.eng c }

/-- STEP, the zero point, and the code of group g (R180). -/
def quantStep (e : RodEngine) : Nat := (tget (fun _ => 0) e.b 6).toNat
def quantZero (e : RodEngine) : Int := signed 16 (tget (fun _ => 0) e.b 7).toNat
def quantCode (rd : RodBytes) (c : RodCmd) (g : Nat) : Nat := (rd (c.vb * 2048 + g)).toNat

/-- APPLY: the outputs, and the clip events of the elements taken added to CLIPACC. -/
def rodApply (s : State) (e : RodEngine) (rd : RodBytes) (c : RodCmd) (t : Elem) : RodEnd :=
  match elemOfRod c.dtype with
  | none => .fault 8
  | some dt =>
    let per := if dt.complex then 2 else 1
    let one (k : Nat) : Int × Bool :=
      applyPart t dt (partOfReg rd t c.va k) (quantCode rd c (k / per / 32)) (quantStep e) (quantZero e) c.rmode
        (partDraw s e c t k) (Config.freeWord (s.free + k)).toNat
    let o := mapParts e c t dt fun k =>
      ⟨(regElem dt).ofInt (one k).1,
        applyFlags t (partOfReg rd t c.va k) (quantCode rd c (k / per / 32)) (quantStep e)⟩
    let clips := (List.range (viewParts t)).countP fun k => taken e c (k / per) && (one k).2
    .mem { o with eng := { advanceDraws o.eng c with clipacc := min 0x7FFF_FFFF (o.eng.clipacc + clips) } }
      (s.drawFree 2048)

/-- DEQUANT. -/
def rodDequant (_s : State) (e : RodEngine) (rd : RodBytes) (c : RodCmd) (t : Elem) : RodEnd :=
  match elemOfRod c.dtype with
  | none => .fault 8
  | some dt =>
    let per := if t.complex then 2 else 1
    .ok (mapParts e c t dt fun k =>
      dequantPart (regElem t) dt (partOfReg rd t c.va k) (quantCode rd c (k / per / 32)) (quantStep e) (quantZero e))

/-- The minimum and maximum of the parts taken of group g, as int32 or fp32 patterns; (+0, +0) when there is none
(R152, R179). -/
def measureGroup (e : RodEngine) (rd : RodBytes) (c : RodCmd) (t : Elem) (g : Nat) : Nat × Nat :=
  let n := 32 * t.parts
  let vals := ((List.range n).map fun j => g * n + j).filterMap fun k =>
    let a := partOfReg rd t c.va k
    if !taken e c (k / t.parts) then none
    else if t.float then
      (if (fdecode t.fmt a).isNan then none else
        let w := (fconvert t.fmt ⟨8, 23⟩ a).val
        some (fkey ⟨8, 23⟩ w, w))
    else some (t.toInt a, pattern 32 (t.toInt a))
  match vals with
  | [] => (0, 0)
  | x :: r =>
    ((r.foldl (fun m y => if y.1 < m.1 then y else m) x).2, (r.foldl (fun m y => if m.1 < y.1 then y else m) x).2)

/-- MEASURE. -/
def rodMeasure (_s : State) (e : RodEngine) (rd : RodBytes) (c : RodCmd) (t : Elem) : RodEnd :=
  let groups := viewElems t / 32
  let flags := (List.range (viewParts t)).foldl (fun f k =>
    if t.float && taken e c (k / t.parts) then fxOr f (nanFlag t.fmt (partOfReg rd t c.va k) 0) else f) 0
  let eng := (List.range groups).foldl (fun e' g =>
    let (lo, hi) := measureGroup e rd c t g
    { e' with v := setPart (setPart e'.v .int32 c.vd (2 * g) lo) .int32 c.vd (2 * g + 1) hi }) e
  .ok { eng := zeroRest eng c .int32 (2 * groups), flags := flags }

/-! ### Reductions and counts (R172–R175) -/

/-- One level of the lane tree. -/
def lanePairs (f : Flagged → Flagged → Flagged) : List Flagged → List Flagged
  | a :: b :: r => f a b :: lanePairs f r
  | l => l

/-- The lane tree of R61 over a list whose length is a power of two, at most 2^n. -/
def laneTree (f : Flagged → Flagged → Flagged) : Nat → List Flagged → List Flagged
  | 0, l => l
  | n + 1, l => laneTree f n (lanePairs f l)

/-- The identity element of a reduction. -/
def identity (op : Nat) (t : Elem) : Nat :=
  if op = 0x20 then 0
  else
    let mx := op = 0x21 || op = 0x23
    if t.float then t.fmt.sign mx + t.fmt.infMag else t.ofInt (if mx then t.lo else t.hi)

/-- One combination of a reduction. -/
def combine (op : Nat) (t : Elem) (sat : Bool) (a b : Flagged) : Flagged :=
  let r := arithPart (if op = 0x20 then 0x08 else if op = 0x22 then 0x0B else 0x0C) t (sat && op = 0x20) a.val b.val
  ⟨r.val, fxOr r.flags (fxOr a.flags b.flags)⟩

/-- The reduction of a list of elements. -/
def reduce (e : RodEngine) (rd : RodBytes) (c : RodCmd) (t : Elem) (l : List Nat) : Flagged :=
  let ins := l.map fun i =>
    (⟨if taken e c i then partOfReg rd t c.va i else identity c.op t, 0⟩ : Flagged)
  (laneTree (combine c.op t c.sat) 11 ins).headD ⟨identity c.op t, 0⟩

/-- A result as a summary (Table 6.5). -/
def summaryOf (t : Elem) (a : Nat) : Word :=
  if t.float then BitVec.ofNat 32 a else BitVec.ofInt 32 (t.toInt a)

/-- RSUM, RMAX, RMIN. -/
def rodReduce (_s : State) (e : RodEngine) (rd : RodBytes) (c : RodCmd) (t : Elem) : RodEnd :=
  let cols := viewCols t
  let results : List Flagged := match c.axis with
    | 0 => (List.range cols).map fun j => reduce e rd c t ((List.range 32).map fun r => r * cols + j)
    | 1 => (List.range 32).map fun r => reduce e rd c t ((List.range cols).map fun j => r * cols + j)
    | _ => [reduce e rd c t (List.range (viewElems t))]
  let eng := (results.zipIdx).foldl (fun e x => { e with v := setPart e.v t c.vd x.2 x.1.val }) e
  .ok {
    eng := zeroRest eng c t results.length
    flags := results.foldl (fun f x => fxOr f x.flags) 0
    sums := if c.post && c.axis = 2 then [summaryOf t (results.headD ⟨0, 0⟩).val] else [] }

/-- ARGMAX and ARGMIN (R174). -/
def rodArg (_s : State) (e : RodEngine) (rd : RodBytes) (c : RodCmd) (t : Elem) : RodEnd :=
  let mx := c.op = 0x23
  let els := (List.range (viewElems t)).filterMap fun i =>
    let a := partOfReg rd t c.va i
    if !taken e c i || (t.float && (fdecode t.fmt a).isNan) then none
    else some (if t.float then fkey t.fmt a else t.toInt a, a, i)
  let flags := (List.range (viewElems t)).foldl (fun f i =>
    if t.float && taken e c i then fxOr f (nanFlag t.fmt (partOfReg rd t c.va i) 0) else f) 0
  let best := els.foldl (fun (b : Option (Int × Nat × Nat)) x =>
    match b with
    | none => some x
    | some y => if (if mx then y.1 < x.1 else x.1 < y.1) then some x else b) none
  let sums := match best with
    | some (_, a, i) => [summaryOf t a, BitVec.ofNat 32 i]
    | none => [summaryOf t (identity c.op t), 0xFFFF_FFFF]
  .ok { eng := e, flags := flags, sums := sums }

/-- The number of elements of the view whose mask bit in MSK is 1. -/
def maskCount (e : RodEngine) (c : RodCmd) (t : Elem) : Nat :=
  (List.range (viewElems t)).countP fun i => maskBit e c.msk i

/-- COUNT (0x25) and ANY (0x26). -/
def rodCount (_s : State) (e : RodEngine) (_rd : RodBytes) (c : RodCmd) (t : Elem) : RodEnd :=
  let n := maskCount e c t
  .ok { eng := e, sums := [BitVec.ofNat 32 (if c.op = 0x25 then n else min n 1)] }

/-! ### Compress and expand (R177, R178) -/

/-- Element i of register v copied to element j of VD. -/
def copyElem (e : RodEngine) (rd : RodBytes) (t : Elem) (v i d j : Nat) : RodEngine :=
  (List.range t.parts).foldl (fun e p =>
    { e with v := setPart e.v t d (j * t.parts + p) (partOfReg rd t v (i * t.parts + p)) }) e

/-- Element j of VD set to 0. -/
def zeroElem (e : RodEngine) (t : Elem) (d j : Nat) : RodEngine :=
  (List.range t.parts).foldl (fun e p => { e with v := setPart e.v t d (j * t.parts + p) 0 }) e

/-- The elements whose mask bit in MSK is 1, in index order. -/
def maskedElems (e : RodEngine) (c : RodCmd) (t : Elem) : List Nat :=
  (List.range (viewElems t)).filter fun i => maskBit e c.msk i

/-- The offset register set to o + n, and the summary when POST. -/
def finishPack (e : RodEngine) (c : RodCmd) (o n : Nat) : RodEnd :=
  .ok {
    eng := { e with b := tset (fun _ => 0) e.b (c.vb % 8) (BitVec.ofNat 32 (o + n)) }
    sums := if c.post then [BitVec.ofNat 32 n] else []
    wide := (viewElems ((elemOfRod c.type).getD .int8)) < o + n }

/-- COMPRESS. -/
def rodCompress (_s : State) (e : RodEngine) (rd : RodBytes) (c : RodCmd) (t : Elem) : RodEnd :=
  let n := viewElems t
  let o := (tget (fun _ => 0) e.b (c.vb % 8)).toNat
  if n ≤ o then .fault 10
  else
    let els := maskedElems e c t
    let last := o + els.length
    let eng := (els.zipIdx).foldl (fun e x => copyElem e rd t c.va x.1 c.vd (o + x.2)) e
    let eng := if c.zero && !els.isEmpty then
        (List.range ((n - last % n) % n)).foldl (fun e j => zeroElem e t c.vd (last + j)) eng
      else eng
    finishPack eng c o els.length

/-- EXPAND. -/
def rodExpand (_s : State) (e : RodEngine) (rd : RodBytes) (c : RodCmd) (t : Elem) : RodEnd :=
  let n := viewElems t
  let o := (tget (fun _ => 0) e.b (c.vb % 8)).toNat
  if n ≤ o then .fault 10
  else
    let els := maskedElems e c t
    let eng := if c.zero then
        (List.range n).foldl (fun e' j => if maskBit e c.msk j then e' else zeroElem e' t c.vd j) e
      else e
    let eng := (els.zipIdx).foldl (fun e x => copyElem e rd t c.va (o + x.2) c.vd x.1) eng
    finishPack eng c o els.length

end Sys2Proof.Machine
end

