-- ==== Sys2Proof/Machine/Lockstep.lean ====
section
/-! DEFINITION. Lockstep.lean: the records of lock-step and their comparison (R412–R414). -/

namespace Sys2Proof.Machine

/-- Whether tile t takes part in a lock-step that runs. -/
def lsActive (s : State) (t : Nat) : Bool := lsBegun s && !s.bridge.diverged.contains t

/-- Whether the job on the tiles is the one in lock-step: a pre-empted one sends no records until it resumes (R415). -/
def lsHere (s : State) : Bool := s.bridge.lsSlot.isSome && s.bridge.lsSlot == s.tileSlot

/-- The records a tile keeps. -/
def lsRecords (s : State) (t : Nat) : List LockstepRecord := tget (fun _ => []) s.bridge.records t
def lsPeerRecords (s : State) (t : Nat) : List LockstepRecord := tget (fun _ => []) s.bridge.peerRecords t

/-- The pass signature of row signatures (R412). -/
def passSignature (rows : List Word) : DWord :=
  BitVec.ofNat 64 (crc64 (rows.flatMap fun (w : Word) => natLE 4 w.toNat))

/-- The first row whose signatures differ. -/
def firstDiffer (a b : List Word) : Nat := ((List.range 32).find? fun r => a.getD r 0 ≠ b.getD r 0).getD 0

/-- The row signatures of a pass of tile t sent to the peer, on two flits of CTL (R414). -/
def sendRows (s : State) (t : Nat) (own : LockstepRecord) : State :=
  s.forEach 2 fun s h => sendFlit s .ctl 0 (.lockstepRows t own.seq h ((own.rows.drop (16 * h)).take 16))

/-- Two records of one pass compared (R414): at a difference the row signatures are exchanged, and it is reported once
for a tile. With ACTION 1 the peer is told to fault its job too (log entry 104). -/
def lsCompare (s : State) (t : Nat) (own peer : LockstepRecord) : State :=
  let s := s.setReg64 (brBase + 0x58) (s.reg64 (brBase + 0x58) + 1)
  if own.sig = peer.sig then s
  else
    let a := own.dAddr + own.dStride * firstDiffer own.rows peer.rows
    let s := (sendRows s t own).onBridge fun b => { b with diverged := t :: b.diverged }
    let s := setLsState s 3 0
    let s := raise s eDiverge 7 0 own.seq (t * 2 ^ 28 + a % 2 ^ 25)
    if s.fld (brBase + 0x10) 2 1 = 1 then lsFault (sendFlit s .ctl 0 (.peerCtl (.lockstepEnd true))) else s

/-- A pass of tile t has completed: its record sent on CTL, kept among the last 64, and compared when the peer's has
come (R413). -/
def lsPass (s : State) (t : Nat) (rec : LockstepRecord) : State :=
  if !lsActive s t || !lsHere s then s
  else
    let s := sendFlit s .ctl 0 (.lockstepRecord t rec.seq rec.sig)
    let l := lsRecords s t ++ [rec]
    let s := s.onBridge fun b => { b with records := tset (fun _ => []) b.records t (l.drop (l.length - 64)) }
    match (lsPeerRecords s t).find? (·.seq = rec.seq) with
    | some p =>
      lsCompare (s.onBridge fun b => { b with
        peerRecords := tset (fun _ => []) b.peerRecords t
          ((lsPeerRecords s t).filter (·.seq ≠ rec.seq)) }) t rec p
    | none => s

/-- LOCKSTEP_RECORD: a record of the peer for tile t, with the row signatures that an exchange would bring. -/
def lockstepRecord (s : State) (t : Nat) (seq : Nat) (sig : DWord) (rows : List Word) : State :=
  if !lsActive s t then s
  else
    let s := s.onBridge fun b => { b with
      peerSeq := tset (fun _ => 0) b.peerSeq t (max (tget (fun _ => 0) b.peerSeq t) (seq + 1)) }
    let peer : LockstepRecord := ⟨seq, sig, rows, 0, 0⟩
    match (lsRecords s t).find? (·.seq = seq) with
    | some own => lsCompare s t own peer
    | none => s.onBridge fun b => { b with
      peerRecords := tset (fun _ => []) b.peerRecords t (lsPeerRecords s t ++ [peer]) }

/-- Whether tile t's records are 64 passes ahead of the peer's (R413). -/
def lsAhead (s : State) (t : Nat) : Bool :=
  lsActive s t && lsHere s &&
    (match (lsRecords s t).getLast? with
      | some r => tget (fun _ => 0) s.bridge.peerSeq t + 64 ≤ r.seq + 1
      | none => false)

def execLockstepRecord (t : Tile) (seq : Nat) (sig : DWord) (rows : List Word) (s : State) :
    Host.Outcome State Fault Refusal :=
  .next (s.act fun s => lockstepRecord s t seq sig rows)

end Sys2Proof.Machine
end

