-- ==== Sys2Proof/Machine/BeadArray.lean ====
section
/-! DEFINITION. BeadArray.lean: the bead array and the Quick Sum path of a tile (The Bead Array and Quick Sum Path),
and their checkers (R366–R368).

A pass is admitted, and later completes, as two events; its operands are read, its carries formed and its results
written at the completion (log entry 21). -/

namespace Sys2Proof.Machine

/-! ### Geometry (R127, Table 4.7) -/

/-- PART_MODE of tile t. -/
def partMode (s : State) (t : Nat) : Nat := s.fld (baBase t) 1 0
/-- Partitions in the mode. -/
def partCount (s : State) (t : Nat) : Nat := match partMode s t with
  | 0 => 1 | 1 => 2 | _ => 4
/-- Rows and columns of a partition in the mode. -/
def partRows (s : State) (t : Nat) : Nat := if partMode s t = 0 then 32 else 16
def partCols (s : State) (t : Nat) : Nat := if partMode s t ≤ 1 then 32 else 16
/-- Whether partition p has rows in the upper (false) or lower (true) half. -/
def inHalf (s : State) (t p : Nat) (lower : Bool) : Bool :=
  match partMode s t with
  | 0 => true
  | 1 => (p = 1) = lower
  | _ => (2 ≤ p : Bool) = lower

/-- The map in effect on physical tile p has a retired row in the half (R131). -/
def retired (s : State) (p : Nat) (lower : Bool) : Bool :=
  if lower then s.fld (physBase p + 4) 13 8 ≠ 0x3F else s.fld (physBase p + 4) 4 0 ≠ 0x1F

/-- Physical row of logical row r under the retired rows u of the upper and l of the lower half (R131). -/
def physRow (u l r : Nat) : Nat :=
  if r < 16 then (if r < u then r else r + 1) else (if r + 1 < l then r + 1 else r + 2)

/-- Physical row of logical row r of tile t, by the map in effect on its physical tile (R106, R131). -/
def rowOf (s : State) (t r : Nat) : Nat :=
  let m := s.reg (physBase (s.physOf t) + 4)
  physRow (bits m 4 0) (bits m 13 8) r

/-- The logical row and column of position (r, c) of partition p (Table 4.7). -/
def logicalRow (s : State) (t p r : Nat) : Nat := r + (match partMode s t with
  | 0 => 0 | 1 => 16 * p | _ => 16 * (p / 2))
def logicalCol (s : State) (t p c : Nat) : Nat := c + (if partMode s t ≤ 1 then 0 else 16 * (p % 2))

/-- Key of a carry: its bank, and the DPU by physical row and column. -/
def carryKey (bank : Bool) (row c : Nat) : Nat := b2n bank * 4096 + row * 32 + c

/-- The carry bank that the next pass of partition p uses (R107). -/
def bankNext (s : State) (t p : Nat) : Bool := tget (fun _ => false) (s.array t).bank p

/-- The array depth of partition p of tile t (R109, Table 4.1). -/
def depthOf (s : State) (t p : Nat) : Nat :=
  if partCount s t ≤ p then 0
  else
    let base := partRows s t + partCols s t
    let extra := b2n (inHalf s t p false && retired s (s.physOf t) false)
      + b2n (inHalf s t p true && retired s (s.physOf t) true)
    if s.flag (baBase t) 2 then base + (if partMode s t = 0 then 2 else 1) else base + extra

/-! ### Operands (R112, R113, R115) -/

/-- Bytes of `n` elements of an OPTYPE along the contiguous axis. -/
def spanBytes (op n : Nat) : Nat := if op = 2 then (n + 1) / 2 else if op ≤ 1 then n else 2 * n

/-- The parts of an element: (value, 0) of a real one, (re, im) of cint8, (lo, hi) of int16; element j along the
contiguous axis from board offset a. -/
def operand (s : State) (t op a j : Nat) : Int × Int :=
  let b (o : Nat) : Nat := (s.byte (s.boardStore t o)).toNat
  match op with
  | 0 => (signed 8 (b (a + j)), 0)
  | 1 => ((b (a + j) : Int), 0)
  | 2 => (signed 4 (b (a + j / 2) / 16 ^ (j % 2)), 0)
  | 3 => (signed 8 (b (a + 2 * j)), signed 8 (b (a + 2 * j + 1)))
  | _ => ((b (a + 2 * j) : Int), signed 8 (b (a + 2 * j + 1)))

/-- A[r][k] as stored (R112). -/
def elemA (s : State) (t : Nat) (d : PassDesc) (r k : Nat) : Int × Int :=
  if d.ta then operand s t d.optype (d.aAddr + k * d.aStride) r else operand s t d.optype (d.aAddr + r * d.aStride) k

/-- B[k][c] as stored (R112). -/
def elemB (s : State) (t : Nat) (d : PassDesc) (k c : Nat) : Int × Int :=
  if d.tb then operand s t d.optype (d.bAddr + c * d.bStride) k else operand s t d.optype (d.bAddr + k * d.bStride) c

/-- The A operand of a step (Table 4.2). -/
def stepA (d : PassDesc) (x : Int × Int) : Int :=
  match d.step with
  | 0 | 4 | 6 => x.1 - d.za
  | 5 | 7 => x.2 - d.za
  | 1 => x.1 + x.2
  | 2 => x.2
  | 3 => x.1
  | 8 | 9 => x.2
  | _ => x.1

/-- The B operand of a step (Table 4.2). -/
def stepB (d : PassDesc) (y : Int × Int) : Int :=
  match d.step with
  | 0 | 4 | 7 => y.1 - d.zb
  | 5 | 6 => y.2 - d.zb
  | 1 => y.1
  | 2 => y.1 + y.2
  | 3 => y.2 - y.1
  | 8 | 10 => y.2
  | _ => y.1

/-- The operands of K-step index k at row r and column c. -/
def opA (s : State) (t : Nat) (d : PassDesc) (r k : Nat) : Int := stepA d (elemA s t d r k)
def opB (s : State) (t : Nat) (d : PassDesc) (k c : Nat) : Int := stepB d (elemB s t d k c)

/-- The carry of output position (r, c): the sum of the products modulo 2^32 (R107, R55). -/
def carryOf (s : State) (t : Nat) (d : PassDesc) (r c : Nat) : Nat :=
  pattern 32 ((List.range d.k).foldl (fun a k => a + opA s t d r k * opB s t d k c) 0)

/-- P of the nines checker (R366). -/
def checkSum (s : State) (t : Nat) (d : PassDesc) : Nat :=
  pattern 32 ((List.range d.k).foldl (fun a k =>
    a + ((List.range d.rows).foldl (fun x r => x + opA s t d r k) 0)
      * ((List.range d.cols).foldl (fun y c => y + opB s t d k c) 0)) 0)

/-- R of the nines checker. -/
def nines (x : Nat) : Nat := x % 2 ^ 32 % 65535

/-- K-steps of a pass (R107). -/
def kSteps (op k : Nat) : Nat := if op = 2 then (k + 63) / 64 else (k + 31) / 32

/-! ### Faults of a descriptor (Table 4.6) -/

/-- Whether OPTYPE and zero points fit STEP (Table 4.2). -/
def stepFits (d : PassDesc) : Bool :=
  match d.step with
  | 0 => d.optype ≤ 2
  | 1 | 2 | 3 => d.optype = 3 && d.za = 0 && d.zb = 0
  | 4 | 5 | 6 | 7 => d.optype = 3
  | 8 | 9 | 10 | 11 => d.optype = 4 && d.za = 0 && d.zb = 0
  | _ => false

/-- Whether drain fields are legal: shift, mode. -/
def drainFits (shift mode limit : Nat) : Bool := shift ≤ limit && mode ≠ 3 && !(mode = 2 && 32 < shift)

/-- Cause 0. -/
def passFieldsOk (s : State) (t : Nat) (w : DWord) (d : PassDesc) : Bool :=
  arrReservedOk w && d.reservedOk && 1 ≤ d.k && stepFits d && d.dtype ≤ 2 && 1 ≤ d.rows && d.rows ≤ partRows s t
    && 1 ≤ d.cols && d.cols ≤ partCols s t && drainFits d.shift d.mode (if d.step = 11 then 47 else 31)
    && d.stream ≤ 31 && d.tag ≤ 31

/-- Cause 1: every operand and destination byte lies on the board. -/
def passOnBoard (d : PassDesc) : Bool :=
  let span (base stride lines n : Nat) : Bool := onBoard (base + (lines - 1) * stride) (spanBytes d.optype n)
  (if d.ta then span d.aAddr d.aStride d.k d.rows else span d.aAddr d.aStride d.rows d.k)
    && (if d.tb then span d.bAddr d.bStride d.cols d.k else span d.bAddr d.bStride d.k d.cols)
    && (d.dRod || !stepWrites d.step || onBoard (drainAddr d (d.rows - 1) (d.cols - 1)) (dBytes d.dtype))

/-- The step record of partition p: step + 1, 0 none (R116). -/
def stepRecord (s : State) (t p : Nat) : Nat := tget (fun _ => 0) (s.array t).stepRec p

/-- Cause 2: the step that a step requires on record. -/
def sequenceOk (rec step : Nat) : Bool :=
  match step with
  | 2 | 3 => rec = 2
  | 5 => rec = 5
  | 7 => rec = 7
  | 9 => rec = 9
  | 10 => rec = 10
  | 11 => rec = 11
  | _ => true

/-- The record after a step (R116). -/
def recordAfter (rec step : Nat) : Nat :=
  if [1, 4, 6, 8, 9, 10].contains step then step + 1 else if step = 11 then 0 else rec

/-- The first cause of Table 4.6 that a command meets, its descriptor at hand. -/
def passCause (s : State) (t p : Nat) (w : DWord) (d : PassDesc) : Option Nat :=
  if !passFieldsOk s t w d then some 0
  else if !passOnBoard d then some 1
  else if !sequenceOk (stepRecord s t p) d.step then some 2
  else none

/-! ### Admission (R110, R120, R122, R380) -/

/-- Whether partition p (4 the Quick Sum path) of tile t completes commands without effect: faulted or fenced. -/
def partStopped (s : State) (t p : Nat) : Bool := s.flag (baBase t + 0x18) p || s.flag (igBase + 0x100 + 4 * t) p

/-- A partition fault recorded and logged; CAUSE keeps that of the fault that set the bit (R122, R138). -/
def partFault (s : State) (t p cause : Nat) : State :=
  let o := baBase t + 0x18
  let s := if s.flag o p then s else (s.setFld o p p 1).setFld o (11 + 4 * p) (8 + 4 * p) cause
  raise s ePartitionFault 1 t p cause

/-- The head of the array queue taken. -/
def popArray (s : State) (t : Nat) : State := s.setCore t { s.core t with arrayQ := (s.core t).arrayQ.drop 1 }

/-- A pass command counted as completed. -/
def countPass (s : State) (t : Nat) : State := s.bump (baBase t + 0x194) 1

/-- Whether the dependency fields of a command are met (Table 4.4). -/
def depsMet (s : State) (t : Nat) (q : ArrayCommand) : Bool :=
  (!arrDepRod q.word || q.rodBefore ≤ (s.core t).rodDone)
    && (!arrDepArr q.word || ((s.array t).passes.isEmpty && (s.array t).quickSum.isEmpty))

/-- K-steps of a pass in flight, and beats of a MATVEC up to its last K-step, its vector load first (R107, R137). -/
def passKb (x : PassInFlight) : Nat := kSteps (passDesc x.desc).optype (passDesc x.desc).k
def qsSteps (x : PassInFlight) : Nat := ((qsDesc x.desc).n + 63) / 64 * (((qsDesc x.desc).k + 31) / 32)

/-- The pass of partition p that has not presented its last K-step (R110). -/
def presenting (s : State) (t p : Nat) : Option PassInFlight :=
  (s.array t).passes.find? fun x => x.part = p && x.steps < passKb x

/-- A MATVEC in flight has not performed its last K-step (R137). -/
def qsPresenting (s : State) (t : Nat) : Bool := (s.array t).quickSum.any fun x => x.steps < 1 + qsSteps x

/-- Whether a pass of partition p is withheld by a residue mismatch. -/
def partWithheld (s : State) (t p : Nat) : Bool := (s.array t).passes.any fun x => x.part = p && x.withheld

/-- A committed row map waits on a half that partition p has rows in (R133). -/
def mapPending (s : State) (t p : Nat) : Bool :=
  [false, true].any fun lower =>
    inHalf s t p lower && (tget (fun _ => none) s.integ.rowPending (2 * s.physOf t + b2n lower)).isSome

/-- PWR_DIDT.ENFORCE: filler counts keep the floor under the load (R429). -/
def didtOn (s : State) : Bool := s.flag 0x4_0014 31

/-- FILLER_EN in use (R129, R429). -/
def fillerOn (s : State) (t : Nat) : Bool := didtOn s || s.flag (baBase t) 3

/-- DENSITY in use. -/
def density (s : State) (t : Nat) : Nat :=
  min 16 (max (s.fld (baBase t + 0xC) 4 0) (if didtOn s then s.fld 0x4_0014 4 0 else 0))

/-- RAMP in use; 0 acts as 1. -/
def fillerRamp (s : State) (t : Nat) : Nat :=
  max (max 1 (s.fld (baBase t + 0xC) 15 8)) (if didtOn s then s.fld 0x4_0014 15 8 else 0)

/-- The tile's queue moves on with one bead-array command whose partition is not stopped: a bad one is a partition
fault, and any other is admitted with its descriptor, once the partition's pass before it has presented its last K-step
(R110). A command whose PART the mode lacks completes without effect while partition 0 is stopped. A command that meets
several conditions of Table 4.6 is recorded under cause 3, then under a descriptor off the board, then under the lowest
number (log entry 85). -/
def admitPass (s : State) (t : Nat) (q : ArrayCommand) : State :=
  let p := arrPart q.word
  if partCount s t ≤ p then
    (if partStopped s t 0 then countPass (popArray s t) t else partFault (countPass (popArray s t) t) t 0 3)
  else if (presenting s t p).isSome || partWithheld s t p || mapPending s t p then s
  else
    let s := popArray s t
    if !onBoard (arrDesc q.word) 64 then partFault (countPass s t) t p 1
    else
      let (l, s) := memRead s (s.boardStore t (arrDesc q.word)) 64 (.tileUnit 0 p)
      let d := passDesc l
      match passCause s t p q.word d with
      | some k => partFault (countPass s t) t p k
      | none =>
        let a := s.array t
        let seq := if [1, 4, 6, 8].contains d.step then [(arrDesc q.word, l)]
          else if d.step = 0 then tget (fun _ => []) a.seqDescs p
          else tget (fun _ => []) a.seqDescs p ++ [(arrDesc q.word, l)]
        s.setArray t { a with
          passes := a.passes ++ [{
            cmd := q, part := p, desc := l, descAddr := arrDesc q.word,
            recBefore := tget (fun _ => 0) a.stepRec p, seqBefore := tget (fun _ => []) a.seqDescs p }]
          stepRec := tset (fun _ => 0) a.stepRec p (recordAfter (tget (fun _ => 0) a.stepRec p) d.step)
          seqDescs := tset (fun _ => []) a.seqDescs p seq }

/-- Whether a pass command names a partition of the mode that is stopped. -/
def passStopped (s : State) (t : Nat) (q : ArrayCommand) : Bool :=
  arrPart q.word < partCount s t && partStopped s t (arrPart q.word)

/-- PASS_ADMIT: the head of the array queue, when it is a bead-array command that may start. That of a stopped partition
completes at once, without effect, whatever it would wait for (R122). Nothing starts while the tile is stopped for a save
(R126). -/
def passAdmit (s : State) (t : Nat) : State :=
  match (s.core t).arrayQ with
  | q :: _ =>
    if q.quickSum || rodHeld s t then s
    else if passStopped s t q then releaseSignals (countPass (popArray s t) t) t
    else if lsAhead s t || !depsMet s t q then s else releaseSignals (admitPass s t q) t
  | [] => s

/-- The descriptors of the steps before a pass in its holding-buffer sequence, with their board offsets (R373). -/
def fromHolding (x : PassInFlight) : List (Nat × List Byte) :=
  if [0, 1, 4, 6, 8].contains (passDesc x.desc).step then [] else x.seqBefore

/-! ### The carry drain (R117–R119, R58) -/

/-- R58 on v for DTYPE: the bytes of the result. -/
def drainBytes (dtype : Nat) (v : Int) (shift mode u : Nat) (alter : Int := 0) : List Byte :=
  let ty := (dElem dtype).getD .int32
  natLE (dBytes dtype) (pattern 32 (clampInt ty.lo ty.hi (roundShift v shift mode u) + alter))

/-- The value that a step drains at an output position, from its carry c and holding-buffer entry h (Table 4.2). -/
def drained (step : Nat) (h : BitVec 48) (c : Nat) : Int :=
  match step with
  | 2 | 5 => signed 32 (pattern 32 ((h.toNat : Int) - c))
  | 3 | 7 => signed 32 (h.toNat + c)
  | 11 => h.toInt + signed 32 c
  | _ => signed 32 c

/-- The holding-buffer entry that a step leaves (Table 4.2). -/
def heldAfter (step : Nat) (h : BitVec 48) (c : Nat) : BitVec 48 :=
  match step with
  | 1 | 4 | 6 => BitVec.ofNat 48 c
  | 8 => BitVec.ofInt 48 (signed 32 c * 2 ^ 16)
  | 9 | 10 => BitVec.ofInt 48 (h.toInt + signed 32 c * 2 ^ 8)
  | _ => h

/-- Key of position (r, c) of partition p in the holding buffers and carry banks. -/
def posKey (p r c : Nat) : Nat := p * 1024 + r * 32 + c

/-- A draw for a drain: of the job's seed, or of the key of proof patterns, with c3 = 1 (R158). -/
def drainDraw (s : State) (pk : Option DWord) (t n : Nat) : Nat :=
  match pk with
  | none => (draw (seedOf s) t n).toNat
  | some k => (draw k t n 1).toNat

/-- The draw of block element (r, c) (R119). -/
def passDraw (s : State) (d : PassDesc) (r c : Nat) (pk : Option DWord := none) : Nat :=
  if d.mode = 2 then
    drainDraw s pk d.stream (d.drawBase + r * d.drawRstride + c * stepParts d.step + stepPart d.step)
  else 0

/-- Byte position in the rod registers of block element (r, c) (Table 4.3). -/
def rodDrainPos (d : PassDesc) (r c : Nat) : Nat :=
  let v := d.dAddr % 32
  let p := stepPart d.step
  let pos := match d.dtype with
    | 0 => (v + p) * 2048 + r * 64 + c + 32 * (d.dAddr / 32 % 2)
    | 1 => (v + p) * 2048 + r * 64 + 2 * c
    | _ => (v + c / 16 + 2 * p) * 2048 + r * 64 + 4 * (c % 16)
  pos % 65536

/-- Bytes set in the rod registers of tile t from a byte position on. -/
def rodPut (s : State) (t pos : Nat) (l : List Byte) : State :=
  let e := s.rod t
  s.setRod t { e with v := (l.zipIdx).foldl (fun m b => tset (fun _ => 0) m ((pos + b.2) % 65536) b.1) e.v }

/-- One result written: to the board of physical tile ph, or to a rod register of tile t. -/
def drainWrite (s : State) (t ph : Nat) (d : PassDesc) (r c : Nat) (l : List Byte) : State :=
  if d.dRod then rodPut s t (rodDrainPos d r c) l
  else memWrite s (physStore ph (drainAddr d r c)) l (.tileUnit 7)

/-- The results of a block written, where its step writes any. -/
def drainBlock (s : State) (t ph : Nat) (d : PassDesc) (outs : List ((Nat × Nat) × List Byte)) : State :=
  if stepWrites d.step then outs.foldl (fun s x => drainWrite s t ph d x.1.1 x.1.2 x.2) s else s

/-- The positions of a block, row by row. -/
def blockPositions (rows cols : Nat) : List (Nat × Nat) :=
  (List.range rows).flatMap fun r => (List.range cols).map fun c => (r, c)

/-- What an error of the array adds to the carry, and to the written value, of position (r, c). -/
def carryDelta (f : CarryFault) (r c : Nat) : Nat :=
  match f with
  | .carry i j x => if i = r ∧ j = c then x.toNat else 0
  | _ => 0
def drainDelta (f : CarryFault) (r c : Nat) : Int :=
  match f with
  | .drain i j x => if i = r ∧ j = c then x.toInt else 0
  | _ => 0

/-- The carries of a pass, by position, under an error. -/
def passCarries (s : State) (t : Nat) (d : PassDesc) (f : CarryFault) : List ((Nat × Nat) × Nat) :=
  (blockPositions d.rows d.cols).map fun x => (x, (carryOf s t d x.1 x.2 + carryDelta f x.1 x.2) % 2 ^ 32)

/-- The bytes that the drain makes of a carry, with the holding buffers `m`. -/
def passBytesOf (m : Tab (BitVec 48)) (s : State) (p : Nat) (d : PassDesc) (f : CarryFault) (x : (Nat × Nat) × Nat)
    (pk : Option DWord := none) : List Byte :=
  let h := tget (fun _ => 0) m (posKey p x.1.1 x.1.2)
  drainBytes d.dtype (drained d.step h x.2) d.shift d.mode (passDraw s d x.1.1 x.1.2 pk) (drainDelta f x.1.1 x.1.2)

/-- The bytes that the drain makes of a carry, with the holding buffers as they stand. -/
def passBytes (s : State) (t p : Nat) (d : PassDesc) (f : CarryFault) (x : (Nat × Nat) × Nat)
    (pk : Option DWord := none) : List Byte := passBytesOf (s.array t).holding s p d f x pk

/-- The holding buffers after the carries of a pass of partition p. -/
def holdingAfter (m : Tab (BitVec 48)) (p : Nat) (d : PassDesc) (cs : List ((Nat × Nat) × Nat)) : Tab (BitVec 48) :=
  cs.foldl (fun m x =>
    let k := posKey p x.1.1 x.1.2
    tset (fun _ => 0) m k (heldAfter d.step (tget (fun _ => 0) m k) x.2)) m

/-- The carries drained: results written, holding-buffer entries left, and the carries kept in the partition's bank. -/
def drainPass (s : State) (t p : Nat) (d : PassDesc) (f : CarryFault) (cs : List ((Nat × Nat) × Nat))
    (pk : Option DWord := none) : State :=
  let outs := cs.map fun x => (x.1, passBytes s t p d f x pk)
  let s := drainBlock s t (s.physOf t) d outs
  let a := s.array t
  let bank := bankNext s t p
  s.setArray t { a with
    bank := tset (fun _ => false) a.bank p (!bank)
    holding := holdingAfter a.holding p d cs
    carries := cs.foldl (fun m x =>
      let k := carryKey bank (rowOf s t (logicalRow s t p x.1.1)) (logicalCol s t p x.1.2)
      tset (fun _ => 0) m k (BitVec.ofNat 32 x.2)) a.carries }

/-- The row signatures of a pass (R412), from what it has written or holds. -/
def passRows (s : State) (t p : Nat) (d : PassDesc) : List Word :=
  (List.range 32).map fun r =>
    if d.rows ≤ r then 0
    else
      let bytes := (List.range d.cols).flatMap fun c =>
        if !stepWrites d.step then natLE 8 (tget (fun _ => 0) (s.array t).holding (posKey p r c)).toNat
        else if d.dRod then
          (List.range (dBytes d.dtype)).map fun i =>
            tget (fun _ => 0) (s.rod t).v ((rodDrainPos d r c + i) % 65536)
        else s.readBytes (s.boardStore t (drainAddr d r c)) (dBytes d.dtype)
      BitVec.ofNat 32 (crc32c bytes)

/-- The lock-step record of a pass that completes. -/
def passRecord (s : State) (t : Nat) (x : PassInFlight) (rows : List Word) (dAddr dStride : Nat) : State :=
  if x.cmd.no < tget (fun _ => 0) s.bridge.seqBase t then s else lsPass s t {
    seq := x.cmd.no - tget (fun _ => 0) s.bridge.seqBase t, sig := passSignature rows, rows := rows,
    dAddr := dAddr, dStride := dStride }

/-- Bytes the feeders read and the drain writes, each operand element once (R267; log entry 22). -/
def passBoardBytes (d : PassDesc) : Nat :=
  (if d.ta then d.k * spanBytes d.optype d.rows else d.rows * spanBytes d.optype d.k)
    + (if d.tb then d.cols * spanBytes d.optype d.k else d.k * spanBytes d.optype d.cols)
    + (if stepWrites d.step && !d.dRod then d.rows * d.cols * dBytes d.dtype else 0)

/-- What an ECC word with an error does to the feeders of physical tile p that read it (R195, R196), line by line of
the operands. -/
def feederReads (s : State) (p : Nat) (d : PassDesc) (part : Nat := 0) : State :=
  let line (code base stride lines n : Nat) (s : State) : State :=
    s.forEach lines fun s i =>
      (memRead s (physStore p (base + i * stride)) (spanBytes d.optype n) (.tileUnit code part)).2
  let s := if d.ta then line 0 d.aAddr d.aStride d.k d.rows s else line 0 d.aAddr d.aStride d.rows d.k s
  if d.tb then line 1 d.bAddr d.bStride d.cols d.k s else line 1 d.bAddr d.bStride d.k d.cols s

/-- The mismatches of physical tile p within the window (R376). -/
def recentMismatches (s : State) (p : Nat) : List Nat :=
  (tget (fun _ => []) s.integ.mismatches p).filter fun x => s.integ.ticks ≤ x + s.fld (igBase + 8) 15 0

/-- A mismatch counted on physical tile p; COUNT of them in the window make an active tile due for level 3 (R376). -/
def noteMismatch (s : State) (p : Nat) : State :=
  let l := s.integ.ticks :: recentMismatches s p
  let due := max 1 (s.fld (igBase + 8) 19 16) ≤ l.length && s.roleOf p = 0 && !s.integ.swapDue.contains p
  s.onInteg fun g => { g with
    mismatches := tset (fun _ => []) g.mismatches p l
    swapDue := if due then g.swapDue ++ [p] else g.swapDue }

/-- Element i of a list of passes replaced or taken out. -/
def replacePass (l : List PassInFlight) (i : Nat) (x : Option PassInFlight) : List PassInFlight :=
  l.take i ++ x.toList ++ l.drop (i + 1)

/-- The first pass in flight of partition p that is not withheld. -/
def nextPass (s : State) (t p : Nat) : Option (PassInFlight × Nat) :=
  ((s.array t).passes.zipIdx).find? fun x => x.1.part = p && !x.1.withheld

/-- A pass counts as completed: out of flight, counted, and its lock-step record formed. -/
def finishPass (s : State) (t i : Nat) (x : PassInFlight) : State :=
  let d := passDesc x.desc
  let a := s.array t
  let s := countPass (s.setArray t { a with passes := replacePass a.passes i none }) t
  releaseSignals (passRecord s t x (passRows s t x.part d)
    (d.dAddr) (if d.dRod || !stepWrites d.step then 0 else d.dStride)) t

/-- A residue mismatch (R367, R368): logged, and the pass withheld. -/
def withholdPass (s : State) (t i : Nat) (x : PassInFlight) (shadow : Bool) (p q : Nat) : State :=
  let a := s.array t
  let s := s.setArray t { a with passes := replacePass a.passes i (some { x with withheld := true }) }
  let s := noteMismatch s (s.physOf t)
  raise s eResidue 1 t (x.part + 8 * b2n shadow + x.descAddr * 256) (if shadow then 0 else p + q * 2 ^ 16)

/-- What the checkers say of a pass of partition p and its carries under an error (R366, R367): whether the drain shadow
differs, which compares the bytes written with those it recomputes, and the predicted and drained residues, where they
differ. -/
def passVerdict (s : State) (t p : Nat) (d : PassDesc) (f : CarryFault) (cs : List ((Nat × Nat) × Nat))
    (pk : Option DWord := none) : Option (Bool × Nat × Nat) :=
  let pp := nines (checkSum s t d)
  let qq := nines (cs.foldl (fun a x => a + x.2) 0)
  if !s.flag igBase 0 then none
  else if pp != qq then some (false, pp, qq)
  else if stepWrites d.step && cs.any (fun x => passBytes s t p d f x pk != passBytes s t p d .none x pk) then
    some (true, 0, 0)
  else none

/-- Filler counts of partition p. -/
def fillerOf (s : State) (t p : Nat) : FillerState := tget (fun _ => {}) (s.array t).filler p
def setFiller (s : State) (t p : Nat) (f : FillerState) : State :=
  s.setArray t { s.array t with filler := tset (fun _ => {}) (s.array t).filler p f }

/-- The K-steps of pass i of partition p that no beat has shown: a pass that drains has presented them all, so BA_KSTEP
counts them, and the filler level is held at DENSITY (R108, R129, R139). -/
def presentRest (s : State) (t p i : Nat) (x : PassInFlight) : State :=
  if passKb x ≤ x.steps then s
  else
    let a := s.array t
    let s := s.setArray t { a with
      passes := replacePass a.passes i (some { x with steps := passKb x }), pace := tset (fun _ => 0) a.pace p 0
      timedOut := tset (fun _ => false) a.timedOut p false }
    (setFiller s t p { held := true, recent := 2 ^ 34 - 1 }).bump (baBase t + 0x180 + 4 * p) (passKb x - x.steps)

/-- The passes of partition p behind pass i: after a parity fault they complete at once, without effect (R122), so the
step record and the sequence are as the first of them found them. -/
def dropBehind (s : State) (t p i : Nat) : State :=
  let a := s.array t
  let gone := (a.passes.drop (i + 1)).filter (·.part = p)
  let a := match gone with
    | x :: _ => { a with
        stepRec := tset (fun _ => 0) a.stepRec p x.recBefore, seqDescs := tset (fun _ => []) a.seqDescs p x.seqBefore }
    | [] => a
  (s.setArray t { a with passes := a.passes.take (i + 1) ++ (a.passes.drop (i + 1)).filter (·.part ≠ p) }).forEach
    gone.length fun s _ => countPass s t

/-- PASS_COMPLETE: the oldest pass of partition p drains; `f` is what nature did to it. A parity error is handled at
level 1 like a mismatch (Table 13.3), so its pass is kept for the re-reckon, withheld (log entry 47). Nothing drains
while the tile is stopped for a save (R126). -/
def passComplete (s : State) (t p : Nat) (f : CarryFault) : State :=
  match nextPass s t p with
  | none => s
  | some (x, i) =>
    if rodHeld s t then s
    else
      let d := passDesc x.desc
      if f = .parity then
        let a := s.array t
        let x' := { x with withheld := true, steps := passKb x }
        partFault (dropBehind (s.setArray t { a with passes := replacePass a.passes i (some x') }) t p i) t p 4
      else
        let s := presentRest s t p i x
        let x := { x with steps := passKb x }
        let s := feederReads s (s.physOf t) d p
        let kb := kSteps d.optype d.k
        let s := (s.charge (s.tileRecord d.tag) acKsteps kb).charge (s.tileRecord d.tag) acBoard (passBoardBytes d)
        let cs := passCarries s t d f
        let v := passVerdict s t p d f cs
        let s := drainPass s t p d f cs
        match v with
        | some (sh, pp, qq) => withholdPass s t i x sh pp qq
        | none => finishPass s t i x

/-! ### The Quick Sum path (R136–R138) -/

/-- Cause 0 of a Quick Sum descriptor. -/
def qsFieldsOk (w : DWord) (d : QsDesc) : Bool :=
  arrReservedOk w && arrPart w = 0 && d.reservedOk && d.optype ≤ 2 && d.dtype ≤ 2 && 1 ≤ d.n
    && d.n ≤ (if d.dRod then 1024 else 1048575) && 1 ≤ d.k && d.k ≤ 4096 && drainFits d.shift d.mode 31
    && d.stream ≤ 31 && d.tag ≤ 31

/-- Cause 1 of a Quick Sum descriptor. -/
def qsOnBoard (d : QsDesc) : Bool :=
  (if d.ta then onBoard (d.wAddr + (d.k - 1) * d.wStride) (spanBytes d.optype d.n)
    else onBoard (d.wAddr + (d.n - 1) * d.wStride) (spanBytes d.optype d.k))
    && onBoard d.xAddr (spanBytes d.optype d.k) && (d.dRod || onBoard d.dAddr (d.n * dBytes d.dtype))

/-- The first cause that a Quick Sum command meets. -/
def qsCause (w : DWord) (d : QsDesc) : Option Nat :=
  if !qsFieldsOk w d then some 0 else if !qsOnBoard d then some 1 else none

/-- MATVEC_START: the head of the array queue, when it is a Quick Sum command that may start: its vector is loaded after
the last K-step of the command before it (R137). -/
def matvecStart (s : State) (t : Nat) : State :=
  match (s.core t).arrayQ with
  | q :: _ =>
    if !q.quickSum || rodHeld s t then s
    else if partStopped s t 4 then releaseSignals (popArray s t) t
    else if lsAhead s t || !depsMet s t q || qsPresenting s t then s
    else
      let s := popArray s t
      if !onBoard (arrDesc q.word) 64 then partFault s t 4 1
      else
        let (l, s) := memRead s (s.boardStore t (arrDesc q.word)) 64 (.tileUnit 2 4)
        let d := qsDesc l
        match qsCause q.word d with
        | some k => partFault s t 4 k
        | none =>
          let vec := s.readBytes (s.boardStore t d.xAddr) (spanBytes d.optype d.k)
          let s := (memRead s (s.boardStore t d.xAddr) (spanBytes d.optype d.k) (.tileUnit 2 4)).2
          let a := s.array t
          s.setArray t { a with
            quickSum := a.quickSum ++ [{
              cmd := q, part := 4, desc := l, descAddr := arrDesc q.word, vector := vec }]
            qsVector := (vec.zipIdx).foldl (fun m b => tset (fun _ => 0) m b.2 b.1) [] }
  | [] => s

/-- X[k] of vector `vec`, less its zero point. -/
def qsX (vec : List Byte) (d : QsDesc) (k : Nat) : Int :=
  (match d.optype with
    | 0 => signed 8 (field vec k 1)
    | 1 => (field vec k 1 : Int)
    | _ => signed 4 (field vec (k / 2) 1 / 16 ^ (k % 2))) - d.zx

/-- W[i][k] less its zero point. -/
def qsW (s : State) (t : Nat) (d : QsDesc) (i k : Nat) : Int :=
  (if d.ta then operand s t d.optype (d.wAddr + k * d.wStride) i
    else operand s t d.optype (d.wAddr + i * d.wStride) k).1 - d.zw

/-- The carry of output i. -/
def qsCarry (s : State) (t : Nat) (vec : List Byte) (d : QsDesc) (i : Nat) : Nat :=
  pattern 32 ((List.range d.k).foldl (fun a k => a + qsW s t d i k * qsX vec d k) 0)

/-- P of the Quick Sum checker. -/
def qsCheckSum (s : State) (t : Nat) (vec : List Byte) (d : QsDesc) : Nat :=
  pattern 32 ((List.range d.k).foldl (fun a k =>
    a + ((List.range d.n).foldl (fun x i => x + qsW s t d i k) 0) * qsX vec d k) 0)

/-- The carries of a MATVEC under an error; row and column of the error name output 64 × row + column. -/
def qsCarries (s : State) (t : Nat) (vec : List Byte) (d : QsDesc) (f : CarryFault) : List (Nat × Nat) :=
  (List.range d.n).map fun i => (i, (qsCarry s t vec d i + carryDelta f (i / 64) (i % 64)) % 2 ^ 32)

/-- The bytes of an output, from its number and its carry. -/
def qsBytes (s : State) (d : QsDesc) (f : CarryFault) (x : Nat × Nat) (pk : Option DWord := none) : List Byte :=
  let u := if d.mode = 2 then drainDraw s pk d.stream (d.drawBase + x.1) else 0
  drainBytes d.dtype (signed 32 x.2) d.shift d.mode u (drainDelta f (x.1 / 64) (x.1 % 64))

/-- The outputs drained, on physical tile ph's board or in tile t's rod registers, a group of 64 lanes in one write
(R137, R188). DESIGN CHOICE (log entry 85): in the rod registers they fill register D_ADDR[4:0] and those behind it byte
after byte, and D_ADDR[5] is ignored; R136 says only that the view is filled in row-major order. -/
def qsWrite (s : State) (t ph : Nat) (d : QsDesc) (f : CarryFault) (cs : List (Nat × Nat))
    (pk : Option DWord := none) : State :=
  s.forEach ((cs.length + 63) / 64) fun s g =>
    let l := ((cs.drop (64 * g)).take 64).flatMap fun x => qsBytes s d f x pk
    let o := 64 * g * dBytes d.dtype
    if d.dRod then rodPut s t (d.dAddr % 32 * 2048 + o) l
    else memWrite s (physStore ph (d.dAddr + o)) l (.tileUnit 8)

/-- What the weight port's reads on the board of physical tile ph meet. -/
def qsReads (s : State) (ph : Nat) (d : QsDesc) : State :=
  let (lines, n) := if d.ta then (d.k, d.n) else (d.n, d.k)
  s.forEach lines fun s i =>
    (memRead s (physStore ph (d.wAddr + i * d.wStride)) (spanBytes d.optype n) (.tileUnit 2 4)).2

/-- The bytes of outputs [64r, 64r + 64), or from 1,984 on for row 31 (R412; log entry 23). -/
def qsRows (s : State) (t : Nat) (d : QsDesc) : List Word :=
  (List.range 32).map fun r =>
    let lo := 64 * r
    let hi := if r = 31 then d.n else min d.n (lo + 64)
    if hi ≤ lo then 0
    else
      let e := dBytes d.dtype
      let bytes := if d.dRod then
          (List.range ((hi - lo) * e)).map fun i =>
            tget (fun _ => 0) (s.rod t).v ((d.dAddr % 32 * 2048 + lo * e + i) % 65536)
        else s.readBytes (s.boardStore t (d.dAddr + lo * e)) ((hi - lo) * e)
      BitVec.ofNat 32 (crc32c bytes)

/-- The oldest MATVEC in flight counts as completed. -/
def finishMatvec (s : State) (t : Nat) (x : PassInFlight) : State :=
  let d := qsDesc x.desc
  let s := s.setArray t { s.array t with quickSum := (s.array t).quickSum.drop 1 }
  releaseSignals (passRecord s t x (qsRows s t d) d.dAddr (if d.dRod then 0 else 64 * dBytes d.dtype)) t

/-- What the checker and the shadow say of a MATVEC. -/
def qsVerdict (s : State) (t : Nat) (vec : List Byte) (d : QsDesc) (f : CarryFault) (cs : List (Nat × Nat))
    (pk : Option DWord := none) : Option (Bool × Nat × Nat) :=
  let pp := nines (qsCheckSum s t vec d)
  let qq := nines (cs.foldl (fun a x => a + x.2) 0)
  if !s.flag igBase 0 then none
  else if pp != qq then some (false, pp, qq)
  else if cs.any (fun x => qsBytes s d f x pk != qsBytes s d .none x pk) then some (true, 0, 0)
  else none

/-- The oldest MATVEC in flight replaced. -/
def setMatvec (s : State) (t : Nat) (x : PassInFlight) : State :=
  s.setArray t { s.array t with quickSum := x :: (s.array t).quickSum.drop 1 }

/-- The carries of the groups of 64 outputs, double-buffered (Table 17.3): each group takes the other bank. -/
def keepQsCarries (s : State) (t : Nat) (cs : List (Nat × Nat)) : State :=
  let a := s.array t
  s.setArray t { a with
    qsCarries := cs.foldl (fun m x =>
      tset (fun _ => 0) m ((b2n a.qsBank + x.1 / 64) % 2 * 64 + x.1 % 64) (BitVec.ofNat 32 x.2)) a.qsCarries
    qsBank := if (cs.length + 63) / 64 % 2 = 1 then !a.qsBank else a.qsBank }

/-- A MATVEC behind a parity fault completes without effect (R138). -/
def dropMatvecs (s : State) (t : Nat) : State :=
  s.setArray t { s.array t with quickSum := (s.array t).quickSum.take 1 }

/-- MATVEC_COMPLETE. -/
def matvecComplete (s : State) (t : Nat) (f : CarryFault) : State :=
  match (s.array t).quickSum with
  | [] => s
  | x :: _ =>
    if x.withheld || rodHeld s t then s
    else
      let d := qsDesc x.desc
      let held := { x with withheld := true, steps := 1 + qsSteps x }
      if f = .parity then partFault (dropMatvecs (setMatvec s t held) t) t 4 4
      else
        let s := qsReads s (s.physOf t) d
        let bytes := d.n * spanBytes d.optype d.k + (if d.dRod then 0 else d.n * dBytes d.dtype)
        let s := (s.charge (s.tileRecord d.tag) acKsteps (qsSteps x)).charge (s.tileRecord d.tag) acBoard bytes
        let s := s.bump (qsBase t + 0x60) (1 + qsSteps x - max 1 x.steps)
        let cs := qsCarries s t x.vector d f
        let v := qsVerdict s t x.vector d f cs
        let s := keepQsCarries (qsWrite s t (s.physOf t) d f cs) t cs
        match v with
        | some (sh, pp, qq) =>
          raise (noteMismatch (setMatvec s t held) (s.physOf t)) eResidue 1 t (4 + 8 * b2n sh + x.descAddr * 256)
            (pp + qq * 2 ^ 16)
        | none => finishMatvec s t x

/-! ### Feeder timeout, filler counts, row maps (R125, R129, R133) -/

/-- BA_FEEDER_TIMEOUT: partition p has been frozen for `beats` beats on end by feeder or drain causes. A shorter run
tells that a beat without such a freeze came before it. After the report the freeze stands until its cause clears
(`easeFreeze`). -/
def feederTimeout (s : State) (t p : Nat) (beats : Word) : State :=
  let a := s.array t
  let limit := s.fld (baBase t + 0x14) 15 0
  if limit = 0 || !a.passes.any (·.part = p) then s
  else if beats.toNat < limit then s.setArray t { a with timedOut := tset (fun _ => false) a.timedOut p false }
  else if tget (fun _ => false) a.timedOut p then s
  else raise (s.setArray t { a with timedOut := tset (fun _ => false) a.timedOut p true })
    eFeederTimeout 1 t p beats.toNat

/-- The filler level L of a partition: DENSITY while it is held there, 0 without filler counts (R129). -/
def fillerLevel (s : State) (t p : Nat) : Nat :=
  if !fillerOn s t then 0 else if (fillerOf s t p).held then density s t else (fillerOf s t p).level

/-- A fall of the level is due: from the 256th beat without a K-step on, one every RAMP beats (R129). -/
def fallDue (s : State) (t p : Nat) : Bool :=
  let f := fillerOf s t p
  (presenting s t p).isNone && 1 ≤ fillerLevel s t p && 256 ≤ f.idle && f.falls * fillerRamp s t ≤ f.idle - 256

/-- FILLER_RAMP_DOWN: the filler level of a partition falls by 1 when that is due. -/
def fillerRampDown (s : State) (t p : Nat) : State :=
  if fallDue s t p then
    let f := fillerOf s t p
    setFiller s t p { f with level := fillerLevel s t p - 1, held := false, falls := f.falls + 1 }
  else s

/-! ### Beats of the array (R110, R124, R129, R130, R139) -/

/-- The current beat is a rest beat of tile t (R130). -/
def restBeat (s : State) (t : Nat) : Bool :=
  let r := (s.array t).rest
  let i := s.counter.toNat % 256
  i * r / 256 < (i + 1) * r / 256

/-- A warm-up beat is due before the next first K-step of partition p (R129): in timing-equalised mode a warm-up, due as
otherwise when the level is below DENSITY (R375), lasts DENSITY × RAMP beats once it has begun. -/
def warmupDue (s : State) (t p : Nat) : Bool :=
  let w := (fillerOf s t p).warm
  fillerOn s t && (if s.flag (baBase t) 2 && 1 ≤ w then w < density s t * fillerRamp s t
    else fillerLevel s t p < density s t)

/-- The chain position of logical row r in its partition (R131 and the text before it). -/
def chainPos (s : State) (t r : Nat) : Nat :=
  if r < 16 then rowOf s t r
  else if partMode s t = 0 then rowOf s t r - 1 + b2n (retired s (s.physOf t) false)
  else rowOf s t r - 17

/-- A dependency field, a withheld pass of the partition (R368) or the lock-step window (R413) holds a waiting command. -/
def waitsOnOthers (s : State) (t : Nat) (q : ArrayCommand) : Bool :=
  ((s.core t).arrayQ.head?.map (depsMet s t)) = some false || !depsMet s t q || partWithheld s t (arrPart q.word)
    || lsAhead s t

/-- Why partition p presents no K-step in the current beat, the capacity of the feeders apart: a cause of Table 4.11, or 8
while the tile is stopped for a save, which the table does not count (R126). Of drain back-pressure and lost arbitration
only a freeze that has been reported is known, under a free one of causes 3 to 5 (log entry 78). -/
def holdCause (s : State) (t p : Nat) : Option Nat :=
  if restBeat s t then some 0
  else match presenting s t p with
    | some x =>
      let paced : Bool := x.steps = 0 && passKb x < tget (fun _ => 0) (s.array t).pace p
      if x.steps = 0 && !paced && warmupDue s t p then some 2
      else if tget (fun _ => false) (s.array t).timedOut p then some (3 + s.freeWord.toNat % 3)
      else if paced then some 6
      else if rodHeld s t then some 8 else none
    | none =>
      match (s.core t).arrayQ.find? fun q => !q.quickSum && arrPart q.word = p with
      | none => if rodHeld s t then some 8 else none
      | some q =>
        if mapPending s t p then some 1 else if waitsOnOthers s t q then some 7
        else if rodHeld s t then some 8 else none

/-- Bytes a K-step asks of a feeder that serves `lines` rows or columns (R114). -/
def feedDemand (lines optype : Nat) : Nat := lines * (if optype = 3 ∨ optype = 4 then 64 else 32)

/-- The partitions of n that a feeder of 2,048 B serves in one beat, the last one first: in rotating order from the one
after `last` on, up to the first that no longer fits (R114). -/
def feederServes (last n : Nat) (want : Nat → Option Nat) : List Nat :=
  (((List.range n).map fun i => (last + 1 + i) % n).foldl (fun (a : List Nat × Nat × Bool) p =>
    match want p with
    | none => a
    | some d => if a.2.2 && a.2.1 + d ≤ 2048 then (p :: a.1, a.2.1 + d, true) else (a.1, a.2.1, false)) ([], 0, true)).1

/-- The partitions that the A feeder serves in this beat, and of those the ones that the B feeder serves too (R114).
DESIGN CHOICE (log entry 95): the B feeder chooses among the partitions that the A feeder serves. -/
def fedNow (s : State) (t : Nat) : List Nat × List Nat :=
  let want (lines p : Nat) : Option Nat :=
    match holdCause s t p, presenting s t p with
    | none, some x => some (feedDemand lines (passDesc x.desc).optype)
    | _, _ => none
  let a := feederServes (s.array t).fedA (partCount s t) (want (partRows s t))
  (a, feederServes (s.array t).fedB (partCount s t) fun p => if a.contains p then want (partCols s t) p else none)

/-- Why partition p presents no K-step in a beat in which the feeders serve the partitions `fed`. -/
def freezeCause (s : State) (t p : Nat) (fed : List Nat × List Nat) : Option Nat :=
  match holdCause s t p with
  | some k => some k
  | none =>
    if (presenting s t p).isNone then none
    else if !fed.1.contains p then some 4 else if !fed.2.contains p then some 5 else none

/-- A cause is one of a frozen partition (R124, R126). -/
def freezes (cause : Option Nat) : Bool := cause.any fun k => k ≤ 5 || k = 8

/-- Partition p stands frozen in the current beat (R124). -/
def frozenNow (s : State) (t p : Nat) : Bool := freezes (freezeCause s t p (fedNow s t))

/-- The Quick Sum path stands frozen in the current beat: every rest beat freezes it (R130). -/
def qsFrozen (s : State) (t : Nat) : Bool := restBeat s t || rodHeld s t

/-- Partition p has an admitted or waiting pass that has not presented its last K-step (R139). -/
def partWaiting (s : State) (t p : Nat) : Bool :=
  (presenting s t p).isSome || (s.core t).arrayQ.any fun q => !q.quickSum && arrPart q.word = p

/-- Whether rows of partition p run filler counts in this beat: every row in a frozen beat, and otherwise one that
performs no K-step, because none was presented as many beats ago as its chain position tells. -/
def runsFiller (s : State) (t p : Nat) : Bool :=
  !restBeat s t && 1 ≤ fillerLevel s t p &&
    (frozenNow s t p || (List.range (partRows s t)).any fun r =>
      !(fillerOf s t p).recent.testBit (chainPos s t (logicalRow s t p r)))

/-- A K-step presented by pass x of partition p; after its last one the drain paces the next pass (R110). -/
def presentStep (s : State) (t p : Nat) (x : PassInFlight) : State :=
  let a := s.array t
  let s := s.setArray t { a with
    passes := a.passes.map fun y => if y = x then { x with steps := x.steps + 1 } else y
    pace := if x.steps + 1 = passKb x then tset (fun _ => 0) a.pace p (partCols s t + 1) else a.pace }
  (setFiller s t p { held := true, recent := ((fillerOf s t p).recent * 2 + 1) % 2 ^ 34 }).bump (baBase t + 0x180 + 4 * p) 1

/-- A beat of partition p without a K-step, for a cause: the run of such beats grows, and in a warm-up beat the level
rises by 1 every RAMP beats. -/
def idleBeat (s : State) (t p : Nat) (cause : Option Nat) : State :=
  let f := fillerOf s t p
  let warming := cause = some 2
  let up := warming && (f.warm + 1) % fillerRamp s t = 0 && !f.held && f.level < density s t
  setFiller s t p { f with
    idle := min 8192 (f.idle + 1), warm := if warming then f.warm + 1 else f.warm,
    level := if up then f.level + 1 else f.level
    recent := if freezes cause then f.recent else f.recent * 2 % 2 ^ 34 }

/-- A freeze of partition p that has been reported ends when its cause clears, which lost arbitration decides: a free
choice in each beat, and certainly with no K-step left to present (R125; log entry 78). -/
def easeFreeze (t : Nat) (s : State) (p : Nat) : State :=
  let a := s.array t
  if tget (fun _ => false) a.timedOut p then
    (if s.freeChoice || (presenting s t p).isNone then
      s.setArray t { a with timedOut := tset (fun _ => false) a.timedOut p false }
    else s).drawFree
  else s

/-- One beat of partition p, in which the feeders serve the partitions `fed`. -/
def partBeat (t : Nat) (fed : List Nat × List Nat) (s : State) (p : Nat) : State :=
  let cause := freezeCause s t p fed
  let waiting := partWaiting s t p
  let s' := match cause, presenting s t p with
    | none, some x => presentStep s t p x
    | _, _ => idleBeat s t p cause
  let s' := match cause, waiting with
    | some k, true => if k ≤ 7 then s'.bump (baBase t + 0x100 + 0x20 * p + 4 * k) 1 else s'
    | _, _ => s'
  if freezes cause then s'
  else s'.setArray t { s'.array t with
    pace := tset (fun _ => 0) (s'.array t).pace p (tget (fun _ => 0) (s'.array t).pace p - 1) }

/-- A MATVEC is in progress in the beat: in flight and not withheld, or at the head of the queue (R139). -/
def qsInProgress (s : State) (t : Nat) : Bool :=
  (s.array t).quickSum.any (!·.withheld) || (s.core t).arrayQ.head?.any (·.quickSum)

/-- One beat of the Quick Sum path: frozen in a rest beat, else one more step of the MATVEC that loads or multiplies
(R137, R139). -/
def qsBeat (s : State) (t : Nat) : State :=
  let a := s.array t
  if restBeat s t then (if qsInProgress s t then s.bump (qsBase t + 0x40) 1 else s)
  else
  match a.quickSum.find? fun x => x.steps < 1 + qsSteps x with
  | some x =>
    if rodHeld s t then s
    else
      let s := s.setArray t { a with quickSum := a.quickSum.map fun y => if y = x then { x with steps := x.steps + 1 } else y }
      if x.steps = 0 then s else s.bump (qsBase t + 0x60) 1
  | none =>
    match (s.core t).arrayQ with
    | q :: _ => if q.quickSum && !depsMet s t q then s.bump (qsBase t + 0x4C) 1 else s
    | [] => s

/-- The rest number of a tile for the 256-beat period that begins (R428). -/
def latchRest (s : State) (t : Nat) : State :=
  if s.counter.toNat % 256 = 0 then
    s.setArray t { s.array t with rest := max (s.fld (baBase t + 0x10) 7 0) s.power.rest }
  else s

/-- One beat of the array and the Quick Sum path of tile t. -/
def arrayBeat (s : State) (t : Nat) : State :=
  let s := latchRest s t
  let s := s.forEach (partCount s t) (easeFreeze t)
  let fed := fedNow s t
  let filling := (List.range (partCount s t)).any (runsFiller s t)
  let s := s.setArray t { s.array t with
    fedA := fed.1.head?.getD (s.array t).fedA, fedB := fed.2.head?.getD (s.array t).fedB }
  let s := qsBeat (s.forEach (partCount s t) (partBeat t fed)) t
  if filling then s.bump (baBase t + 0x190) 1 else s

/-- ROW_MAP_SWITCH: the pending map of a half takes effect when no pass is in flight there. -/
def rowMapSwitch (s : State) (p : Nat) (lower : Bool) : State :=
  match tget (fun _ => none) s.integ.rowPending (2 * p + b2n lower) with
  | none => s
  | some v =>
    let busy := match logicalOf s p with
      | some t => (s.array t).passes.any fun x => !x.withheld && inHalf s t x.part lower
      | none => false
    if busy then s
    else
      let s := if lower then s.setFld (physBase p + 4) 13 8 v else s.setFld (physBase p + 4) 4 0 v
      s.onInteg fun g => { g with rowPending := tset (fun _ => none) g.rowPending (2 * p + b2n lower) none }

/-- BA_FAULT bits written with 1 cleared (R122, R138). DESIGN CHOICE (log entry 96): the CAUSE field of a cleared bit
goes on reading the cause it held; the manual says only that it holds until then. -/
def baFaultClear (s : State) (t : Nat) (v : Word) : State :=
  let o := baBase t + 0x18
  s.setReg o (s.reg o &&& ~~~(v &&& mask 4 0))

/-! ### Meanings -/

def execPassAdmit (t : Tile) (s : State) : Host.Outcome State Fault Refusal := .next (s.act fun s => passAdmit s t)
def execPassComplete (t : Tile) (p : Fin 4) (f : CarryFault) (s : State) : Host.Outcome State Fault Refusal :=
  .next (s.act fun s => passComplete s t p f)
def execMatvecStart (t : Tile) (s : State) : Host.Outcome State Fault Refusal :=
  .next (s.act fun s => matvecStart s t)
def execMatvecComplete (t : Tile) (f : CarryFault) (s : State) : Host.Outcome State Fault Refusal :=
  .next (s.act fun s => matvecComplete s t f)
def execBaFeederTimeout (t : Tile) (p : Fin 4) (beats : Word) (s : State) : Host.Outcome State Fault Refusal :=
  .next (s.act fun s => feederTimeout s t p beats)
def execFillerRampDown (t : Tile) (p : Fin 4) (s : State) : Host.Outcome State Fault Refusal :=
  .next (s.act fun s => fillerRampDown s t p)
def execRowMapSwitch (p : PhysTile) (lower : Bool) (s : State) : Host.Outcome State Fault Refusal :=
  .next (s.act fun s => rowMapSwitch s p lower)
def execBaFaultClear (src : Writer) (t : Tile) (val : Word) (s : State) : Host.Outcome State Fault Refusal :=
  .next (s.tileWritten src t (baBase t + 0x18) val fun s => baFaultClear s t val)

end Sys2Proof.Machine
end

