-- ==== Sys2Proof/Machine/RodQueue.lean ====
section
/-! DEFINITION. RodQueue.lean: the rod queue of a tile: when a command starts, what it reads of registers that the array
drains into, how it completes, faults and stalls (R164–R168, R182–R186), and the meanings of the rod commands. -/

namespace Sys2Proof.Machine

/-! ### The queue (R166, R167, R182–R184) -/

/-- Array and Quick Sum commands issued before number n have all completed. -/
def arrayDoneBefore (s : State) (t n : Nat) : Bool :=
  (s.core t).arrayQ.all (n ≤ ·.no) && (s.array t).passes.all (n ≤ ·.cmd.no) &&
    (s.array t).quickSum.all (n ≤ ·.cmd.no)

/-- The rod registers that an array or Quick Sum command in flight drains into (Table 4.3, Table 4.8). -/
def drainRegs (p : PassInFlight) : List Nat :=
  if p.cmd.quickSum then
    let d := qsDesc p.desc
    if d.dRod then
      (List.range ((d.n * 2 ^ min d.dtype 2 + 2047) / 2048)).map fun i => (d.dAddr % 32 + i) % 32
    else []
  else
    let d := passDesc p.desc
    if d.dRod then (List.range (if d.dtype = 2 then 4 else 2)).map fun i => (d.dAddr % 32 + i) % 32 else []

/-- The array and Quick Sum commands in flight that drain into rod registers and that the command does not wait for. -/
def contestedBy (s : State) (t : Nat) (q : RodCommand) : List PassInFlight :=
  if (rodCmd q.word).depArr then []
  else ((s.array t).passes ++ (s.array t).quickSum).filter fun x =>
    x.cmd.no < q.arrBefore && !x.withheld && !(drainRegs x).isEmpty

/-- The holding buffer that a pass will meet, once the passes of its partition before it have drained. -/
def holdingMet (s : State) (t : Nat) (x : PassInFlight) : Tab (BitVec 48) :=
  ((s.array t).passes.filter fun y => y.part = x.part && y.cmd.no < x.cmd.no).foldl
    (fun m y => holdingAfter m y.part (passDesc y.desc) (passCarries s t (passDesc y.desc) .none)) (s.array t).holding

/-- What an outstanding drain will leave in the rod registers: (byte position, byte) pairs. -/
def drainLeaves (s : State) (t : Nat) (x : PassInFlight) : List (Nat × Byte) :=
  let put (pos : Nat) (l : List Byte) : List (Nat × Byte) := (l.zipIdx).map fun b => ((pos + b.2) % 65536, b.1)
  if x.cmd.quickSum then
    let d := qsDesc x.desc
    (qsCarries s t x.vector d .none).flatMap fun y =>
      put (d.dAddr % 32 * 2048 + y.1 * dBytes d.dtype)
        (drainBytes d.dtype (signed 32 y.2) d.shift d.mode (if d.mode = 2 then drainDraw s none d.stream (d.drawBase + y.1) else 0))
  else
    let d := passDesc x.desc
    if stepWrites d.step then
      let hold := holdingMet s t x
      (passCarries s t d .none).flatMap fun y => put (rodDrainPos d y.1.1 y.1.2) (passBytesOf hold s x.part d .none y)
    else []

/-- Rod register bytes as a command reads them: of a register that an outstanding earlier drain writes, each row shows its
old or its new content, as a free choice decides (R182; log entry 4). -/
def rodBytes (s : State) (t : Nat) (q : RodCommand) : RodBytes :=
  let news := ((contestedBy s t q).map (drainLeaves s t)).zipIdx
  fun i =>
    let old := tget (fun _ => 0) (s.rod t).v (i % 65536)
    news.foldl (fun b x =>
      if Config.freeChoice (s.free + 1024 * x.2 + i / 64 % 1024) then
        ((x.1.find? fun e => e.1 = i % 65536).map (·.2)).getD b
      else b) old

/-- Beats that a command occupies the engine for (Table 6.4, R167, R171), arbitration aside. -/
def occupancy (c : RodCmd) : Nat :=
  let t := ((elemOfRod c.type).getD .int8)
  let dt := ((elemOfRod c.dtype).getD .int8)
  let parts := viewParts t
  let regs := max 1 ((parts + viewParts dt - 1) / viewParts dt)
  let o := match c.op with
    | 0x01 | 0x02 => 4
    | 0x00 | 0x03 | 0x04 | 0x05 | 0x06 | 0x07 | 0x1A | 0x1B | 0x1C | 0x1D | 0x1E | 0x25 | 0x26 => 1
    | 0x0A => if t.complex then 8 else 4
    | 0x15 | 0x31 | 0x32 => 4 * regs
    | _ => 4
  if rodStochastic c then max o ((parts + 127) / 128) else o

/-- The flags of a command entered in ROD_EXC, and each enabled one logged once (R183). -/
def raiseFlags (s : State) (t op flags : Nat) : State :=
  let s := s.orReg (rodBase t + 8) (BitVec.ofNat 32 flags)
  s.forEach 4 fun s f =>
    if flags.testBit f && s.flag (rodBase t) f then raise s eRodException 1 t op f else s

/-- The head of the rod queue completed: removed, counted, its summaries posted. -/
def rodComplete (s : State) (t : Nat) (sums : List Word) (busy : Nat) : State :=
  let c := s.core t
  let s := s.setCore t { c with rodQ := c.rodQ.drop 1, rodDone := c.rodDone + 1, sumQ := c.sumQ ++ sums }
  releaseSignals ((s.bump (rodBase t + 0x60) 1).bump (rodBase t + 0x64) busy) t

/-- A rod fault (R184): no effect but zero summaries; the engine FAULTED, the cause recorded and logged. -/
def rodFault (s : State) (t : Nat) (c : RodCmd) (cause : Nat) : State :=
  let s := rodComplete s t (List.replicate (rodPosts c) 0) 0
  let s := s.setReg (rodBase t + 0xC) (BitVec.ofNat 32 (1 + cause * 2 ^ 8 + c.op * 2 ^ 16))
  raise s eRodException 1 t c.op cause

/-- Whether the engine is FAULTED. -/
def rodFaulted (s : State) (t : Nat) : Bool := s.flag (rodBase t + 0xC) 0

/-- The work of a command on the engine. -/
abbrev RodRun := State → RodEngine → RodBytes → RodCmd → Elem → RodEnd

/-- The summaries of a command do not fit the summary queue (R96). -/
def sumsWait (s : State) (t : Nat) (c : RodCmd) : Bool := 8 < (s.core t).sumQ.length + rodPosts c

/-- A command waits for DEP_ARR (R166). -/
def rodDepWaits (s : State) (t : Nat) (q : RodCommand) : Bool :=
  (rodCmd q.word).depArr && !arrayDoneBefore s t q.arrBefore

/-- The head of tile t's rod queue run, when its opcode is `op` or is a reserved one: it starts when DEP_ARR is met and
no save holds the engine, and it completes when its summaries fit (R96, R166, R185). While the engine is FAULTED it
completes at once (R184). `parity`: it meets a parity error of a rod, mask or broadcast register or of the queue, which is
judged before the fields that the error leaves in doubt (Table 6.7, cause 11; log entry 63). -/
def rodRun (t op : Nat) (run : RodRun) (parity : Bool) (s : State) : State :=
  s.act fun s =>
    match (s.core t).rodQ with
    | [] => s
    | q :: _ =>
      let c := rodCmd q.word
      if c.op ≠ op ∧ (rodUses c.op).isSome then s
      else if rodHeld s t || sumsWait s t c then s
      else if rodFaulted s t then rodComplete s t (List.replicate (rodPosts c) 0) 0
      else if rodDepWaits s t q then s
      else if parity then rodFault s t c 11
      else if rodBad c then rodFault s t c 8
      else
        let rd := rodBytes s t q
        let free := 1024 * (contestedBy s t q).length
        let finish (o : RodOut) (s : State) : State :=
          raiseFlags (rodComplete ((s.drawFree free).setRod t o.eng) t o.sums (occupancy c + if o.wide then 4 else 0))
            t c.op o.flags
        match run s (s.rod t) rd c ((elemOfRod c.type).getD .int8) with
        | .fault k => rodFault s t c k
        | .ok o => finish o s
        | .mem o s => finish o s

/-- Why a command in the queue of tile t has not started, as far as the queues tell (Table 6.12): DEP_ARR of the head, or
a head held at its completion by the summary queue; of the command behind such a head the lower cause counts. -/
def rodStallCause (s : State) (t : Nat) : Option Nat :=
  match (s.core t).rodQ with
  | [] => none
  | q :: r =>
    if rodFaulted s t || rodHeld s t then none
    else if rodDepWaits s t q then some 1
    else if sumsWait s t (rodCmd q.word) then r.head?.map fun x => if rodDepWaits s t x then 1 else 2
    else none

/-- One beat of the rod engine of tile t: a stall charged to its cause (R186). -/
def rodBeat (s : State) (t : Nat) : State := match rodStallCause s t with
  | some k => s.bump (rodBase t + 0x40 + 4 * k) 1
  | none => s

/-- ROD_FAULT.FAULT written with 1: the engine resumes (R184). -/
def rodFaultClear (s : State) (t : Nat) (v : Word) : State :=
  if bit v 0 then s.setFld (rodBase t + 0xC) 0 0 0 else s

/-! ### Meanings -/

/-- The effect of NOP on the engine. -/
def rodNothing : RodRun := fun _ e _ _ _ => .ok { eng := e }

def execRodNop (t : RodTurn) (s : State) : Host.Outcome State Fault Refusal :=
  .next (rodRun t.tile 0x00 rodNothing t.parity s)
def execRodLdr (t : RodTurn) (s : State) : Host.Outcome State Fault Refusal :=
  .next (rodRun t.tile 0x01 (rodLdr t.tile) t.parity s)
def execRodStr (t : RodTurn) (s : State) : Host.Outcome State Fault Refusal :=
  .next (rodRun t.tile 0x02 (rodStr t.tile) t.parity s)
def execRodLdm (t : RodTurn) (s : State) : Host.Outcome State Fault Refusal :=
  .next (rodRun t.tile 0x03 (rodLdm t.tile) t.parity s)
def execRodStm (t : RodTurn) (s : State) : Host.Outcome State Fault Refusal :=
  .next (rodRun t.tile 0x04 (rodStm t.tile) t.parity s)
def execRodBset (t : RodTurn) (s : State) : Host.Outcome State Fault Refusal :=
  .next (rodRun t.tile 0x05 rodBset t.parity s)
def execRodDrawset (t : RodTurn) (s : State) : Host.Outcome State Fault Refusal :=
  .next (rodRun t.tile 0x06 rodDrawset t.parity s)
def execRodClipflush (t : RodTurn) (s : State) : Host.Outcome State Fault Refusal :=
  .next (rodRun t.tile 0x07 (rodClipflush t.tile) t.parity s)
def execRodAdd (t : RodTurn) (s : State) : Host.Outcome State Fault Refusal :=
  .next (rodRun t.tile 0x08 rodArith t.parity s)
def execRodSub (t : RodTurn) (s : State) : Host.Outcome State Fault Refusal :=
  .next (rodRun t.tile 0x09 rodArith t.parity s)
def execRodMul (t : RodTurn) (s : State) : Host.Outcome State Fault Refusal :=
  .next (rodRun t.tile 0x0A rodArith t.parity s)
def execRodMin (t : RodTurn) (s : State) : Host.Outcome State Fault Refusal :=
  .next (rodRun t.tile 0x0B rodArith t.parity s)
def execRodMax (t : RodTurn) (s : State) : Host.Outcome State Fault Refusal :=
  .next (rodRun t.tile 0x0C rodArith t.parity s)
def execRodAbs (t : RodTurn) (s : State) : Host.Outcome State Fault Refusal :=
  .next (rodRun t.tile 0x0D rodUnary t.parity s)
def execRodNeg (t : RodTurn) (s : State) : Host.Outcome State Fault Refusal :=
  .next (rodRun t.tile 0x0E rodUnary t.parity s)
def execRodShr (t : RodTurn) (s : State) : Host.Outcome State Fault Refusal :=
  .next (rodRun t.tile 0x0F rodShift t.parity s)
def execRodShl (t : RodTurn) (s : State) : Host.Outcome State Fault Refusal :=
  .next (rodRun t.tile 0x10 rodShift t.parity s)
def execRodAnd (t : RodTurn) (s : State) : Host.Outcome State Fault Refusal :=
  .next (rodRun t.tile 0x11 rodLogic t.parity s)
def execRodOr (t : RodTurn) (s : State) : Host.Outcome State Fault Refusal :=
  .next (rodRun t.tile 0x12 rodLogic t.parity s)
def execRodXor (t : RodTurn) (s : State) : Host.Outcome State Fault Refusal :=
  .next (rodRun t.tile 0x13 rodLogic t.parity s)
def execRodSel (t : RodTurn) (s : State) : Host.Outcome State Fault Refusal :=
  .next (rodRun t.tile 0x14 rodSelect t.parity s)
def execRodCvt (t : RodTurn) (s : State) : Host.Outcome State Fault Refusal :=
  .next (rodRun t.tile 0x15 rodCvt t.parity s)
def execRodMov (t : RodTurn) (s : State) : Host.Outcome State Fault Refusal :=
  .next (rodRun t.tile 0x16 rodMove t.parity s)
def execRodCmplt (t : RodTurn) (s : State) : Host.Outcome State Fault Refusal :=
  .next (rodRun t.tile 0x18 rodCompare t.parity s)
def execRodCmpeq (t : RodTurn) (s : State) : Host.Outcome State Fault Refusal :=
  .next (rodRun t.tile 0x19 rodCompare t.parity s)
def execRodMand (t : RodTurn) (s : State) : Host.Outcome State Fault Refusal :=
  .next (rodRun t.tile 0x1A rodMaskOp t.parity s)
def execRodMor (t : RodTurn) (s : State) : Host.Outcome State Fault Refusal :=
  .next (rodRun t.tile 0x1B rodMaskOp t.parity s)
def execRodMxor (t : RodTurn) (s : State) : Host.Outcome State Fault Refusal :=
  .next (rodRun t.tile 0x1C rodMaskOp t.parity s)
def execRodMnot (t : RodTurn) (s : State) : Host.Outcome State Fault Refusal :=
  .next (rodRun t.tile 0x1D rodMaskOp t.parity s)
def execRodMset (t : RodTurn) (s : State) : Host.Outcome State Fault Refusal :=
  .next (rodRun t.tile 0x1E rodMaskOp t.parity s)
def execRodRsum (t : RodTurn) (s : State) : Host.Outcome State Fault Refusal :=
  .next (rodRun t.tile 0x20 rodReduce t.parity s)
def execRodRmax (t : RodTurn) (s : State) : Host.Outcome State Fault Refusal :=
  .next (rodRun t.tile 0x21 rodReduce t.parity s)
def execRodRmin (t : RodTurn) (s : State) : Host.Outcome State Fault Refusal :=
  .next (rodRun t.tile 0x22 rodReduce t.parity s)
def execRodArgmax (t : RodTurn) (s : State) : Host.Outcome State Fault Refusal :=
  .next (rodRun t.tile 0x23 rodArg t.parity s)
def execRodArgmin (t : RodTurn) (s : State) : Host.Outcome State Fault Refusal :=
  .next (rodRun t.tile 0x24 rodArg t.parity s)
def execRodCount (t : RodTurn) (s : State) : Host.Outcome State Fault Refusal :=
  .next (rodRun t.tile 0x25 rodCount t.parity s)
def execRodAny (t : RodTurn) (s : State) : Host.Outcome State Fault Refusal :=
  .next (rodRun t.tile 0x26 rodCount t.parity s)
def execRodCompress (t : RodTurn) (s : State) : Host.Outcome State Fault Refusal :=
  .next (rodRun t.tile 0x28 rodCompress t.parity s)
def execRodExpand (t : RodTurn) (s : State) : Host.Outcome State Fault Refusal :=
  .next (rodRun t.tile 0x29 rodExpand t.parity s)
def execRodMeasure (t : RodTurn) (s : State) : Host.Outcome State Fault Refusal :=
  .next (rodRun t.tile 0x30 rodMeasure t.parity s)
def execRodApply (t : RodTurn) (s : State) : Host.Outcome State Fault Refusal :=
  .next (rodRun t.tile 0x31 rodApply t.parity s)
def execRodDequant (t : RodTurn) (s : State) : Host.Outcome State Fault Refusal :=
  .next (rodRun t.tile 0x32 rodDequant t.parity s)
def execRodFaultClear (src : Writer) (t : Tile) (val : Word) (s : State) : Host.Outcome State Fault Refusal :=
  .next (s.tileWritten src t (rodBase t + 0xC) val fun s => rodFaultClear s t val)

end Sys2Proof.Machine
end

