-- ==== Sys2Proof/Machine/Slide.lean ====
section
/-! DEFINITION. Slide.lean: the slide engines (Slide Engines and Prefetch).

A channel reads its source unit by unit into its buffer blocks and writes its destination unit by unit from them. Beats
serve one read and one write of each engine; the commands that report progress move a channel on up to what they report
(log entry 26). Accesses at the peer are answered by flits of the bridge (R405). Registers as an endpoint are reached through a `SlideBus`, which Machine/SlideMove.lean gives. -/

namespace Sys2Proof.Machine

/-! ### Tallies and accounting of a descriptor -/

/-- An ADD by slide engine e: through the tile's journal for a tile engine, and to the peer for a KIND 3 tally. -/
def slideAdd (s : State) (e n a : Nat) : State :=
  if e < 16 then shareOperation (tileAdd s e n a 3) n false (BitVec.ofNat 32 a) else tallyAdd s n a 3 e

/-- Whether a TAKE by engine e succeeds, and the TAKE. -/
def slideTakes (s : State) (e n : Nat) : Bool := if e < 16 then tileTakes s e n else tallyTakes s n
def slideTake (s : State) (e n : Nat) : State := if e < 16 then tileTake s e n else tallyTake s n

/-- The accounting field of a memory (R267). -/
def targetField : Target → Option Nat
  | .hbm _ => some acHbm
  | .common _ | .board _ _ => some acBoard
  | .host _ => some acPcie
  | .peer _ => some acBridge
  | .register _ | .hole => none

/-- The record of a descriptor's tag. -/
def slideRecord (s : State) (e : Nat) (d : SlideDesc) : Nat := if e < 16 then s.tileRecord d.tag else s.recordOf d.tag

/-- n bytes charged to a descriptor's tag at the memory of address a. -/
def chargeAt (s : State) (e : Nat) (d : SlideDesc) (a n : Nat) : State :=
  match targetOf a, targetField (targetOf a) with
  | .common _, _ => s.chargeBoard (slideRecord s e d) n true
  | _, some k => s.charge (slideRecord s e d) k n
  | _, none => s

/-! ### Addresses (R214, R221) -/

/-- Device address of byte `pos` of a descriptor at the source. -/
def srcAddr (d : SlideDesc) (pos : Nat) : Nat :=
  let j := pos / (d.len0 * d.n1)
  let i := pos / d.len0 % d.n1
  pattern 48 ((d.src : Int) + j * d.sstr2 + i * d.sstr1 + pos % d.len0)

/-- Device address of byte `pos` at the destination; a STREAM's byte goes to the ring block at position `ring`. -/
def dstAddr (d : SlideDesc) (ring pos : Nat) : Nat :=
  if d.stream then pattern 48 ((d.dst + ring * 512 + pos % 512 : Nat) : Int)
  else
    let j := pos / (d.len0 * d.n1)
    let i := pos / d.len0 % d.n1
    pattern 48 ((d.dst : Int) + j * d.dstr2 + i * d.dstr1 + pos % d.len0)

/-- Ring position of a channel (SLIDE_CHn_RING_POS). -/
def ringPos (s : State) (e ch : Nat) : Nat := (s.chan e ch).ringAt

/-! ### Accesses (R218, R230) -/

/-- How an engine reaches the register space (R215): a read of n bytes from an offset on, and a write of (offset, byte)
pairs of one word. -/
structure SlideBus where
  read : State → Nat → Nat → List Byte × State
  write : State → List (Nat × Byte) → State

/-- Whether an access to a device address fails: an unpopulated address, or the peer while the link is not UP. -/
def accessFails (s : State) (a : Nat) : Bool :=
  match targetOf a with
  | .hole => true
  | .peer _ => !bridgeUp s
  | _ => false

/-- Whether an access waits for a spare-tile swap: it names the board or the window of the tile being swapped (R35). -/
def accessHeld (s : State) (a : Nat) : Bool :=
  match targetOf a with
  | .board t _ => s.swapping t
  | .register o => match blockOf o with
    | (.tile t _, _) => s.swapping t
    | _ => false
  | _ => false

/-- Bytes read by engine e on this device; the peer answers its own. -/
def slideRead (bus : SlideBus) (s : State) (e a n : Nat) : List Byte × State :=
  match s.storeOf (targetOf a) with
  | some w => dataRead s w n (.slide e)
  | none =>
    match targetOf a with
    | .register o => bus.read s o n
    | _ => ([], s)

/-- The register offset of a device address. -/
def registerOf (a : Nat) : Option Nat := match targetOf a with
  | .register o => some o
  | _ => none

/-- (Device address, byte) pairs of one destination unit on this device written by engine e. -/
def slideWrite (bus : SlideBus) (s : State) (e : Nat) (l : List (Nat × Byte)) : State :=
  let regs := l.filterMap fun x => (registerOf x.1).map fun o => (o, x.2)
  if regs.isEmpty then memWriteMasked s (l.filterMap fun x => (s.storeOf (targetOf x.1)).map fun w => (w, x.2)) (.slide e)
  else bus.write s regs

/-- Bytes of one access unit of the endpoint that an address names (R218); a register is reached word by word. -/
def accessUnit (a : Nat) (write : Bool) : Nat :=
  match targetOf a with
  | .board _ _ | .common _ => 128
  | .host _ => if write then 256 else 512
  | .register _ => 4
  | _ => 64

/-- Bytes of the source unit at `rd` that the descriptor reads: up to the end of the run and of the buffer block. -/
def readLen (d : SlideDesc) (rd : Nat) : Nat :=
  let a := srcAddr d rd
  let u := accessUnit a false
  min (min (d.len0 - rd % d.len0) (512 - rd % 512)) (u - a % u)

/-- How many bytes from `pos` on, at most `fuel`, fall one after another into unit `unit` of u bytes, each at a place of
its own there; `seen` are the places taken so far. -/
def gathered (d : SlideDesc) (ring u unit : Nat) : Nat → Nat → Nat → Nat
  | 0, _, _ => 0
  | fuel + 1, seen, pos =>
    let a := dstAddr d ring pos
    if a / u = unit && !seen.testBit (a % u) then 1 + gathered d ring u unit fuel (seen ||| 1 <<< (a % u)) (pos + 1) else 0

/-- Bytes of the destination unit at `pos` that the descriptor places in it from there on (R218; log entry 26): of however
many runs and planes follow one another in it; of a STREAM, within the ring block. -/
def writeLen (d : SlideDesc) (ring pos : Nat) : Nat :=
  let a := dstAddr d ring pos
  let u := accessUnit a true
  let limit := if d.stream then 512 - pos % 512 else slideTotal d - pos
  gathered d ring u (a / u) (min u limit) 0 pos

/-- Bytes `l` at their destination addresses, the first of them byte `pos` of the descriptor. -/
def destBytes (d : SlideDesc) (ring pos : Nat) (l : List Byte) : List (Nat × Byte) :=
  l.mapIdx fun i b => (dstAddr d ring (pos + i), b)

/-! ### Acceptance (R210, R211, R215, R245) -/

/-- Descriptors that a channel may hold, and that an engine may have in flight (Table 8.1). -/
def channelLimit (e : Nat) : Nat := if e < 16 then 128 else 512

/-- Whether a byte address range lies in Mequel's HBM region or in the register space. -/
def privileged (a n : Nat) : Bool :=
  (mequelLo < a + n && a < hbmSize) || (0x20_0000_0000 < a + n && a < 0x20_0400_0000) || 2 ^ 48 + mequelLo < a + n

/-- Ring and ring position that a channel will have after descriptor d, of which `rest` bytes are still to move (R221). -/
def ringAfter (x : Option (Nat × Nat) × Nat) (d : SlideDesc) (rest : Nat) : Option (Nat × Nat) × Nat :=
  if !d.stream || d.bad then x
  else
    let at0 := if x.1 = some (d.dst, d.ringLen) then x.2 else 0
    (some (d.dst, d.ringLen), (at0 + (rest + 511) / 512) % max 1 d.ringLen)

/-- The ring position at which a STREAM descriptor accepted now will start. -/
def ringStart (c : SlideChannel) (d : SlideDesc) : Nat :=
  let x := match c.q with
    | [] => (c.ring, c.ringAt)
    | h :: r => r.foldl (fun x y => ringAfter x y (slideTotal y)) (ringAfter (c.ring, c.ringAt) h (slideTotal h - c.pos))
  if x.1 = some (d.dst, d.ringLen) then x.2 else 0

/-- Whether a run or ring block that a descriptor of channel c reads or writes touches what only a PRIV channel may. -/
def slidePrivileged (c : SlideChannel) (d : SlideDesc) : Bool :=
  ((List.range (d.n1 * d.n2)).any fun k =>
    let pos := k * d.len0
    privileged (srcAddr d pos) d.len0 || !d.stream && privileged (dstAddr d 0 pos) d.len0) ||
    d.stream && (List.range (min d.ringLen ((slideTotal d + 511) / 512))).any fun i =>
      privileged (dstAddr d ((ringStart c d + i) % max 1 d.ringLen) 0) 512

/-- Fields of SLIDE_CHn_CFG. -/
def chEnabled (s : State) (e ch : Nat) : Bool := s.flag (chBase e ch) 31
def chPriv (s : State) (e ch : Nat) : Bool := s.flag (chBase e ch) 30
def chRegulated (s : State) (e ch : Nat) : Bool := s.flag (chBase e ch) 29
def chRes (s : State) (e ch : Nat) : Nat := s.fld (chBase e ch) 15 8
def chMax (s : State) (e ch : Nat) : Nat := max (chRes s e ch) (min 128 (s.fld (chBase e ch) 23 16))

/-- The tallies that a descriptor names. -/
def slideTallies (d : SlideDesc) : List Nat :=
  (if d.noCtally then [] else [d.ctally]) ++ (if d.noKtally then [] else [d.ktally])

/-- A tally outside the namespace that the descriptor names (R245); a central PRIV channel may name any. -/
def slideOutside (s : State) (e : Nat) (d : SlideDesc) : Option Nat :=
  if 16 ≤ e && chPriv s e d.channel then none else (slideTallies d).find? fun n => !inNamespace s n

/-- SLIDE_BUS_ERR (Table 13.3). -/
def logBusErr (s : State) (e ch cause addr : Nat) : State :=
  raise s eSlideBus 3 e (ch + cause * 64 + addr / 2 ^ 32 % 2 ^ 16 * 2 ^ 16) (addr % 2 ^ 32)

/-- A channel halts (R232): the cause and address recorded and logged. -/
def haltChannel (s : State) (e ch cause addr : Nat) : State :=
  let c := s.chan e ch
  let s := s.setChan e ch { c with status := .halted, haltCause := cause, invalid := cause = 1, failed := none }
  let s := s.setReg64 (chBase e ch + 0xC) addr
  let s := s.orReg (chBase e ch + 8) 0x10
  logBusErr s e ch cause addr

/-- Channel ch of engine e is at work: ACTIVE, and not HELD for a pre-emption save of its tile, which ends with the switch
(R216, R238). -/
def chActive (s : State) (e ch : Nat) : Bool := (s.chan e ch).status = .active && !(e < 16 && rodHeld s e)

/-- The peer reads of tile t's channels that the RUNNING job recorded at a save (R261). -/
def shadowReadsOf (s : State) (t : Nat) : List PeerRead :=
  match s.tileSlot with
  | some k => tget (fun _ => []) s.bridge.shadowReads (16 * k + t)
  | none => []

/-- A read that the shadow area stands for holds the channel until it lands (R261). -/
def shadowPending (s : State) (e ch : Nat) : Bool := e < 16 && (shadowReadsOf s e).any fun x => x.channel = ch

/-- Peer accesses of channel ch that its current descriptor waits for: the reads, or the writes. -/
def peerOut (s : State) (e ch : Nat) (write : Bool) : List PeerTransaction :=
  s.bridge.outstanding.filter fun x => x.engine = e && x.channel = ch && x.write == write && !x.drops

/-- Bytes of the peer accesses that a channel waits for. -/
def peerBytes (s : State) (e ch : Nat) (write : Bool) : Nat := (peerOut s e ch write).foldl (fun n x => n + x.len) 0

/-- Bytes of the head asked for at the source, and sent to the destination. -/
def askedTo (s : State) (e ch : Nat) : Nat := (s.chan e ch).rd + peerBytes s e ch false
def sentTo (s : State) (e ch : Nat) : Nat := (s.chan e ch).pos + peerBytes s e ch true

/-- The peer address of a device address (R400). -/
def peerOf (a : Nat) : Option Nat := match targetOf a with
  | .peer x => some x
  | _ => none

/-- The resident slot on whose REQ credits an engine's accesses go: that of the RUNNING job. -/
def peerSlot (s : State) : Nat := s.tileSlot.getD 0

/-- A central channel with PRIV (R401). -/
def peerPriv (s : State) (e ch : Nat) : Bool := 16 ≤ e && s.flag (chBase e ch) 30

/-- Whether a request of the RUNNING job may be sent: its traffic may, and a REQ credit is held (R264, R402). -/
def requestOpen (s : State) : Bool := bridgeOpen s (peerSlot s) && creditsOf s .req (peerSlot s) ≠ 0

/-- The number of a new peer transaction. -/
def freshId (s : State) : Nat := s.bridge.outstanding.foldl (fun m x => max m (x.id + 1)) 0

/-- A peer access sent: one REQ credit spent, and the transaction waits for its answer (R402, R409). -/
def issuePeer (s : State) (x : PeerTransaction) (m : Sent) : State :=
  ((spendCredit s .req (peerSlot s)).send m).onBridge fun b => { b with
    outstanding := b.outstanding ++ [{ x with since := s.counter.toNat }] }

/-- A read of n bytes at peer address a, for byte `pos` of the descriptor on. -/
def askPeer (s : State) (e ch a pos n : Nat) : State :=
  let id := freshId s
  issuePeer s { id := id, engine := e, channel := ch, addr := a, pos := pos, len := n }
    (.peerRead id (peerSlot s) (peerPriv s e ch) a n)

/-- A write at the peer of (peer address, byte) pairs, the first of which is byte `pos` of the descriptor. -/
def tellPeer (s : State) (e ch pos : Nat) (l : List (Nat × Byte)) : State :=
  let id := freshId s
  let a := l.foldl (fun m x => min m x.1) (l.headD (0, 0)).1
  issuePeer s { id := id, engine := e, channel := ch, addr := a, write := true, pos := pos, len := l.length }
    (.peerWrite id (peerSlot s) (peerPriv s e ch) a (l.map fun x => (x.1 - a, x.2)))

/-- What channel ch still waits for from the peer is dropped when it comes; the accesses are made again. -/
def forgetPeer (s : State) (e ch : Nat) : State :=
  if s.bridge.outstanding.all fun x => x.drops || !(x.engine = e && x.channel = ch) then s
  else s.onBridge fun b => { b with outstanding := b.outstanding.map fun x =>
    if x.engine = e && x.channel = ch then { x with drops := true } else x }

/-- A buffer block of engine e is returned (R225). -/
def blockReturned (s : State) (e : Nat) : State :=
  if (s.engine e).quiet = 0 then s else s.setEngine e { s.engine e with quiet := 0 }

/-- The channel turns to the descriptor at its head: IDLE when there is none, HALTED when it is invalid, otherwise
ACTIVE. -/
def turnToHead (s : State) (e ch : Nat) : State :=
  let s := if (s.chan e ch).taken = 0 then s else blockReturned s e
  let c := s.chan e ch
  let c := { c with
    pos := 0, rd := 0, held := [], slots := [], tail := [], taken := 0, returned := 0, creditsTaken := 0,
    failed := none, waitOn := none, resumes := false, backBlock := false, waited := 0 }
  match c.q with
  | [] => s.setChan e ch { c with status := .idle }
  | d :: _ =>
    if d.bad then haltChannel (s.setChan e ch c) e ch 1 d.addr
    else
      let fresh := d.stream && c.ring ≠ some (d.dst, d.ringLen)
      s.setChan e ch { c with
        status := .active, ring := if d.stream then some (d.dst, d.ringLen) else c.ring,
        ringAt := if fresh then 0 else c.ringAt }

/-- A descriptor joins its channel. -/
def enqueueDesc (s : State) (e : Nat) (d : SlideDesc) : State :=
  let c := s.chan e d.channel
  let s := s.setChan e d.channel { c with q := c.q ++ [d] }
  if c.status = .idle then turnToHead s e d.channel else s

/-- Store address of a descriptor that Ledger submits: Ledger SRAM, or with bit 31 the common board (log entry 25). -/
def submitStore (a : Word) : Nat := if bit a 31 then commonStore (a.toNat % 2 ^ 27) else sramStore (a.toNat % 2 ^ 31)

/-- The descriptor at the head of engine e's source, with its bytes, and the state with the reads made. -/
def peekDesc (s : State) (e : Nat) : Option (List Byte × SlideDesc × State) :=
  if e < 16 then
    match (s.core e).slideQ with
    | a :: _ =>
      let (l, s) := memRead s (s.boardStore e (a.toNat % 2 ^ 25)) 64 (.tileUnit 9)
      some (l, { slideDesc l a.toNat with no := (s.core e).slideIssued - (s.core e).slideQ.length }, s)
    | [] => none
  else
    match (s.engine e).submitted with
    | a :: _ =>
      let (l, s) := memRead s (submitStore a) 64 (.slide e)
      some (l, slideDesc l a.toNat, s)
    | [] => none

/-- The source's head taken. -/
def popDesc (s : State) (e : Nat) : State :=
  if e < 16 then s.setCore e { s.core e with slideQ := (s.core e).slideQ.drop 1 }
  else s.setEngine e { s.engine e with submitted := (s.engine e).submitted.drop 1 }

/-- An address that cannot name a descriptor of a tile engine: not a multiple of 64, or off the board (R211). -/
def descAddrOk (e : Nat) (d : SlideDesc) : Bool := 16 ≤ e || (d.addr % 64 = 0 && onBoard d.addr 64)

/-- SLIDE_DESCRIPTOR_ACCEPT: the head of the source, when it is a COPY and its channel has room. -/
def acceptDesc (s : State) (e : Nat) : State :=
  match peekDesc s e with
  | none => s
  | some (l, d, s') =>
    if descAddrOk e d && d.cancel then s
    else if descAddrOk e d && chEnabled s e d.channel && channelLimit e ≤ (s.chan e d.channel).q.length then s
    else
      let s := popDesc s' e
      let outside := if descAddrOk e d then slideOutside s e d else none
      let ok := descAddrOk e d && slideFieldsOk l d && outside.isNone
        && (chPriv s e d.channel || !slidePrivileged (s.chan e d.channel) d)
      let s := match outside with
        | some n => raise s eNamespace 1 e d.addr n
        | none => s
      if !descAddrOk e d || !chEnabled s e d.channel then logBusErr s e d.channel 1 d.addr
      else enqueueDesc s e { d with bad := !ok }

/-! ### Moving (R212, R221, R222, R231, R232) -/

/-- An access of channel ch failed at an address: it waits for its retry, or with RETRY_LIMIT 0 the channel halts.
Accesses at the peer that follow it are made again after it. -/
def accessFailed (s : State) (e ch a : Nat) : State :=
  let s := forgetPeer s e ch
  if s.fld (slideBase e) 3 0 = 0 then haltChannel s e ch 0 a
  else s.setChan e ch { s.chan e ch with failed := some (a, 0) }

/-- Signals of a tile's digit core that waited for a copy are applied (R242). -/
def slideReleases (s : State) (e : Nat) : State := if e < 16 then releaseSignals s e else s

/-- The descriptor at the head completes: counted, and the next one begins. -/
def finishDesc (s : State) (e ch : Nat) : State :=
  let c := s.chan e ch
  let s := s.setChan e ch { c with q := c.q.drop 1 }
  slideReleases (turnToHead (s.bump (chBase e ch + 0x1C) 1) e ch) e

/-! ### Buffer blocks, credits and tokens (R219, R222, R223) -/

/-- Buffer blocks that a channel holds. -/
def heldBlocks (c : SlideChannel) : Nat := c.taken - c.returned - c.slots.length + b2n c.backBlock + c.dropBlocks

/-- Buffer blocks of an engine that channels hold beyond their reserve, and the pool they come from (R219). -/
def poolUsed (s : State) (e : Nat) : Nat :=
  (List.range 32).foldl (fun n ch => n + (heldBlocks (s.chan e ch) - chRes s e ch)) 0
def poolSizeOf (s : State) (e : Nat) : Nat :=
  128 - (List.range 32).foldl (fun n ch => n + if chEnabled s e ch then chRes s e ch else 0) 0

/-- Whether a channel may take one more buffer block (R219). -/
def blockFree (s : State) (e ch : Nat) : Bool :=
  let n := heldBlocks (s.chan e ch)
  n < chMax s e ch && (n < chRes s e ch || poolUsed s e < poolSizeOf s e)

/-- The next block of the descriptor at the head needs no consumer credit of its own, or has one (R222). -/
def creditHere (s : State) (e ch : Nat) (d : SlideDesc) : Bool :=
  let c := s.chan e ch
  !d.stream || chRegulated s e ch || d.noKtally || c.taken < c.pos / 512 + c.creditsTaken

/-- Channel ch needs a buffer block for its next read: of the spill area, or of a new block of the source whose credit,
where it needs one, is taken (R219, R222, R226). -/
def wantsBlock (s : State) (e ch : Nat) : Bool :=
  let c := s.chan e ch
  match c.q with
  | [] => false
  | d :: _ =>
    chActive s e ch &&
      if !c.slots.isEmpty then !c.backBlock
      else c.taken * 512 ≤ askedTo s e ch && askedTo s e ch < slideTotal d && creditHere s e ch d

/-- That block taken, where R219 allows it. -/
def blockStep (s : State) (e ch : Nat) : Option State :=
  let c := s.chan e ch
  if !wantsBlock s e ch || !blockFree s e ch then none
  else some (s.setChan e ch (if c.slots.isEmpty then { c with taken := c.taken + 1 } else { c with backBlock := true }))

/-- Channels by priority: the lower PRIO number first, and of equal ones the lower channel (R219). -/
def byPriority (s : State) (e : Nat) : List Nat :=
  (List.range 8).flatMap fun p => (List.range 32).filter fun ch => s.fld (chBase e ch) 26 24 = p

/-- The buffer blocks that the channels of an engine ask for in a beat (R219). -/
def grantBlocks (s : State) (e : Nat) : State :=
  (byPriority s e).foldl (fun s ch => (blockStep s e ch).getD s) s

/-- BURST × 512 bytes, a BURST of 0 acting as 1 (Table 8.9). -/
def burstBytes (s : State) (e ch : Nat) : Nat := 512 * max 1 (s.fld (chBase e ch + 4) 31 24)

/-- The bytes that a channel's bucket holds: with RATE 0 it is always full (R223). -/
def tokenLevel (s : State) (e ch : Nat) : Nat :=
  if s.fld (chBase e ch + 4) 15 0 = 0 then burstBytes s e ch
  else min (burstBytes s e ch) ((s.chan e ch).tokens.getD (burstBytes s e ch))

/-- A read of n bytes finds too few tokens. -/
def tokensShort (s : State) (e ch n : Nat) : Bool := s.fld (chBase e ch + 4) 15 0 ≠ 0 && tokenLevel s e ch < n

/-- The tokens of a read of n bytes taken. -/
def tokensAfter (s : State) (e ch n : Nat) : Option Nat :=
  if s.fld (chBase e ch + 4) 15 0 = 0 then none else some (tokenLevel s e ch - n)

/-! ### Moving (R212, R218, R221, R231, R232) -/

/-- What became of a step of a channel: nothing to do or not ready, one unit moved, a block or descriptor finished, or an
access that failed. -/
inductive Stepped
  | no
  | part (s : State)
  | done (s : State)
  | failed (s : State)

/-- The state after a step that does something. -/
def Stepped.state : Stepped → Option State
  | .no => none
  | .part s => some s
  | .done s => some s
  | .failed s => some s

/-- Device address of a slot of the spill area, and its store address (R225); none where nothing is there. -/
def spillAddr (s : State) (e slot : Nat) : Nat := s.reg64 (slideBase e + 8) + slot * 512
def spillStore (s : State) (e slot : Nat) : Option Nat := s.storeOf (targetOf (spillAddr s e slot))

/-- The next spilled block read back into the buffer block taken for it (R226). -/
def readBack (s : State) (e ch : Nat) (d : SlideDesc) : Stepped :=
  let c := s.chan e ch
  match c.slots with
  | [] => .no
  | k :: r =>
    if !c.backBlock then .no
    else match spillStore s e k with
      | none => .failed (accessFailed s e ch (spillAddr s e k))
      | some a =>
        let n := min 512 (slideTotal d - (c.pos + c.held.length))
        let (l, s) := memRead s a n (.slide e)
        let c := s.chan e ch
        .part ((s.setChan e ch { c with
          slots := r, backBlock := false, held := c.held ++ l ++ (if r.isEmpty then c.tail else []),
          tail := if r.isEmpty then [] else c.tail }).charge (slideRecord s e d) acHbm n)

/-- Bytes that have come from the source join the channel's data: behind the spilled blocks where there are some. -/
def landBytes (c : SlideChannel) (l : List Byte) : SlideChannel :=
  if c.slots.isEmpty then { c with rd := c.rd + l.length, held := c.held ++ l }
  else { c with rd := c.rd + l.length, tail := c.tail ++ l }

/-- Line reads that a channel may have outstanding (Table 8.1). -/
def readsAllowed : Nat := 16

/-- The source unit at the read position asked for, its block at hand: what this device holds comes at once, and what the
peer holds with its answer. -/
def readUnit (bus : SlideBus) (s : State) (e ch : Nat) (d : SlideDesc) : Stepped :=
  let rd := askedTo s e ch
  let a := srcAddr d rd
  let n := readLen d rd
  if accessHeld s a || tokensShort s e ch n || readsAllowed ≤ (peerOut s e ch false).length then .no
  else if accessFails s a then .failed (accessFailed s e ch a)
  else
    let paid (s : State) : State := s.setChan e ch { s.chan e ch with tokens := tokensAfter s e ch n }
    match peerOf a with
    | some p => if requestOpen s then .part (askPeer (paid s) e ch p rd n) else .no
    | none =>
      if (peerOut s e ch false).isEmpty then
        let (l, s) := slideRead bus (paid s) e a n
        .part (chargeAt (s.setChan e ch (landBytes (s.chan e ch) l)) e d a n)
      else .no

/-- The channel's next read: of a spilled block, or of new source data whose buffer block it holds (R219, R222, R226). -/
def readStep (bus : SlideBus) (s : State) (e ch : Nat) : Stepped :=
  let c := s.chan e ch
  match c.q with
  | [] => .no
  | d :: _ =>
    if !c.slots.isEmpty then readBack s e ch d
    else if slideTotal d ≤ askedTo s e ch || c.taken * 512 ≤ askedTo s e ch then .no
    else readUnit bus s e ch d

/-- The last byte of the descriptor, or of a block of a STREAM, is written: the block signals, and the descriptor ends
(R212, R221). -/
def writtenTo (s : State) (e ch : Nat) (d : SlideDesc) : Stepped :=
  let c := s.chan e ch
  let ends := slideTotal d ≤ c.pos
  if d.stream && c.pos % 512 = 0 then
    let s := s.setChan e ch { c with
      creditsTaken := c.creditsTaken - 1, ringAt := (c.ringAt % max 1 d.ringLen + 1) % max 1 d.ringLen }
    let s := if d.noCtally then s else slideAdd s e d.ctally 1
    .done (if ends then finishDesc s e ch else s)
  else if ends then .done (finishDesc (if d.noCtally then s else slideAdd s e d.ctally 1) e ch)
  else .part s

/-- n bytes of the head written: they leave the channel, and the blocks that they end are returned (R219). -/
def advance (s : State) (e ch : Nat) (d : SlideDesc) (n : Nat) : Stepped :=
  let c := s.chan e ch
  let b := dstAddr d (c.ringAt % max 1 d.ringLen) c.pos
  let pos := c.pos + n
  let back := max c.returned (if slideTotal d ≤ pos then c.taken else pos / 512)
  let s := if back = c.returned then s else blockReturned s e
  let s := s.setChan e ch { s.chan e ch with pos := pos, held := c.held.drop n, returned := back }
  writtenTo (chargeAt s e d b n) e ch d

/-- The (address, byte) pairs that the channel would write next: a destination unit that is full or holds the last byte
that the descriptor places in it (R218), or, with `masked`, as much of one as the channel holds. -/
def nextUnit (masked : Bool) (s : State) (e ch : Nat) : List (Nat × Byte) :=
  let c := s.chan e ch
  match c.q with
  | [] => []
  | d :: _ =>
    let ring := c.ringAt % max 1 d.ringLen
    let at1 := sentTo s e ch
    let unit := if slideTotal d ≤ at1 then 0 else writeLen d ring at1
    let l := (c.held.drop (at1 - c.pos)).take unit
    if l.length < unit && !masked then [] else destBytes d ring at1 l

/-- The channel's next write. What goes to the peer counts as written with its acknowledgement (R405). -/
def writeStep (bus : SlideBus) (masked : Bool) (s : State) (e ch : Nat) : Stepped :=
  match (s.chan e ch).q, nextUnit masked s e ch with
  | d :: _, x :: r =>
    let b := x.1
    if accessHeld s b then .no
    else if accessFails s b then .failed (accessFailed s e ch b)
    else match peerOf b with
      | some _ =>
        if requestOpen s && !masked then
          .part (tellPeer s e ch (sentTo s e ch) ((x :: r).map fun y => (y.1 - 0x4000_0000_0000, y.2)))
        else .no
      | none =>
        if (peerOut s e ch true).isEmpty then advance (slideWrite bus s e (x :: r)) e ch d (x :: r).length else .no
  | _, _ => .no

/-- Steps of a channel up to the next block or descriptor finished, writes before reads. -/
def pump (bus : SlideBus) (e ch : Nat) : Nat → State → State
  | 0, s => s
  | fuel + 1, s =>
    match writeStep bus false s e ch with
    | .done s => s
    | .failed s => s
    | .part s => pump bus e ch fuel s
    | .no =>
      match readStep bus s e ch with
      | .part s => pump bus e ch fuel s
      | .failed s => s
      | _ => match blockStep s e ch with
        | some s => pump bus e ch fuel s
        | none => s

/-! ### Answers of the peer (R405, R409) -/

/-- The oldest access of channel ch at the peer, where its answer has come, dealt with: data of a read join the channel,
an acknowledged write counts as written, a failed one is a failed access (R230). -/
def settlePeer (s : State) (e ch : Nat) : Option State :=
  match s.bridge.outstanding.find? fun x => x.engine = e && x.channel = ch && !x.drops with
  | some x => match x.answer, (s.chan e ch).q with
    | some (ok, l), d :: _ =>
      let s := s.onBridge fun b => { b with outstanding := b.outstanding.filter (·.id ≠ x.id) }
      let a := 0x4000_0000_0000 + x.addr
      if !ok then some (accessFailed s e ch a)
      else if x.write then some ((advance s e ch d x.len).state.getD s)
      else some (chargeAt (s.setChan e ch (landBytes (s.chan e ch) (bytesAt l 0 x.len))) e d a x.len)
    | _, _ => none
  | none => none

/-- The answers that have come, in the order of the accesses. -/
def settleAll (e ch : Nat) : Nat → State → State
  | 0, s => s
  | n + 1, s => match settlePeer s e ch with
    | some s => settleAll e ch n s
    | none => s

/-- An answer of the peer: that of a dropped access frees the block it stood for (R234). -/
def peerAnswered (s : State) (id : Nat) (ok : Bool) (l : List Byte) : State :=
  match s.bridge.outstanding.find? (·.id = id) with
  | none => s
  | some x =>
    if x.drops then
      let s := s.onBridge fun b => { b with outstanding := b.outstanding.filter (·.id ≠ id) }
      if x.frees then
        let c := s.chan x.engine x.channel
        blockReturned (s.setChan x.engine x.channel { c with dropBlocks := c.dropBlocks - 1 }) x.engine
      else s
    else
      let s := s.onBridge fun b => { b with outstanding := b.outstanding.map fun y =>
        if y.id = id then { y with answer := some (ok, l) } else y }
      settleAll x.engine x.channel s.bridge.outstanding.length s

/-- Whether a channel may move bytes of its head: at work, and neither a retry nor a read of the shadow area pending. -/
def mayMove (s : State) (e ch : Nat) : Bool :=
  chActive s e ch && (s.chan e ch).failed.isNone && !shadowPending s e ch

/-- A channel moved on up to the next block or descriptor finished. -/
def moveOn (bus : SlideBus) (s : State) (e ch : Nat) (d : SlideDesc) : State := pump bus e ch (3 * slideTotal d + 3) s

/-- SLIDE_COPY_COMPLETE: the copy at the head moves its bytes, as far as blocks, tokens and endpoints let it, and with the
last one signals CTALLY. -/
def copyComplete (bus : SlideBus) (s : State) (e ch : Nat) : State :=
  match (s.chan e ch).q with
  | d :: _ => if d.stream || !mayMove s e ch then s else moveOn bus s e ch d
  | [] => s

/-- STREAM_BLOCK_WRITTEN: the next block of the STREAM at the head lands in its ring block; CTALLY gains 1. -/
def streamBlock (bus : SlideBus) (s : State) (e ch : Nat) : State :=
  match (s.chan e ch).q with
  | d :: _ => if !d.stream || !mayMove s e ch then s else moveOn bus s e ch d
  | [] => s

/-- The next block of the STREAM at the head still lacks its consumer credit (R222). -/
def lacksCredit (s : State) (e ch : Nat) (d : SlideDesc) : Bool :=
  let c := s.chan e ch
  c.slots.isEmpty && c.taken * 512 < slideTotal d && !creditHere s e ch d

/-- CREDIT_TAKE: a consumer credit and a buffer block for the next block of the STREAM at the head, or a TAKE that
waits (R219, R222). -/
def creditTake (s : State) (e ch : Nat) : State :=
  match (s.chan e ch).q with
  | d :: _ =>
    let c := s.chan e ch
    if !chActive s e ch || !lacksCredit s e ch d || !blockFree s e ch then s
    else if slideTakes s e d.ktally then
      let s := slideTake s e d.ktally
      s.setChan e ch { s.chan e ch with
        creditsTaken := c.creditsTaken + 1, taken := c.taken + 1, waitOn := none }
    else s.setChan e ch { c with waitOn := some d.ktally }
  | [] => s

/-- TOKEN_BUCKET_REFILL (R223): every bucket gains RATE bytes, up to its depth; RATE 0 means a full bucket. -/
def refillTokens (s : State) : State :=
  s.forEach 640 fun s k =>
    let e := k / 32
    let ch := k % 32
    let c := s.chan e ch
    let rate := s.fld (chBase e ch + 4) 15 0
    s.setChan e ch { c with
      tokens := if rate = 0 then none else some (min (burstBytes s e ch) (tokenLevel s e ch + rate)) }

/-- Channel ch could take a buffer block and R219 refuses it. A STREAM that has yet to take its credit could when the
tally has one. -/
def blockRefused (s : State) (e ch : Nat) : Bool :=
  let c := s.chan e ch
  match c.q with
  | [] => false
  | d :: _ =>
    !blockFree s e ch && (wantsBlock s e ch ||
      chActive s e ch && lacksCredit s e ch d && c.taken * 512 ≤ askedTo s e ch && slideTakes s e d.ktally)

/-- A channel is block-waiting (R225). -/
def blockWaiting (s : State) (e ch : Nat) : Bool := (s.chan e ch).failed.isNone && blockRefused s e ch

/-- The buffer blocks of a channel above its reserve whose data has been read: the first, and their number; none while
data of the channel is in the spill area (R225, R226). -/
def spillable (s : State) (e ch : Nat) : Nat × Nat :=
  let c := s.chan e ch
  let first := c.returned + chRes s e ch
  let full := match c.q with
    | d :: _ => if slideTotal d ≤ c.rd then c.taken else c.rd / 512
    | [] => 0
  (first, if c.slots.isEmpty then full - first else 0)

/-- The channel that the backstop spills: among those above their reserve, the highest PRIO number, and of those the
highest channel (R225). -/
def spillChoice (s : State) (e : Nat) : Option Nat :=
  let cand := (List.range 32).filter fun ch => chRes s e ch < heldBlocks (s.chan e ch)
  cand.foldl (fun (b : Option Nat) ch =>
    match b with
    | none => some ch
    | some x => if s.fld (chBase e x) 26 24 ≤ s.fld (chBase e ch) 26 24 then some ch else b) none

/-- The slots of the spill area that saved contexts of engine e's tile hold (R226, R238). -/
def savedSlots (s : State) (e : Nat) : List Nat :=
  if e < 16 then
    (List.range 4).flatMap fun k => (tget (fun _ => none) (s.job k).contexts e).toList.flatMap fun (c : TileContext) =>
      c.chans.flatMap (·.slots)
  else []

/-- The slots of the spill area that hold no block. -/
def freeSlots (s : State) (e : Nat) : List Nat :=
  let saved := savedSlots s e
  (List.range 128).filter fun k => !saved.contains k && (List.range 32).all fun ch => !(s.chan e ch).slots.contains k

/-- The blocks of channel ch above its reserve written to the spill area, in order, and returned. -/
def spillBlocks (s : State) (e ch : Nat) (d : SlideDesc) : State × Nat :=
  let (first, n) := spillable s e ch
  let slots := (freeSlots s e).take n
  let c := s.chan e ch
  let off := first * 512 - c.pos
  if slots.isEmpty then (s, 0)
  else
    let s := (slots.zipIdx).foldl (fun s k =>
      let l := (c.held.drop (off + 512 * k.2)).take 512
      let s := match spillStore s e k.1 with
        | some a => memWrite s a l (.slide e)
        | none => s
      s.charge (slideRecord s e d) acHbm l.length) s
    (blockReturned (s.setChan e ch { s.chan e ch with
      held := c.held.take off, slots := slots, tail := c.held.drop (off + 512 * slots.length) }) e, slots.length)

/-- Whether the detector of R225 fires: a channel block-waiting for CWAIT_LIMIT × 64 beats in which no block of the engine
was returned. -/
def detectorFires (s : State) (e : Nat) : Bool :=
  let n := 64 * s.fld (slideBase e) 31 16
  s.flag (slideBase e) 8 && n ≠ 0 && n ≤ (s.engine e).quiet &&
    (List.range 32).any fun ch => blockWaiting s e ch && n ≤ (s.chan e ch).waited

/-- A firing counted; the next one takes another interval. -/
def countFiring (s : State) (e : Nat) : State :=
  (s.bump (slideBase e + 0x10) 1).setEngine e { s.engine e with quiet := 0 }

/-- SLIDE_CREDIT_STALL: the detector of R225 fires; a spill area that is not there is a failed access of the channel (R38;
log entry 26). -/
def creditStall (s : State) (e : Nat) : State :=
  if !detectorFires s e then s
  else match spillChoice s e with
    | none => countFiring s e
    | some ch =>
      match (s.chan e ch).q with
      | d :: _ =>
        if accessFails s (spillAddr s e 0) then accessFailed (countFiring s e) e ch (spillAddr s e 0)
        else
          let (s, n) := spillBlocks s e ch d
          raise (countFiring s e) eCreditStall 3 e ch n
      | [] => countFiring s e

/-- The address of a channel's next access: of the destination when a unit is ready to be written, else of the source. -/
def nextAccess (s : State) (e ch : Nat) (d : SlideDesc) : Nat :=
  match nextUnit (slideTotal d ≤ (s.chan e ch).rd) s e ch with
  | x :: _ => x.1
  | [] => srcAddr d (s.chan e ch).rd

/-- SLIDE_RETRY (R231, R232): the failed access issued again, or halted when the retries are used up. `x` is what the
endpoint answers; an unpopulated address fails again. A channel whose access fails for the first time, for a cause of R230
that is not the address, comes here with `failed` (log entry 26). A parity error of the channel buffer halts the channel
without a retry and is logged (Table 8.10). -/
def slideRetry (s : State) (e ch : Nat) (x : AccessAnswer) : State :=
  let c := s.chan e ch
  if c.status ≠ .active then s
  else if x = .parity then
    haltChannel s e ch 2 ((c.failed.map (·.1)).getD ((c.q.head?.map (nextAccess s e ch)).getD 0))
  else match c.failed, c.q with
    | some (a, n), _ :: _ =>
      let s := s.bump (chBase e ch + 0x14) 1
      if x = .ok && !accessFails s a then s.setChan e ch { c with failed := none }
      else if s.fld (slideBase e) 3 0 ≤ n + 1 then haltChannel s e ch 0 a
      else s.setChan e ch { c with failed := some (a, n + 1) }
    | none, d :: _ => if x = .ok then s else accessFailed s e ch (nextAccess s e ch d)
    | _, [] => s

/-- SLIDE_HALT_CLEAR (R232): HALT written with 1. The buffer and the holding register are as they were. -/
def haltClear (s : State) (e ch : Nat) : State :=
  let c := s.chan e ch
  if c.status ≠ .halted then s
  else
    let s := s.setFld (chBase e ch + 8) 4 4 0
    if c.invalid then turnToHead (s.setChan e ch { c with q := c.q.drop 1, invalid := false }) e ch
    else s.setChan e ch { c with status := if c.q.isEmpty then .idle else .active, failed := none }

/-! ### Cancel (R233–R237) -/

/-- Whether a cancel selects a descriptor of its engine. -/
def selects (x : SlideDesc) (ch : Nat) (d : SlideDesc) : Bool := x.chmask.testBit ch && d.ctally = x.ctally

/-- Destination bytes that a selected descriptor may have left unspecified: device address and length of each run, or
the ring blocks whose block it holds (R234). -/
def unspecifiedRuns (s : State) (e ch : Nat) (d : SlideDesc) : List (Nat × Nat) :=
  if d.stream then
    let c := s.chan e ch
    (List.range (max 1 (c.taken - c.pos / 512))).map fun i =>
      (dstAddr d ((ringPos s e ch + i) % max 1 d.ringLen) 0, 512)
  else (List.range (d.n1 * d.n2)).map fun k => (dstAddr d 0 (k * d.len0), d.len0)

/-- Free values in [a, a+n) of the device space, where it is memory of this device or the host. -/
def freeRun (s : State) (a n : Nat) : State :=
  s.forEach n fun s i =>
    match s.storeOf (targetOf (a + i)) with
    | some w => (s.setByte w (if s.freeChoice then s.byte w else Config.freeByte s.free)).drawFree
    | none => s

/-- The head's outstanding reads and writes at the peer are left to themselves: answers are dropped, and each buffer
block of which data is still to come stays held until its last read lands (R234). -/
def dropPeer (s : State) (e ch : Nat) : State :=
  let l := peerOut s e ch false
  let last (x : PeerTransaction) : Bool := l.all fun y => y.pos / 512 ≠ x.pos / 512 || y.pos ≤ x.pos
  let c := s.chan e ch
  let s := s.setChan e ch { c with dropBlocks := c.dropBlocks + (l.filter last).length }
  if s.bridge.outstanding.isEmpty then s
  else s.onBridge fun b => { b with outstanding := b.outstanding.map fun x =>
    if x.engine = e && x.channel = ch && !x.drops then { x with drops := true, frees := !x.write && last x } else x }

/-- The selected descriptors of one channel removed (R234): their data is discarded, their destination bytes are
unspecified, and the credits of the head are to be returned. A channel it touches is CANCELLING until the cancel is
done (R216). -/
def cancelChannel (s : State) (e : Nat) (x : SlideDesc) (ch : Nat) : State × Nat × List (Nat × Nat) :=
  let c := s.chan e ch
  let sel := c.q.filter (selects x ch)
  if sel.isEmpty then (s, 0, [])
  else
    let headGone := match c.q with
      | d :: _ => selects x ch d
      | [] => false
    let credits := match c.q with
      | d :: _ => if headGone && d.stream && !d.noKtally then [(d.ktally, c.creditsTaken)] else []
      | [] => []
    let runs := match c.q with
      | d :: _ => if headGone then unspecifiedRuns s e ch d else []
      | [] => []
    let s := runs.foldl (fun s r => freeRun s r.1 r.2) s
    let s := match c.q with
      | d :: _ => if headGone then
          dropPeer ((peerOut s e ch false).foldl (fun s x => chargeAt s e d (0x4000_0000_0000 + x.addr) x.len) s) e ch
        else s
      | [] => s
    let s := if headGone then blockReturned (s.setFld (chBase e ch + 8) 4 4 0) e else s
    let c := s.chan e ch
    let kept : SlideChannel := { c with
      q := c.q.filter fun d => !selects x ch d
      status := if c.status = .active then .cancelling else c.status, resumes := c.status = .active }
    let s := s.setChan e ch (if headGone then
        { kept with
          status := .cancelling, pos := 0, rd := 0, held := [], slots := [], tail := [], taken := 0, returned := 0,
          backBlock := false, creditsTaken := 0, failed := none, waitOn := none, invalid := false, resumes := false }
      else kept)
    (s, sel.length, credits)

/-- SLIDE_CANCEL: the head of the source, when it is a CANCEL (R233, R236). An invalid one halts the channel it names,
where that is enabled (R215); it has no place in the queue to be discarded from. -/
def slideCancel (s : State) (e : Nat) : State :=
  match peekDesc s e with
  | none => s
  | some (l, x, s') =>
    if !descAddrOk e x || !x.cancel then s
    else
      let s := popDesc s' e
      match slideFieldsOk l x && chEnabled s e x.channel, slideOutside s e x with
      | true, none =>
        let (s, n, cr) := (List.range 32).foldl (fun (acc : State × Nat × List (Nat × Nat)) ch =>
          let (s, k, c) := cancelChannel acc.1 e x ch
          (s, acc.2.1 + k, acc.2.2 ++ c)) (s, 0, [])
        s.setEngine e { s.engine e with cancels := (s.engine e).cancels ++ [⟨x, n, cr⟩] }
      | _, outside =>
        let s := match outside with
          | some n => raise s eNamespace 1 e x.addr n
          | none => s
        if !chEnabled s e x.channel || (s.chan e x.channel).status = .halted then logBusErr s e x.channel 1 x.addr
        else
          let s := haltChannel s e x.channel 1 x.addr
          s.setChan e x.channel { s.chan e x.channel with invalid := false }

/-- Writes of descriptors that a cancel removed wait for the peer's acknowledgement (R235). -/
def cancelWaits (s : State) (e : Nat) (x : SlideDesc) : Bool :=
  s.bridge.outstanding.any fun y => y.engine = e && y.write && y.drops && x.chmask.testBit y.channel

/-- SLIDE_CANCEL_DONE (R235). -/
def slideCancelDone (s : State) (e : Nat) : State :=
  match (s.engine e).cancels with
  | [] => s
  | x :: r =>
   if cancelWaits s e x.desc then s
   else
    let s := s.setEngine e { s.engine e with cancels := r }
    let s := x.credits.foldl (fun s c => if c.2 = 0 then s else slideAdd s e c.1 c.2) s
    let s := if x.desc.noKtally then s else slideAdd s e x.desc.ktally 1
    let s := raise s eCancelDone 3 e x.desc.chmask (x.desc.ctally + x.count * 2 ^ 16)
    let s := s.bump (slideBase e + 0x14) 1
    let s := s.forEach 32 fun s ch =>
      let c := s.chan e ch
      if !x.desc.chmask.testBit ch || c.status ≠ .cancelling then s
      else if c.resumes then s.setChan e ch { c with status := .active, resumes := false }
      else turnToHead s e ch
    slideReleases s e

/-! ### Pre-emption save (R238) -/

/-- Whether a save leaves a unit unwritten: nothing is there, or the access is the one that the channel failed at. -/
def flushStops (s : State) (e ch a : Nat) : Bool :=
  let c := s.chan e ch
  accessFails s a || c.failed.any (fun x => x.1 = a) || c.status = .halted && s.reg64 (chBase e ch + 0xC) = a

/-- What channel ch holds in the buffer and the holding register written, up to n units, with masks for partial ones. -/
def flushUnits (bus : SlideBus) (e ch : Nat) : Nat → State → State
  | 0, s => s
  | n + 1, s =>
    if (nextUnit true s e ch).any fun x => flushStops s e ch x.1 then s
    else match writeStep bus true s e ch with
      | .part s => flushUnits bus e ch n s
      | .done s => if (s.chan e ch).held.isEmpty then s else flushUnits bus e ch n s
      | .failed s => s
      | .no => s

/-- Whether a save writes what a channel holds: its descriptor is at work, or halted at a failed access. -/
def flushes (c : SlideChannel) : Bool :=
  c.status = .active || c.status = .halted && !c.invalid || c.status = .cancelling && c.resumes

/-- Channel ch stopped for a save: its data written, no buffer block kept. Spilled blocks stay in the spill area; what was
read behind them, and what the destination or the peer has not taken, is read again, with the spilled blocks that follow
it (log entry 26). -/
def flushChannel (bus : SlideBus) (s : State) (e ch : Nat) : State :=
  let s := if flushes (s.chan e ch) then flushUnits bus e ch ((s.chan e ch).held.length) s else s
  let s := blockReturned (forgetPeer s e ch) e
  let c := s.chan e ch
  let slots := if c.held.isEmpty then c.slots else []
  s.setChan e ch { c with
    held := [], tail := [], slots := slots, rd := c.pos + 512 * slots.length, taken := c.pos / 512 + slots.length,
    returned := c.pos / 512, backBlock := false, dropBlocks := 0, waitOn := none, waited := 0 }

/-! ### Beats of an engine (R224, R229, R241) -/

/-- The channel that an engine serves: the lowest PRIO number among those ready, in rotating order after `last` (R224). -/
def servedBy (s : State) (e last : Nat) (ready : Nat → Bool) : Option Nat :=
  let cand := ((List.range 32).map fun i => (last + 1 + i) % 32).filter ready
  cand.foldl (fun (b : Option Nat) ch =>
    match b with
    | none => some ch
    | some x => if s.fld (chBase e ch) 26 24 < s.fld (chBase e x) 26 24 then some ch else b) none

/-- Why an ACTIVE channel issues nothing in a beat: the lowest cause of Table 8.5 that its state shows; 4 where none of
the others holds it back (log entry 26). -/
def stallCause (s : State) (e ch : Nat) : Nat :=
  let c := s.chan e ch
  match c.q with
  | [] => 4
  | d :: _ =>
    let rd := askedTo s e ch
    let toRead := c.slots.isEmpty && rd < slideTotal d
    if toRead && c.taken * 512 ≤ rd && lacksCredit s e ch d && !slideTakes s e d.ktally then 0
    else if blockRefused s e ch then 1
    else if toRead && rd < c.taken * 512 && tokensShort s e ch (readLen d rd) then 2
    else if !(peerOut s e ch false).isEmpty || shadowPending s e ch then 3
    else if c.failed.isSome then 5 else 4

/-- Engine e has nothing to do. -/
def slideQuiet (s : State) (e : Nat) : Bool := (List.range 32).all fun ch => (s.chan e ch).status = .idle

/-- The TAKEs that engine e presents in a beat, those that failed before among them (R241). -/
def takeBeat (s : State) (e : Nat) : State :=
  if slideQuiet s e then s else (byPriority s e).foldl (fun s ch => creditTake s e ch) s

/-- What an engine does in a beat, as its state at the beat's start decides (R224, R225, R229): the channels whose read
and write it serves, the stalls to charge, and the channels that are block-waiting. -/
structure SlidePlan where
  read : Option Nat
  write : Option Nat
  stalls : List (Nat × Nat)
  waiting : List Nat

/-- Beats from the issue of one line of a channel to its next: an NCLK cycle, and at most 64 bytes a beat (R224). -/
def lineBeats (unit : Nat) : Nat := max 2 ((unit + 63) / 64)

/-- Bytes of the line that a channel's next read, or write, moves. -/
def readUnitOf (s : State) (e ch : Nat) : Nat :=
  let c := s.chan e ch
  match c.q with
  | d :: _ => if c.slots.isEmpty then accessUnit (srcAddr d (askedTo s e ch)) false else 512
  | [] => 0
def writeUnitOf (s : State) (e ch : Nat) : Nat := match nextUnit false s e ch with
  | x :: _ => accessUnit x.1 true
  | [] => 0

/-- The plan of engine e's beat. -/
def slidePlan (bus : SlideBus) (s : State) (e : Nat) : SlidePlan :=
  if slideQuiet s e then ⟨none, none, [], []⟩
  else
    let now := s.counter.toNat
    let reads := servedBy s e (s.engine e).lastRead fun ch =>
      mayMove s e ch && (s.chan e ch).readAt ≤ now && (readStep bus s e ch).state.isSome
    let writes := servedBy s e (s.engine e).lastWrite fun ch =>
      mayMove s e ch && (s.chan e ch).writeAt ≤ now && (writeStep bus false s e ch).state.isSome
    let still (ch : Nat) : Bool := chActive s e ch && reads ≠ some ch && writes ≠ some ch &&
      (s.chan e ch).readAt ≤ now && (s.chan e ch).writeAt ≤ now
    ⟨reads, writes, ((List.range 32).filter still).map fun ch => (ch, stallCause s e ch),
      (List.range 32).filter (blockWaiting s e)⟩

/-- The read of an engine's beat. -/
def readBeat (bus : SlideBus) (p : SlidePlan) (s : State) (e : Nat) : State := match p.read with
  | none => s
  | some ch =>
    let until' := s.counter.toNat + lineBeats (readUnitOf s e ch)
    let s := ((readStep bus s e ch).state.getD s).setEngine e { s.engine e with lastRead := ch }
    s.setChan e ch { s.chan e ch with readAt := until' }

/-- The write of an engine's beat. -/
def writeBeat (bus : SlideBus) (p : SlidePlan) (s : State) (e : Nat) : State := match p.write with
  | none => s
  | some ch =>
    let until' := s.counter.toNat + lineBeats (writeUnitOf s e ch)
    let s := (writeStep bus false s e ch).state.getD s
    let s := s.setEngine e { s.engine e with lastWrite := ch }
    s.setChan e ch { s.chan e ch with writeAt := until' }

/-- The stalls of an engine's beat charged, and its beats counted for the detector of R225. -/
def countBeat (p : SlidePlan) (s : State) (e : Nat) : State :=
  if slideQuiet s e then s
  else
    let s := p.stalls.foldl (fun s x => s.bump (chBase e x.1 + 0x20 + 4 * x.2) 1) s
    let s := s.setEngine e { s.engine e with quiet := (s.engine e).quiet + 1 }
    s.forEach 32 fun s ch =>
      let c := s.chan e ch
      if p.waiting.contains ch then s.setChan e ch { c with waited := c.waited + 1 }
      else if c.waited = 0 then s else s.setChan e ch { c with waited := 0 }

/-! ### Register writes of the block (R220, R223, Table 8.8) -/

/-- The token word of a channel written: a bucket never holds more than its depth, and with RATE 0 it is full (R223). -/
def setTokenWord (s : State) (e ch : Nat) (v : Word) : State :=
  let level := tokenLevel s e ch
  let s := s.setReg (chBase e ch + 4) (v &&& 0xFF00_FFFF)
  s.setChan e ch { s.chan e ch with
    tokens := if v.toNat % 2 ^ 16 = 0 then none else some (min (burstBytes s e ch) level) }

/-- SLIDE_SUBMIT: a descriptor address of Ledger; a write from PCIe, or SMBus, is ignored. -/
def slideSubmit (s : State) (src : Writer) (e : Nat) (a : Word) : State :=
  match src with
  | .ledger => s.setEngine (16 + e) { s.engine (16 + e) with submitted := (s.engine (16 + e)).submitted ++ [a] }
  | _ => s

/-- SLIDE_CHn_CFG written while the channel is idle (R220): PRIV by Ledger only; ENABLE stays 0 when the reserves would
pass 128. -/
def channelConfig (s : State) (src : Writer) (e ch : Nat) (v : Word) : State :=
  let o := chBase e ch
  let old := s.reg o
  let m : Word := if src = .ledger then 0xE7FF_FF00 else 0xA7FF_FF00
  let s' := s.setReg o (blend m old v)
  let total := (List.range 32).foldl (fun n k => n + if k = ch || chEnabled s e k then chRes s' e k else 0) 0
  if bit v 31 && 128 < total then (s'.setFld o 31 31 0).orReg (o + 8) 0x20 else s'

/-! ### Meanings -/

def execSlideSubmit (src : Writer) (e : Fin 4) (addr : Word) (s : State) : Host.Outcome State Fault Refusal :=
  .next (s.written src fun s => slideSubmit s src e addr)
def execSlideDescriptorAccept (e : EngineNo) (s : State) : Host.Outcome State Fault Refusal :=
  .next (s.act fun s => acceptDesc s e)
def execCreditTake (e : EngineNo) (ch : ChannelNo) (s : State) : Host.Outcome State Fault Refusal :=
  .next (s.act fun s => creditTake s e ch)
def execTokenBucketRefill (s : State) : Host.Outcome State Fault Refusal := .next (s.act refillTokens)
def execSlideCreditStall (e : EngineNo) (s : State) : Host.Outcome State Fault Refusal :=
  .next (s.act fun s => creditStall s e)
def execSlideRetry (e : EngineNo) (ch : ChannelNo) (answer : AccessAnswer) (s : State) : Host.Outcome State Fault Refusal :=
  .next (s.act fun s => slideRetry s e ch answer)
def execSlideHaltClear (src : Writer) (e : EngineNo) (ch : ChannelNo) (s : State) :
    Host.Outcome State Fault Refusal :=
  .next (s.slideWritten src e (chBase e ch + 8) 0x10 fun s => haltClear s e ch)
def execSlideCancel (e : EngineNo) (s : State) : Host.Outcome State Fault Refusal :=
  .next (s.act fun s => slideCancel s e)
def execSlideCancelDone (e : EngineNo) (s : State) : Host.Outcome State Fault Refusal :=
  .next (s.act fun s => slideCancelDone s e)

end Sys2Proof.Machine
end

