-- ==== Sys2Proof/Machine/Image.lean ====
section
/-! DEFINITION. Image.lean: the fold image and binding steps 1 to 9: header, section table, signature, grid
descriptors, instructions, tasks and control flow (R42–R69, R75, R150, R495, R497, R500). -/

namespace Sys2Proof.Machine

/-- A failed check: BIND_STATUS and DETAIL (Table 2.14). -/
structure BindFault where
  status : Nat
  detail : Nat
  deriving DecidableEq, Repr

/-- n little-endian bytes of an image, which is given by its bytes. -/
def rdN (rd : Nat → Byte) (o n : Nat) : Nat := leNat ((List.range n).map fun i => rd (o + i))

/-- The bytes [o, o+n) of an image. -/
def rdBytes (rd : Nat → Byte) (o n : Nat) : List Byte := (List.range n).map fun i => rd (o + i)

/-- Whether n bytes are 0. -/
def rdZero (rd : Nat → Byte) (o n : Nat) : Bool := (List.range n).all fun i => rd (o + i) = 0

/-- The first number below n that a test picks. -/
def firstOf (n : Nat) (p : Nat → Bool) : Option Nat := (List.range n).find? p

/-! ### Header (R42, Table 2.2) -/

/-- The header fields that binding uses. -/
structure ImgHeader where
  major : Nat
  minor : Nat
  size : Nat
  flags : Nat
  sections : Nat
  tableOff : Nat
  timingClass : Nat
  chipCount : Nat
  vtiles : Nat
  tallyCount : Nat
  clientTags : Nat
  drawStreams : Nat
  boardBytes : Nat
  commonBytes : Nat
  hbmBytes : Nat
  taskCount : Nat
  deriving DecidableEq, Repr

def imgHeader (rd : Nat → Byte) : ImgHeader :=
  { major := rdN rd 0x4 2, minor := rdN rd 0x6 2, size := rdN rd 0xC 8, flags := rdN rd 0x14 4,
    sections := rdN rd 0x18 2, tableOff := rdN rd 0x1C 4, timingClass := rdN rd 0x20 1, chipCount := rdN rd 0x21 1,
    vtiles := rdN rd 0x22 2, tallyCount := rdN rd 0x24 2, clientTags := rdN rd 0x26 1, drawStreams := rdN rd 0x27 1,
    boardBytes := rdN rd 0x28 4, commonBytes := rdN rd 0x2C 4, hbmBytes := rdN rd 0x30 8, taskCount := rdN rd 0x38 2 }

/-- MAGIC (Table 2.2). -/
def imgMagic (rd : Nat → Byte) : Bool := rdBytes rd 0 4 = [0x41, 0x51, 0x46, 0x44]

/-- The fields of step 1 by offset, each with whether it is good (R42). -/
def headerChecks (rd : Nat → Byte) (size : Nat) : List (Nat × Bool) :=
  let h := imgHeader rd
  [(0x008, rdN rd 8 4 = 256), (0x00C, h.size = size && h.size ≤ 2 ^ 32), (0x014, h.flags < 4),
    (0x018, 4 ≤ h.sections && h.sections ≤ 9), (0x01A, rdZero rd 0x1A 2),
    (0x01C, h.tableOff % 64 = 0 && 256 ≤ h.tableOff && h.tableOff + 32 * h.sections ≤ h.size),
    (0x020, h.timingClass ≤ 2), (0x021, h.chipCount = 1 || h.chipCount = 2),
    (0x022, 1 ≤ h.vtiles && h.vtiles ≤ 256), (0x024, h.tallyCount ≤ 4064),
    (0x026, 1 ≤ h.clientTags && h.clientTags ≤ 32), (0x027, h.drawStreams ≤ 32),
    (0x038, 1 ≤ h.taskCount && h.taskCount ≤ 1024), (0x03A, rdZero rd 0x3A 6), (0x050, rdZero rd 0x50 176)]

/-- Steps 1 and 2 (R42). -/
def headerFault (rd : Nat → Byte) (size : Nat) : Option BindFault :=
  let h := imgHeader rd
  if !imgMagic rd then some ⟨0x01, 0⟩
  else match (headerChecks rd size).find? (!·.2) with
    | some (o, _) => some ⟨0x02, o⟩
    | none => if h.major ≠ 1 || 2 < h.minor then some ⟨0x03, h.major * 2 ^ 16 + h.minor⟩ else none

/-! ### Section table (R43, R44, Tables 2.3, 2.4) -/

structure Sect where
  type : Nat
  off : Nat
  size : Nat
  reservedBad : Bool
  deriving DecidableEq, Repr

def imgSections (rd : Nat → Byte) (h : ImgHeader) : List Sect :=
  (List.range h.sections).map fun i =>
    let o := h.tableOff + 32 * i
    { type := rdN rd o 2, off := rdN rd (o + 8) 8, size := rdN rd (o + 16) 8,
      reservedBad := !(rdZero rd (o + 2) 6 && rdZero rd (o + 0x18) 8) }

/-- Two ranges of bytes share one. -/
def overlaps (a n b m : Nat) : Bool := 0 < n && 0 < m && a < b + m && b < a + n

/-- The records of a DATA section: grid index, offset of the bytes, byte count; none when they do not fill it. -/
def dataRecords (rd : Nat → Byte) : Nat → Nat → Nat → Option (List (Nat × Nat × Nat))
  | 0, o, e => if o = e then some [] else none
  | k + 1, o, e =>
    if o = e then some []
    else
      let n := rdN rd (o + 4) 4
      let nx := o + 8 + (n + 7) / 8 * 8
      if o + 8 ≤ e && nx ≤ e then (dataRecords rd k nx e).map fun l => (rdN rd o 4, o + 8, n) :: l else none

/-- SIZE of a section is what R44 asks of its type. -/
def sectSizeOk (rd : Nat → Byte) (h : ImgHeader) (x : Sect) : Bool :=
  let whole (u most : Nat) := x.size % u = 0 && x.size / u ≤ most
  match x.type with
  | 1 => whole 8 2097152
  | 2 => whole 4 8192
  | 3 => whole 8 8192
  | 4 => whole 64 8192
  | 5 => (dataRecords rd (x.size / 8) x.off (x.off + x.size)).isSome
  | 6 => x.size = 8 * h.tallyCount
  | 7 => x.size = 16 * h.taskCount
  | 8 => true
  | 0xF => x.size = 2048 && x.off + x.size = h.size
  | _ => false

/-- A section table entry is good by itself. -/
def sectOk (rd : Nat → Byte) (h : ImgHeader) (x : Sect) : Bool :=
  !x.reservedBad && x.off % 64 = 0 && x.off + x.size ≤ h.size && !overlaps x.off x.size 0 256 &&
    !overlaps x.off x.size h.tableOff (32 * h.sections) && sectSizeOk rd h x

/-- An entry conflicts with one of lower index. -/
def sectConflict (x y : Sect) : Bool :=
  overlaps x.off x.size y.off y.size || x.type = y.type || x.type = 0xF && x.off ≤ y.off || y.type = 0xF && y.off ≤ x.off

/-- The section of a type. -/
def sectOf (l : List Sect) (t : Nat) : Option Sect := l.find? (·.type = t)

/-- Step 3 (R44). -/
def sectionFault (rd : Nat → Byte) (h : ImgHeader) : Option BindFault :=
  let l := imgSections rd h
  let bad (i : Nat) : Bool := match l[i]? with
    | some x => !sectOk rd h x || (l.take i).any (sectConflict x)
    | none => false
  match firstOf l.length bad with
  | some i => some ⟨0x04, i⟩
  | none =>
    let need := [1, 4, 7, 0xF] ++ (if 0 < h.tallyCount then [6] else [])
    if need.all fun t => (sectOf l t).isSome then none else some ⟨0x04, h.sections⟩

/-! ### Signature (R45, R46, Table 2.5) -/

/-- The key identifier of a public key (R45). -/
def keyId (pub : List Byte) : List Byte := Config.shake256 pub 32

/-- The key of a store that a KEY_ID matches. -/
def keyFor (keys : Tab (Option (List Byte))) (id : List Byte) : Option (List Byte) :=
  (List.range 16).findSome? fun i => match tget (fun _ => none) keys i with
    | some k => if keyId k = id then some k else none
    | none => none

/-- The signed message of an image whose SIG section stands at `o` (R45). -/
def signedMessage (rd : Nat → Byte) (o : Nat) : List Byte := Config.shake256 (rdBytes rd 0 o) 64

/-- SIG_LEN and the padding of a SIG section at `o`. -/
def sigFormOk (rd : Nat → Byte) (o : Nat) : Bool := rdN rd (o + 0x28) 2 = 1280 && rdZero rd (o + 0x52A) 726

/-- TAG of a SIG section. -/
def sigTagOk (rd : Nat → Byte) (o : Nat) : Bool := rdBytes rd o 8 = [0x41, 0x51, 0x46, 0x44, 0x53, 0x49, 0x47, 0x31]

/-- The signature of a SIG section at `o` verifies under a key over a message. -/
def sigVerifies (rd : Nat → Byte) (o : Nat) (key msg : List Byte) : Bool :=
  Config.falconVerify key msg (rdBytes rd (o + 0x2A) 1280)

/-- Step 4 (R46). -/
def signatureFault (rd : Nat → Byte) (o : Nat) (keys : Tab (Option (List Byte))) : Option BindFault :=
  if !sigTagOk rd o then some ⟨0x06, 0⟩
  else match keyFor keys (rdBytes rd (o + 8) 32) with
    | none => some ⟨0x05, rdN rd (o + 8) 4⟩
    | some k =>
      if sigFormOk rd o && sigVerifies rd o k (signedMessage rd o) then none else some ⟨0x06, 0⟩

/-! ### Grid descriptors (R49, R50, R149, R150, Table 2.8) -/

structure Grid where
  space : Nat
  type : Nat
  rank : Nat
  flags : Nat
  owner : Nat
  region : Nat
  off : Nat
  dim : List Nat
  stride : List Nat
  zp : Int
  scale : Nat
  step : Nat
  clip : Nat
  reservedBad : Bool
  deriving DecidableEq, Repr

def Grid.transposable (g : Grid) : Bool := g.flags.testBit 0
def Grid.pinned (g : Grid) : Bool := g.flags.testBit 1
def Grid.blockQuant (g : Grid) : Bool := g.flags.testBit 2
def Grid.readOnly (g : Grid) : Bool := g.flags.testBit 3

/-- The dimensions of a grid. -/
def Grid.shape (g : Grid) : List Nat := g.dim.take g.rank

/-- The number of elements. -/
def Grid.count (g : Grid) : Nat := g.shape.foldl (· * ·) 1

/-- Bits of a stored element. -/
def Elem.bits (t : Elem) : Nat := t.partBits * t.parts

/-- Bytes from the first element of a grid to the end of its last (R50). -/
def Grid.extent (g : Grid) (t : Elem) : Nat :=
  let outer := (List.range (g.rank - 1)).foldl (fun a d => a + (g.dim.getD d 1 - 1) * g.stride.getD d 0) 0
  outer + (g.dim.getD (g.rank - 1) 1 * t.bits + 7) / 8

/-- The descriptor at an image offset. -/
def imgGrid (rd : Nat → Byte) (o : Nat) : Grid :=
  { space := rdN rd o 1, type := rdN rd (o + 1) 1, rank := rdN rd (o + 2) 1, flags := rdN rd (o + 3) 1,
    owner := rdN rd (o + 4) 2, region := rdN rd (o + 6) 2, off := rdN rd (o + 8) 8,
    dim := (List.range 4).map fun d => rdN rd (o + 0x10 + 4 * d) 4,
    stride := (List.range 4).map fun d => rdN rd (o + 0x20 + 4 * d) 4,
    zp := signed 16 (rdN rd (o + 0x30) 2), scale := rdN rd (o + 0x32) 2, step := rdN rd (o + 0x34) 4,
    clip := rdN rd (o + 0x38) 2, reservedBad := !rdZero rd (o + 0x3A) 6 }

/-- STRIDE of dimension d is good (R50). -/
def strideOk (g : Grid) (t : Elem) (d : Nat) : Bool :=
  let n := g.stride.getD d 0
  if g.rank ≤ d then n = 0
  else if d + 1 = g.rank then n = t.bits / 8
  else n ≠ 0 && (t.bits < 8 || n % (t.bits / 8) = 0)

/-- ZERO_POINT lies within the range of TYPE; 0 for a non-integer type. -/
def zeroPointOk (g : Grid) (t : Elem) : Bool :=
  if t.float || t = .bool then g.zp = 0 else t.lo ≤ g.zp && g.zp ≤ t.hi

/-- SPACE, OWNER, REGION and the byte extent (R50, R280). -/
def spaceOk (h : ImgHeader) (g : Grid) (t : Elem) : Bool :=
  let last := g.off + g.extent t
  match g.space with
  | 0 => g.owner < h.vtiles && last ≤ h.boardBytes
  | 1 => g.owner = 0 && last ≤ h.commonBytes
  | 2 => g.owner = 0 && last ≤ h.hbmBytes
  | 3 => g.owner = 0 && g.region = 0 && last ≤ 2 ^ 47
  | 4 => g.owner < 24 && g.region ≤ 4
  | 5 => g.owner = 0 && h.chipCount = 2 && last ≤ h.commonBytes
  | _ => false

/-- The BLOCK_QUANT conditions (R149, R150); without it its fields are 0 (Table 2.8). -/
def blockQuantOk (gs : List Grid) (g : Grid) (t : Elem) : Bool :=
  if !g.blockQuant then g.scale = 0 && g.step = 0 && g.clip = 0
  else
    let e := g.step / 2 ^ 23
    let n := g.dim.getD (g.rank - 1) 1
    [Elem.int4, .int8, .uint8, .int16, .cint8, .cint16].contains t && 1 ≤ e && e ≤ 254 &&
      (match gs[g.scale]? with
        | some s => s.type = 2 && s.rank = g.rank && s.shape = g.shape.dropLast ++ [(n + 31) / 32]
        | none => false) &&
      (match gs[g.clip]? with
        | some c => c.type = 4 && c.count = 1 && !c.readOnly
        | none => false)

/-- A grid descriptor is valid (R50, R150). -/
def gridOk (h : ImgHeader) (gs : List Grid) (g : Grid) : Bool :=
  match elemOfGrid g.type with
  | none => false
  | some t =>
    1 ≤ g.rank && g.rank ≤ 4 && g.flags < 16 && !g.reservedBad &&
      (List.range 4).all (fun d => if d < g.rank then 1 ≤ g.dim.getD d 0 else g.dim.getD d 0 = 1) &&
      (List.range 4).all (strideOk g t) && zeroPointOk g t && spaceOk h g t && blockQuantOk gs g t

/-- Step 7. -/
def gridFault (h : ImgHeader) (gs : List Grid) : Option BindFault :=
  (firstOf gs.length fun i => match gs[i]? with
    | some g => !gridOk h gs g
    | none => false).map fun i => ⟨0x09, i⟩

/-! ### The instruction word (R52–R54, Tables 2.10, 2.11) -/

/-- An operand descriptor: KIND and INDEX. -/
structure Opd where
  kind : Nat
  index : Nat
  deriving DecidableEq, Repr

def opd (v : Nat) : Opd := ⟨slice v 15 13, slice v 12 0⟩

/-- The value of an immediate operand. -/
def Opd.imm (o : Opd) : Int := signed 13 o.index

structure Aq where
  cls : Nat
  op : Nat
  mod : Nat
  d : Opd
  a : Opd
  b : Opd
  deriving DecidableEq, Repr

def aqOf (w : Nat) : Aq :=
  { cls := slice w 63 60, op := slice w 59 54, mod := slice w 53 48, d := opd (slice w 47 32),
    a := opd (slice w 31 16), b := opd (slice w 15 0) }

/-- What an image declares, for the checks of step 8. -/
structure ImgCounts where
  grids : List Grid
  tallies : Nat
  consts : Nat
  labels : Nat
  streams : Nat
  deriving DecidableEq, Repr

/-- The KINDs that an instruction permits for D, A and B (the class tables of this chapter); none for an OP not defined.
Kinds: 0 none, 1 word, 2 grid, 3 immediate, 4 flag, 5 tally, 6 constant, 7 label. DESIGN CHOICE (log entry 86): the
tables give no kind for A of STG, nor for A and B of MOVE 0x04 to 0x0E, which are words or immediates here; and an
operand that an instruction does not have is of KIND none. -/
def aqKinds (cls op : Nat) : Option (List Nat × List Nat × List Nat) :=
  match cls with
  | 0 => if op ≤ 2 then some ([2], [2], [2]) else none
  | 1 =>
    if op ≤ 4 ∨ 7 ≤ op ∧ op ≤ 0xE then some ([2], [2], [2, 1, 3])
    else match op with
      | 5 | 6 | 0xF | 0x10 | 0x11 | 0x12 => some ([2], [2], [0])
      | 0x13 | 0x14 => some ([1], [2], [0])
      | 0x15 => some ([4], [2], [0])
      | 0x16 => some ([2], [2], [1])
      | 0x17 => some ([2], [2], [0])
      | 0x18 => some ([0], [2, 0], [0])
      | _ => none
  | 2 => if op = 0 then some ([2], [2], [2]) else none
  | 3 => match op with
    | 0 => some ([0], [3], [0])
    | 1 | 2 | 3 => some ([2], [2], [0])
    | _ => none
  | 4 => match op with
    | 0 => some ([2], [3], [0])
    | 1 => some ([0], [3], [1])
    | _ => none
  | 5 => match op with
    | 0 => some ([2], [2], [5])
    | 1 => some ([0], [0], [5])
    | _ => none
  | 6 => match op with
    | 0 | 1 | 3 => some ([0], [5], [1, 3])
    | 2 => some ([1], [5], [0])
    | _ => none
  | 7 => match op with
    | 0 | 3 => some ([0], [7], [0])
    | 1 | 2 => some ([0], [4], [7])
    | 4 | 6 => some ([0], [0], [0])
    | 5 => some ([0], [1], [7])
    | 7 => some ([0], [1, 3], [0])
    | _ => none
  | 8 =>
    if 4 ≤ op ∧ op ≤ 0xC then some ([1], [1, 3], [1, 3])
    else match op with
      | 0 => some ([1], [1, 3], [0])
      | 1 => some ([1], [6], [0])
      | 2 => some ([1], [2], [1])
      | 3 => some ([2], [1, 3], [1])
      | 0xD | 0xE => some ([4], [1, 3], [1, 3])
      | 0xF => some ([1], [3], [0])
      | _ => none
  | _ => none

/-- A reserved MOD setting (R54). -/
def modReserved (x : Aq) : Bool :=
  match x.cls with
  | 0 => 8 ≤ x.mod || x.mod.testBit 2 && x.op ≠ 1
  | 1 => x.mod.testBit 3 || x.mod % 4 = 3 || x.mod % 4 ≠ 0 && !(0x10 ≤ x.op && x.op ≤ 0x12)
  | 2 => 2 ≤ x.mod
  | _ => x.mod ≠ 0

/-- BAD_INSTRUCTION (R54). -/
def badInstruction (x : Aq) : Bool :=
  (aqKinds x.cls x.op).isNone || modReserved x || [x.d, x.a, x.b].any fun o => o.kind = 0 && o.index ≠ 0

/-- INDEX within the range of its KIND (Table 2.11). -/
def indexOk (c : ImgCounts) (o : Opd) : Bool :=
  match o.kind with
  | 1 => o.index < 64
  | 2 => o.index < c.grids.length
  | 4 => o.index < 16
  | 5 => o.index < c.tallies
  | 6 => o.index < c.consts
  | 7 => o.index < c.labels
  | _ => true

/-- KIND permitted and INDEX in range (R53). -/
def operandsOk (c : ImgCounts) (x : Aq) : Bool :=
  match aqKinds x.cls x.op with
  | some (kd, ka, kb) =>
    kd.contains x.d.kind && ka.contains x.a.kind && kb.contains x.b.kind && [x.d, x.a, x.b].all (indexOk c)
  | none => false

/-! ### Shapes and types (R55–R67, R152, R153, R155, R497, R500) -/

/-- A grid operand with its element type. -/
def gridOf (c : ImgCounts) (o : Opd) : Option (Grid × Elem) :=
  match c.grids[o.index]? with
  | some g => (elemOfGrid g.type).map fun t => (g, t)
  | none => none

/-- The two dimensions of a matrix operand, exchanged when it is read transposed, which TRANSPOSABLE must permit. -/
def matrixOf (g : Grid) (tr : Bool) : Option (Nat × Nat) :=
  if g.rank ≠ 2 || tr && !g.transposable then none
  else
    let m := g.dim.getD 0 0
    let n := g.dim.getD 1 0
    some (if tr then (n, m) else (m, n))

/-- Element types of a RECKON or SUM (R55–R57). -/
def reckonTypesOk (op : Nat) (td ta tb : Elem) : Bool :=
  ta = tb && match op with
    | 0 => [Elem.int8, .uint8, .int4].contains ta && [Elem.int8, .int16, .int32].contains td
    | 1 => ta = .cint8 && [Elem.cint8, .cint16, .cint32].contains td
    | _ => ta = .int16 && [Elem.int16, .int32].contains td

/-- RECKON operands (R57, R497). -/
def reckonOk (x : Aq) (d a b : Grid) (td ta tb : Elem) : Bool :=
  reckonTypesOk x.op td ta tb &&
    match matrixOf d false, matrixOf a (x.mod.testBit 0), matrixOf b (x.mod.testBit 1) with
    | some (dm, dn), some (am, ak), some (bk, bn) =>
      let plain := a.zp = 0 && b.zp = 0
      dm = am && dn = bn && ak = bk &&
        (if x.op = 1 && !x.mod.testBit 2 then plain && ak ≤ 65535 else if x.op = 2 then plain && ak ≤ 32768 else true)
    | _, _, _ => false

/-- SUM operands (R497). -/
def sumOk (x : Aq) (d a b : Grid) (td ta tb : Elem) : Bool :=
  reckonTypesOk 0 td ta tb && d.rank = 1 && b.rank = 1 &&
    match matrixOf a (x.mod.testBit 0) with
    | some (n, k) => d.dim.getD 0 0 = n && b.dim.getD 0 0 = k
    | none => false

/-- The element types an element-wise ROD op works on (Table 6.4; log entry 81). -/
def rodTypeOk (op : Nat) (t : Elem) : Bool :=
  if op ≤ 2 ∨ op = 6 then t ≠ .bool
  else if op = 3 ∨ op = 4 ∨ op = 5 ∨ op = 0xC then !t.complex && t ≠ .bool
  else if op = 7 ∨ op = 8 then !t.float && t ≠ .bool
  else if 9 ≤ op ∧ op ≤ 0xB then !t.float && !t.complex
  else true

/-- D of a reduction (R500). -/
def reduceShapeOk (axis : Nat) (d a : Grid) : Bool :=
  if axis = 2 then d.count = 1
  else axis < a.rank && d.rank = a.rank && d.shape = a.shape.set axis 1

/-- ROD operands (R140, R500; log entry 81). -/
def rodOk (c : ImgCounts) (x : Aq) : Bool :=
  match gridOf c x.a with
  | none => x.op = 0x18
  | some (a, ta) =>
    let d := gridOf c x.d
    let shapeB (t : Elem) : Bool := x.b.kind ≠ 2 || match gridOf c x.b with
      | some (b, tb) => b.shape = a.shape && tb = t
      | none => false
    if x.op ≤ 0xE ∧ x.op ≠ 5 ∧ x.op ≠ 6 then
      match d with
      | some (d, td) =>
        d.shape = a.shape && (if x.op = 0xC ∨ x.op = 0xD then td = .bool else td = ta) && rodTypeOk x.op ta && shapeB ta
      | none => false
    else match x.op, d with
      | 5, some (d, td) => d.shape = a.shape && td = ta && rodTypeOk 5 ta
      | 6, some (d, td) => d.shape = a.shape && td = ta && rodTypeOk 6 ta
      | 0xF, some (d, td) => d.shape = a.shape && td.complex = ta.complex
      | 0x10, some (d, td) => td = ta && !ta.complex && ta ≠ .bool && reduceShapeOk (x.mod % 4) d a
      | 0x11, some (d, td) => td = ta && !ta.complex && ta ≠ .bool && reduceShapeOk (x.mod % 4) d a
      | 0x12, some (d, td) => td = ta && !ta.complex && ta ≠ .bool && reduceShapeOk (x.mod % 4) d a
      | 0x13, _ => !ta.complex && ta ≠ .bool
      | 0x14, _ => ta = .bool
      | 0x15, _ => ta = .bool
      | 0x16, some (_, td) => td = ta
      | 0x17, some (_, td) => td = ta
      | 0x18, _ => x.a.kind = 0 || ta = .bool
      | _, _ => false

/-- The shape with its innermost dimension replaced. -/
def innermost (g : Grid) (f : Nat → Nat) : List Nat := g.shape.dropLast ++ [f (g.dim.getD (g.rank - 1) 1)]

/-- MEASURE, APPLY and DEQUANT (R152, R153, R155). -/
def scaleOk (op : Nat) (d a : Grid) (td ta : Elem) : Bool :=
  match op with
  | 1 => ta ≠ .bool && td = (if ta.float then Elem.fp32 else .int32) && d.shape = innermost a fun n => 2 * ((n + 31) / 32)
  | 2 => d.blockQuant && !ta.complex && ta ≠ .bool &&
      (if td.complex then a.rank = d.rank && a.shape = innermost d (2 * ·) else a.shape = d.shape)
  | _ => a.blockQuant && td.float &&
      (if ta.complex then a.rank = d.rank && d.shape = innermost a (2 * ·) else a.shape = d.shape)

/-- A SCALE DRAIN immediate (R62); `wide` when the next RECKON in program order is a MATMUL16. -/
def drainOk (c : ImgCounts) (v : Nat) (wide : Bool) : Bool :=
  let sh := slice v 5 0
  let m := slice v 7 6
  m ≠ 3 && sh ≤ (if wide then 47 else 31) && !(m = 2 && (32 < sh || c.streams ≤ slice v 12 8))

/-- The stream of a DRAW (R63, R495). -/
def streamOk (c : ImgCounts) (o : Opd) : Bool := 0 ≤ o.imm && o.imm < c.streams

/-- An instruction's operands by the rules of its class, with `wide` as in `drainOk`. -/
def aqOperandsOk (c : ImgCounts) (x : Aq) (wide : Bool) : Bool :=
  operandsOk c x &&
    match x.cls, gridOf c x.d, gridOf c x.a, gridOf c x.b with
    | 0, some (d, td), some (a, ta), some (b, tb) => reckonOk x d a b td ta tb
    | 0, _, _, _ => false
    | 1, _, _, _ => rodOk c x
    | 2, some (d, td), some (a, ta), some (b, tb) => sumOk x d a b td ta tb
    | 2, _, _, _ => false
    | 3, d, a, _ =>
      if x.op = 0 then drainOk c x.a.index wide
      else match d, a with
        | some (d, td), some (a, ta) => scaleOk x.op d a td ta
        | _, _ => false
    | 4, d, _, _ =>
      streamOk c x.a && (x.op = 1 || match d with
        | some (_, td) => td = .int32
        | none => false)
    | 5, d, a, _ =>
      x.op = 1 || match d, a with
        | some (d, td), some (a, ta) => td = ta && d.shape = a.shape
        | _, _ => false
    | 8, _, _, _ => x.op ≠ 0xF || 0 ≤ x.a.imm && x.a.imm < 24
    | _, _, _, _ => true

/-- Whether the next RECKON from instruction i on is a MATMUL16. -/
def nextWide (code : List Aq) (i : Nat) : Bool :=
  match (code.drop i).find? (·.cls = 0) with
  | some x => x.op = 2
  | none => false

/-- Step 8. -/
def instructionFault (c : ImgCounts) (code : List Aq) : Option BindFault :=
  (code.zipIdx).findSome? fun (x, i) =>
    if badInstruction x then some ⟨0x07, i⟩
    else if !aqOperandsOk c x (nextWide code i) then some ⟨0x08, i⟩ else none

/-! ### Tasks and control flow (R48, R66) -/

def imgTask (rd : Nat → Byte) (o : Nat) : TaskDecl :=
  { vtile := rdN rd o 2, workClass := rdN rd (o + 2) 1, tag := rdN rd (o + 3) 1, entryLabel := rdN rd (o + 4) 2,
    partition := rdN rd (o + 6) 1, beatBound := rdN rd (o + 8) 4 }

/-- A task entry is good (R48). -/
def taskOk (rd : Nat → Byte) (h : ImgHeader) (labels o : Nat) : Bool :=
  let t := imgTask rd o
  t.vtile < h.vtiles && t.workClass ≤ 4 && t.tag < h.clientTags && t.entryLabel < labels && t.partition ≤ 2 &&
    rdZero rd (o + 7) 1 && rdZero rd (o + 12) 4 && (t.beatBound = 0 || h.timingClass = 1)

/-- The code of an image with its labels as instruction indices. -/
structure Flow where
  code : List Aq
  labels : List Nat
  deriving DecidableEq, Repr

def Flow.at (f : Flow) (i : Nat) : Option Aq := f.code[i]?
def Flow.label (f : Flow) (o : Opd) : Nat := f.labels.getD o.index 0

/-- Where control may go next within an activation, calls passed over; a CALL gives its return point. -/
def Flow.local (f : Flow) (i : Nat) : List Nat :=
  match f.at i with
  | none => []
  | some x =>
    if x.cls ≠ 7 then [i + 1]
    else match x.op with
      | 0 => [f.label x.a]
      | 1 | 2 | 5 => [f.label x.b, i + 1]
      | 3 => [i + 1]
      | _ => []

/-- The entry of the procedure that instruction i calls. -/
def Flow.callee (f : Flow) (i : Nat) : Option Nat :=
  match f.at i with
  | some x => if x.cls = 7 ∧ x.op = 3 then some (f.label x.a) else none
  | none => none

/-- Whether the activation that stands at instruction i may come to its RET, within k steps of the argument. -/
def Flow.returns (f : Flow) : Nat → Nat → Bool
  | 0, _ => false
  | k + 1, i =>
    (match f.at i with
      | some x => x.cls = 7 && x.op = 4
      | none => false) ||
    ((match f.callee i with
        | some l => f.returns k l
        | none => true) && (f.local i).any (f.returns k))

/-- The steps of control from instruction i: into a called procedure, past a CALL that may return, or on; each with
whether it enters a procedure. -/
def Flow.next (f : Flow) (i : Nat) : List (Nat × Bool) :=
  match f.callee i with
  | some l => (l, true) :: (if f.returns f.code.length l then [(i + 1, false)] else [])
  | none => (f.local i).map fun j => (j, false)

/-- Whether control at instruction i can come to j within k steps, entering at least d procedures. -/
def Flow.reaches (f : Flow) : Nat → Nat → Nat → Nat → Bool
  | 0, d, i, j => d = 0 && i = j
  | k + 1, d, i, j => d = 0 && i = j || (f.next i).any fun (n, c) => f.reaches k (if c then d - 1 else d) n j

/-- Whether a task runs instruction j. -/
def Flow.runs (f : Flow) (entries : List Nat) (j : Nat) : Bool := entries.any fun e => f.reaches f.code.length 0 e j

/-- Whether an instruction writes word w. -/
def Aq.writesWord (x : Aq) (w : Nat) : Bool :=
  match x.cls with
  | 1 => (x.op = 0x13 || x.op = 0x14) && x.d = ⟨1, w⟩ || x.op = 0x16 && x.b = ⟨1, w⟩
  | 6 => x.op = 2 && x.d = ⟨1, w⟩
  | 7 => x.op = 5 && x.a = ⟨1, w⟩
  | 8 => x.d = ⟨1, w⟩
  | _ => false

/-- Whether instruction j belongs to the body of the LOOP at i (R66). -/
def Flow.inBody (f : Flow) (i target j : Nat) : Bool :=
  target ≤ j && j < i ||
    (List.range (i - target)).any fun k => match f.callee (target + k) with
      | some l => f.reaches f.code.length 0 l j
      | none => false

/-- The LOOP at i has its counter written in its body by another instruction. -/
def Flow.loopBad (f : Flow) (i : Nat) : Bool :=
  match f.at i with
  | some x =>
    x.cls = 7 && x.op = 5 && f.label x.b ≤ i && (List.range f.code.length).any fun j =>
      j ≠ i && f.inBody i (f.label x.b) j && match f.at j with
        | some y => y.writesWord x.a.index
        | none => false
  | none => false

/-- The draw stream that an instruction consumes or selects for stochastic drains. -/
def Aq.stream (x : Aq) : Option Nat :=
  if x.cls = 4 then some x.a.index
  else if x.cls = 3 && x.op = 0 && slice x.a.index 7 6 = 2 then some (slice x.a.index 12 8) else none

/-- Whether a task that starts at `e` uses stream n. -/
def Flow.uses (f : Flow) (e n : Nat) : Bool :=
  (f.code.zipIdx).any fun x => x.1.stream = some n && f.runs [e] x.2

/-- A tally operation: of class TALLY, or a COPY, whose completion adds to a tally. -/
def Aq.onTally (x : Aq) : Bool := x.cls = 6 || x.cls = 5 && x.op = 0

/-- Whether a task that starts at `e` runs a tally operation. -/
def Flow.tallies (f : Flow) (e : Nat) : Bool := (f.code.zipIdx).any fun x => x.1.onTally && f.runs [e] x.2

/-- The instructions of a task that starts at `e` and comes to its END with no other BRANCH before it. -/
def Flow.line (f : Flow) (e : Nat) : Option (List Nat) :=
  let l := ((List.range f.code.length).drop e).takeWhile fun i => (f.at i).any (·.cls ≠ 7)
  match f.at (e + l.length) with
  | some x => if x.op = 6 then some l else none
  | none => none

/-- The instructions of such a line that take draws from stream n: UNIFORM and SKIP, and drains under a stochastic setting
that selects it (R63). -/
def Flow.lineDraws (f : Flow) (l : List Nat) (n : Nat) : List Nat :=
  (l.foldl (fun (a : Bool × List Nat) i => match f.at i with
    | some x =>
      if x.cls = 3 && x.op = 0 then (x.stream = some n, a.2)
      else if x.cls = 4 && x.a.index = n || a.1 && x.cls ≤ 3 then (a.1, a.2 ++ [i]) else a
    | none => a) (false, [])).2

/-- A plain hand-over of stream n from the task that starts at `a` to the one at `b`: both are lines, and after its last
draw the first gives the one SIGNAL on a KIND 0 tally for which the second waits before its first. -/
def Flow.handsOver (f : Flow) (tallies : List TallyDecl) (a b n : Nat) : Bool :=
  match f.line a, f.line b with
  | some la, some lb => ((tallies.zipIdx).filter fun h => h.1.kind = 0).any fun h =>
    let adds := (f.code.zipIdx).filter fun x =>
      x.1.cls = 6 && x.1.op = 0 && x.1.a.index = h.2 || x.1.cls = 5 && x.1.op = 0 && x.1.b.index = h.2
    let waits (j : Nat) : Bool := match f.at j with
      | some y => y.cls = 6 && y.op = 1 && y.a.index = h.2 && y.b.kind ≠ 1 && y.b.kind ≠ 6 && 1 ≤ y.b.imm
      | none => false
    match adds with
    | [(x, i)] => h.1.initial = 0 && x.cls = 6 && la.contains i && (f.lineDraws la n).all (· < i)
        && lb.any fun j => waits j && (f.lineDraws lb n).all (j < ·)
    | _ => false
  | _, _ => false

/-- The pairs of tasks that share stream n, by their entries. -/
def Flow.sharers (f : Flow) (entries : List Nat) (n : Nat) : List (Nat × Nat) :=
  let l := (entries.filter fun e => f.uses e n).zipIdx
  l.flatMap fun x => (l.filter fun y => x.2 < y.2).map fun y => (x.1, y.1)

/-- Draw-stream use that tallies do not order (R63): only where instruction i uses a stream that two tasks share. Tasks of
which one runs no tally operation are not ordered, and a plain hand-over orders its two; of other sharing the binder's
analysis tells (log entry 30). -/
def Flow.unordered (f : Flow) (entries : List Nat) (tallies : List TallyDecl) (img : List Byte) : Option Nat :=
  let pairs (i : Nat) : List (Nat × Nat × Nat) := match (f.at i).bind Aq.stream with
    | some n => (f.sharers entries n).map fun x => (n, x)
    | none => []
  let apart (i : Nat) : Bool := (pairs i).any fun x => !f.tallies x.2.1 || !f.tallies x.2.2
  let settled (i : Nat) : Bool := (pairs i).all fun x =>
    f.handsOver tallies x.2.1 x.2.2 x.1 || f.handsOver tallies x.2.2 x.2.1 x.1
  match firstOf f.code.length apart with
  | some i => some i
  | none => match Config.drawsUnordered img with
    | some i => if settled i then none else some i
    | none => none

/-- The faults of R66 in their order, the lowest DETAIL of the first kind found. -/
def Flow.fault (f : Flow) (entries : List Nat) (tallies : List TallyDecl) (img : List Byte) : Option Nat :=
  let n := f.code.length
  let offEnd (i : Nat) : Bool := f.runs entries i && (f.next i).any fun (j, _) => n ≤ j
  let recursive (i : Nat) : Bool := match f.callee i with
    | some l => f.runs entries i && f.reaches n 0 l i
    | none => false
  let deep (i : Nat) : Bool := (f.callee i).isSome && entries.any fun e => f.reaches (17 * n) 16 e i
  match firstOf f.labels.length fun k => n ≤ f.labels.getD k 0 with
  | some k => some (0x8000_0000 + k)
  | none => match firstOf n offEnd with
    | some i => some i
    | none => match firstOf n recursive with
      | some i => some i
      | none => match firstOf n deep with
        | some i => some i
        | none => match firstOf n f.loopBad with
          | some i => some i
          | none => f.unordered entries tallies img

/-! ### The parts of an image -/

structure ImgParts where
  head : ImgHeader
  grids : List Grid
  counts : ImgCounts
  flow : Flow
  tasks : List TaskDecl
  tallies : List TallyDecl
  records : List (Nat × Nat × Nat)
  /-- The instruction words, the constants and the grid descriptors as they stand. -/
  words : List DWord
  consts : List DWord
  gridBytes : List (List Byte)
  sigOff : Nat
  deriving DecidableEq, Repr

/-- The entries of `unit` bytes of a section. -/
def sectEntries (l : List Sect) (t unit : Nat) : List Nat :=
  match sectOf l t with
  | some x => (List.range (x.size / unit)).map fun i => x.off + unit * i
  | none => []

def imgParts (rd : Nat → Byte) : ImgParts :=
  let h := imgHeader rd
  let l := imgSections rd h
  let grids := (sectEntries l 4 64).map (imgGrid rd)
  let labels := (sectEntries l 2 4).map fun o => rdN rd o 4
  { head := h, grids := grids,
    counts := { grids := grids, tallies := h.tallyCount, consts := (sectEntries l 3 8).length, labels := labels.length,
                streams := h.drawStreams },
    flow := { code := (sectEntries l 1 8).map fun o => aqOf (rdN rd o 8), labels := labels },
    tasks := (sectEntries l 7 16).map (imgTask rd),
    tallies := (sectEntries l 6 8).map fun o => ⟨rdN rd o 1, rdN rd (o + 1) 1, rdN rd (o + 2) 2, rdN rd (o + 4) 4⟩,
    records := match sectOf l 5 with
      | some x => (dataRecords rd (x.size / 8) x.off (x.off + x.size)).getD []
      | none => [],
    words := (sectEntries l 1 8).map fun o => BitVec.ofNat 64 (rdN rd o 8),
    consts := (sectEntries l 3 8).map fun o => BitVec.ofNat 64 (rdN rd o 8),
    gridBytes := (sectEntries l 4 64).map fun o => rdBytes rd o 64,
    sigOff := match sectOf l 0xF with
      | some x => x.off
      | none => 0 }

/-- The instruction indices at which the tasks start. -/
def ImgParts.entries (p : ImgParts) : List Nat := p.tasks.map fun t => p.flow.labels.getD t.entryLabel 0

/-- Step 9. -/
def flowFault (rd : Nat → Byte) (p : ImgParts) (img : List Byte) : Option BindFault :=
  let os := sectEntries (imgSections rd p.head) 7 16
  match firstOf os.length fun i => !taskOk rd p.head p.counts.labels (os.getD i 0) with
  | some i => some ⟨0x12, i⟩
  | none => (p.flow.fault p.entries p.tallies img).map fun d => ⟨0x10, d⟩

end Sys2Proof.Machine
end

