-- ==== Sys2Proof/Machine/Bind.lean ====
section
/-! DEFINITION. Bind.lean: binding steps 6 and 10 to 16: imports, placement, namespace, native code and timing, and
JOB_BIND with its completion (R68–R75, R207, R243, R247, R252, R280, R404). -/

namespace Sys2Proof.Machine

/-! ### Mequel's HBM areas of a slot (R252; the places within the region are the model's, log entry 31) -/

/-- First byte of a slot's areas. -/
def slotArea (k : Nat) : Nat := mequelLo + 0x1000_0000 + k * 0x1828_0000
/-- The context save area, the peer-read shadow area and the board image of a slot. -/
def contextArea (k : Nat) : Nat := slotArea k
def shadowArea (k : Nat) : Nat := slotArea k + 0x18_0000
def boardImage (k : Nat) : Nat := slotArea k + 0x28_0000

/-- Where the board image of slot k holds offset o of a board: memory 0 the board of tile u, 1 the common board. -/
def boardImageAt (k mem u o : Nat) : Nat := boardImage k + (if mem = 0 then u * boardSize else 16 * boardSize) + o

/-! ### Step 6 (R404, Table 2.14) -/

/-- DESIGN CHOICE (log entry 89): the manual gives no condition for DETAIL 3, so timing-equalised mode is always
available. -/
def tilesFault (s : State) (h : ImgHeader) : Option BindFault :=
  if (h.chipCount = 2 || h.flags.testBit 1) && !bridgeUp s then some ⟨0x0A, 1⟩
  else if h.timingClass = 2 && 16 < h.vtiles then some ⟨0x0A, 2⟩ else none

/-! ### Step 10 (R47, R247, R252, R280) -/

/-- Slots other than k whose jobs are bound. DESIGN CHOICE (log entry 88): a LOADED job holds its slot alone (Table
9.6), so its HBM_BYTES, tallies and placements count only from its own bind on. -/
def otherJobs (s : State) (k : Nat) : List JobSlot :=
  ((List.range 4).filter fun n => n ≠ k && (s.job n).state ≠ .empty && (s.job n).state ≠ .loaded).map s.job

/-- KIND 2 declarations. -/
def slotTicks (l : List TallyDecl) : Nat := l.countP fun d => d.kind = 2

/-- A TALLIES entry is good: entry i of the list (R47, R247). A KIND 3 tally needs a partner job (log entry 32). -/
def tallyDeclOk (s : State) (k : Nat) (ccTag : List Nat) (h : ImgHeader) (l : List TallyDecl) (i : Nat) : Bool :=
  match l[i]? with
  | none => false
  | some d =>
    d.initial ≤ tallyMax && match d.kind with
      | 0 => d.arg0 = 0 && d.arg1 = 0
      | 1 => d.arg0 < 24 && d.arg1 < 14 && s.ccEnabled d.arg0 && ccTag.getD d.arg0 255 < h.clientTags
      | 2 =>
        let n := slotTicks (l.take (i + 1))
        let others := (otherJobs s k).foldl (fun a j => a + slotTicks j.image.tallies) 0
        d.arg0 < 4 && d.arg1 = 0 && n ≤ 64 && others + n ≤ 256
      | 3 => d.arg0 = 0 && d.arg1 = 0 && h.chipCount = 2
      | _ => false

/-- Strides row-major with no gaps. -/
def rowMajor (g : Grid) (bytes : Nat) : Bool :=
  (List.range g.rank).all fun d => g.stride.getD d 0 = bytes * (g.shape.drop (d + 1)).foldl (· * ·) 1

/-- A SPACE 4 grid qualifies as the defining grid of its region (R280, Table 10.4). -/
def definingGrid (s : State) (g : Grid) : Bool :=
  let b := carrierBase g.owner
  let sw := sstride (s.fld b 22 14) / 4
  let rings (streams : Nat) : Bool :=
    g.type = 9 && rowMajor g 4 && [7, 14, 28].any fun (r : Nat) => g.shape = [r, streams, sw]
  g.space = 4 && g.off = 0 && match g.region with
    | 0 => rings (s.fld b 13 8)
    | 1 => rings (s.fld b 7 2)
    | 2 => g.type = 9 && rowMajor g 4 && g.shape = [4, s.fld b 13 8, 1024]
    | 3 => g.type = 2 && rowMajor g 1 &&
        (match g.shape with
          | [n, 64] => isPow2 n && 16 ≤ n && n ≤ 4096
          | _ => false)
    | 4 => g.type = 2 && rowMajor g 1 &&
        (match g.shape with
          | [n] => 512 ≤ n && n ≤ 0x100_0000
          | _ => false)
    | _ => false

/-- Bytes of a grid from its BASE. -/
def Grid.bytes (g : Grid) : Nat := match elemOfGrid g.type with
  | some t => g.extent t
  | none => 0

/-- The defining grid of a region: the first that qualifies. -/
def definerOf (s : State) (gs : List Grid) (owner region : Nat) : Option Grid :=
  gs.find? fun g => g.owner = owner && g.region = region && definingGrid s g

/-- The carrier buffer of (carrier, region) that another resident job holds. -/
def residentBuffer (s : State) (k owner region : Nat) : Option Placement :=
  (otherJobs s k).findSome? fun j => j.image.places.find? fun p => p.carrier && p.owner = owner && p.region = region

/-- A SPACE 4 grid is admitted (R252, R280). -/
def bufferGridOk (s : State) (k : Nat) (gs : List Grid) (g : Grid) : Bool :=
  match definerOf s gs g.owner g.region with
  | none => false
  | some d =>
    (!definingGrid s g || g.shape = d.shape) && g.off + g.bytes ≤ d.bytes &&
      match residentBuffer s k g.owner g.region with
      | some p => p.size = d.bytes
      | none => true

/-- Step 10. -/
def importFault (s : State) (k : Nat) (ccTag : List Nat) (p : ImgParts) : Option BindFault :=
  match firstOf p.tallies.length fun i => !tallyDeclOk s k ccTag p.head p.tallies i with
  | some i => some ⟨0x11, i⟩
  | none =>
    (firstOf p.grids.length fun i => match p.grids[i]? with
      | some g => g.space = 4 && !bufferGridOk s k p.grids g
      | none => false).map fun i => ⟨0x11, 0x8000_0000 + i⟩

/-! ### Step 12: placement (R49, R71, R72, R194, R207, R208, R252)

Allocations lie at the lowest free multiple of 64 that R194 accepts (log entry 31). -/

/-- A range of a memory: first byte and length. -/
abbrev Range := Nat × Nat

/-- The lowest multiple of `al` at which n bytes fit below `cap` beside the ranges in use. -/
def lowestAligned (used : List Range) (cap n al : Nat) : Option Nat :=
  let starts := 0 :: used.map fun u => (u.1 + u.2 + al - 1) / al * al
  let good := starts.filter fun a => a + n ≤ cap && used.all fun u => !overlaps a n u.1 u.2
  match good with
  | [] => none
  | a :: r => some (r.foldl min a)

/-- Rows of an operand grid that a feeder reads together, within their allocation: first byte, stride and number. -/
abbrev RowSet := Nat × Nat × Nat

/-- Whether the lines of each row set fall in distinct banks when the allocation lies at board offset `base` (R194). -/
def spreads (rows : List RowSet) (base : Nat) : Bool :=
  rows.all fun r =>
    let banks := (List.range r.2.2).map fun i => bankOf (base + r.1 + i * r.2.1)
    banks.eraseDups.length = banks.length

/-- The lowest place from `start` on, within one period of the bank function, where n bytes fit and the row sets spread.
-/
def spreadFrom (used : List Range) (cap n : Nat) (rows : List RowSet) (start : Nat) : Option Nat :=
  (firstOf 8192 fun i =>
    let a := start + 64 * i
    a + n ≤ cap && (used.all fun u => !overlaps a n u.1 u.2) && spreads rows a).map fun i => start + 64 * i

/-- Where n bytes fit: at the lowest multiple of 64 at which the row sets spread over the banks, or at the lowest of all
where none does, so that no bind fails for it. -/
def lowestFit (used : List Range) (cap n : Nat) (rows : List RowSet := []) : Option Nat :=
  if rows.isEmpty then lowestAligned used cap n 64
  else
    let starts := 0 :: used.map fun u => (u.1 + u.2 + 63) / 64 * 64
    match starts.filterMap (spreadFrom used cap n rows) with
    | a :: r => some (r.foldl min a)
    | [] => lowestAligned used cap n 64

/-- The largest free run of a memory. -/
def largestRun (all : List Range) (cap : Nat) : Nat :=
  let used := all.filter fun u => 0 < u.2
  let starts := (0 :: used.map fun u => u.1 + u.2).filter fun a => a < cap && used.all fun u => a < u.1 || u.1 + u.2 ≤ a
  starts.foldl (fun m a => max m ((used.foldl (fun e u => if a ≤ u.1 then min e u.1 else e) cap) - a)) 0

/-- RESOURCE_MEMORY for an allocation of n bytes in memory `mem` (Table 2.14). -/
def memoryFault (mem short : Nat) : BindFault := ⟨0x0B, mem * 2 ^ 28 + clamp 1 0x0FFF_FFFF ((short + 1023) / 1024)⟩

/-- What placement has done so far: the allocations, and those sent to HBM, in order. -/
structure Placed where
  places : List Placement
  spilled : List (Nat × Nat × Nat × Nat)
  fault : Option BindFault
  deriving DecidableEq, Repr

/-- SPACE, OWNER and REGION of the allocation a grid shares (R49); a SPACE 5 grid is placed as a SPACE 1 grid (R404). -/
def Grid.key (g : Grid) : Nat × Nat × Nat := (if g.space = 5 then 1 else g.space, g.owner, g.region)

/-- Bytes of an allocation: the largest extent of the grids that share it. -/
def allocSize (gs : List Grid) (key : Nat × Nat × Nat) : Nat :=
  gs.foldl (fun m g => if g.key = key then max m (g.off + g.bytes) else m) 0

/-- The rows of a grid that a K-step reads: at most 32 along the dimension before the last (R112). -/
def gridRows (g : Grid) : Option RowSet :=
  if g.rank < 2 then none
  else some (g.off, g.stride.getD (g.rank - 2) 0, min 32 (g.dim.getD (g.rank - 2) 0))

/-- The row sets of an allocation: those of the operand grids of the bead array in it (R194). -/
def allocRows (gs : List Grid) (fed : Nat → Bool) (key : Nat × Nat × Nat) : List RowSet :=
  ((gs.zipIdx).filter fun x => x.1.key = key && fed x.2).filterMap fun x => gridRows x.1

/-- The ranges in use in a memory: this job's own, and those that other jobs block. -/
def usedIn (p : Placed) (blocked : List Range) (mem unit : Nat) : List Range :=
  blocked ++ (p.places.filter fun x => x.memory = mem && x.unit = unit).map fun x => (x.off, x.size)

/-- One allocation placed in a memory, or sent to HBM, or the bind's failure. -/
def placeOne (p : Placed) (key : Nat × Nat × Nat) (n mem unit cap : Nat) (blocked : List Range) (spill : Bool)
    (rows : List RowSet := []) : Placed :=
  let known := p.places.any (fun x => (x.space, x.owner, x.region) = key) ||
    p.spilled.any fun x => (x.1, x.2.1, x.2.2.1) = key
  if p.fault.isSome || known then p
  else
    let used := usedIn p blocked mem unit
    match lowestFit used cap n rows with
    | some o =>
      { p with places := p.places ++ [{
          space := key.1, owner := key.2.1, region := key.2.2, memory := mem, unit := unit, off := o, size := n,
          carrier := key.1 = 4 }] }
    | none =>
      if spill then { p with spilled := p.spilled ++ [(key.1, key.2.1, key.2.2, n)] }
      else { p with fault := some (memoryFault mem (n - largestRun used cap)) }

/-- The grids that an instruction names, with those its BLOCK_QUANT grids name. -/
def Aq.grids (x : Aq) (gs : List Grid) : List Nat :=
  let l := ([x.d, x.a, x.b].filter (·.kind = 2)).map (·.index)
  l ++ l.flatMap fun i => match gs[i]? with
    | some g => if g.blockQuant then [g.scale, g.clip] else []
    | none => []

/-- Whether a task uses grid i. -/
def taskUses (p : ImgParts) (t : TaskDecl) (i : Nat) : Bool :=
  let e := p.flow.labels.getD t.entryLabel 0
  (p.flow.code.zipIdx).any fun (x, j) => (x.grids p.grids).contains i && p.flow.runs [e] j

/-- The most urgent work class of a grid; 5 when no task uses it (R207). -/
def urgency (p : ImgParts) (i : Nat) : Nat :=
  p.tasks.foldl (fun m t => if taskUses p t i then min m t.workClass else m) 5

/-- The grids of a board in the order of R207: PINNED ones and carrier buffers, then the rest by work class. -/
def boardOrder (p : ImgParts) (here : Grid → Bool) : List Nat × List Nat :=
  let mine := (List.range p.grids.length).filter fun i => match p.grids[i]? with
    | some g => here g
    | none => false
  let fixed (i : Nat) : Bool := match p.grids[i]? with
    | some g => g.pinned || g.space = 4
    | none => false
  let rest := mine.filter (!fixed ·)
  (mine.filter fixed, (List.range 6).flatMap fun c => rest.filter fun i => urgency p i = c)

/-- Whether grid i is an operand of the feeders. -/
def fedGrid (x : ImgParts) (i : Nat) : Bool := x.flow.code.any fun y => (y.cls = 0 || y.cls = 2) && (y.a = ⟨2, i⟩ || y.b = ⟨2, i⟩)

/-- Grids placed in order. -/
def placeAll (x : ImgParts) (mem unit cap : Nat) (blocked : List Range) (spill : Bool) (p : Placed) (l : List Nat) :
    Placed :=
  l.foldl (fun p i => match x.grids[i]? with
    | some g =>
      placeOne p g.key (allocSize x.grids g.key) mem unit cap blocked spill
        (if mem = 0 then allocRows x.grids (fedGrid x) g.key else [])
    | none => p) p

/-- The bytes of the native program the binder writes for tile t; at most 512 KiB (R70 step 14, R379). -/
def nativeBytes (img : List Byte) (t : Nat) : List Byte := (Config.nativeCode img t).take 0x8_0000

/-- The board of logical tile t: its PINNED grids, its native code, then the rest. DESIGN CHOICE (log entry 6): the manual
gives step 12 no place for native code and no failure for it; here it is placed behind the PINNED grids, before any later
tile's, and code that does not fit is RESOURCE_MEMORY of the tile board. -/
def placeTile (x : ImgParts) (img : List Byte) (p : Placed) (t : Nat) : Placed :=
  let (fixed, rest) := boardOrder x fun g => g.space = 0 && tileOfV x.head.vtiles g.owner = t
  let p := placeAll x 0 t boardSize [] false p fixed
  let p := if x.tasks.any fun k => tileOfV x.head.vtiles k.vtile = t then
      placeOne p (6, t, 0) (nativeBytes img t).length 0 t boardSize [] false
    else p
  placeAll x 0 t boardSize [] true p rest

/-- The common board (R252): a carrier buffer of another resident job is kept clear, and shared where this job imports
the same carrier; a new carrier buffer keeps clear of every other job's placements too. -/
def placeCommon (s : State) (k : Nat) (x : ImgParts) (p : Placed) : Placed :=
  let others := ((otherJobs s k).flatMap fun j => j.image.places).filter fun q => q.memory = 1
  let ranges (l : List Placement) : List Range := l.map fun q => (q.off, q.size)
  let (fixed, rest) := boardOrder x fun g => g.space = 1 || g.space = 4 || g.space = 5
  let p := fixed.foldl (fun p i => match x.grids[i]? with
    | none => p
    | some g =>
      let n := allocSize x.grids g.key
      if g.space = 4 then
        match residentBuffer s k g.owner g.region with
        | some q =>
          if p.places.any (fun y => (y.space, y.owner, y.region) = g.key) then p else { p with places := p.places ++ [q] }
        | none => placeOne p g.key n 1 0 commonSize (ranges others) false
      else placeOne p g.key n 1 0 commonSize (ranges (others.filter (·.carrier))) false) p
  placeAll x 1 0 commonSize (ranges (others.filter (·.carrier))) true p rest

/-- HBM (R72, R207): the SPACE 2 grids, then those sent from the boards, beside what other jobs hold and this job's own
image. -/
def placeHbm (s : State) (k : Nat) (x : ImgParts) (p : Placed) : Placed :=
  let j := s.job k
  let others := otherJobs s k
  let total := others.foldl (fun a (j : JobSlot) => a + j.image.hbmBytes) x.head.hbmBytes
  if p.fault.isSome then p
  else if mequelLo < total then { p with fault := some (memoryFault 2 (total - mequelLo)) }
  else
    let blocked : List Range := (j.imageAddr, j.imageSize) ::
      ((others.flatMap fun (j : JobSlot) => j.image.places).filter fun q => q.memory = 2).map fun q => (q.off, q.size)
    let p := placeAll x 2 0 mequelLo blocked false p
      ((List.range x.grids.length).filter fun i => match x.grids[i]? with
        | some g => g.space = 2
        | none => false)
    let sent := p.spilled
    sent.foldl (fun p q => placeOne { p with spilled := [] } (q.1, q.2.1, q.2.2.1) q.2.2.2 2 0 mequelLo blocked false) p

/-- The allocation of a grid. -/
def placeOf (places : List Placement) (g : Grid) : Option Placement :=
  places.find? fun p => (p.space, p.owner, p.region) = g.key

/-- A grid lies outside the board of logical tile t. -/
def outsideTile (places : List Placement) (t : Nat) (g : Grid) : Bool :=
  g.space = 5 || match placeOf places g with
    | some p => p.memory ≠ 0 || p.unit ≠ t
    | none => true

/-- The grids outside the board of tile t that its tasks use otherwise than by COPY: those that R208 stages. -/
def stagedGrids (x : ImgParts) (places : List Placement) (t : Nat) : List Nat :=
  (List.range x.grids.length).filter fun i =>
    (match x.grids[i]? with
      | some g => outsideTile places t g
      | none => false) &&
    x.tasks.any fun k => tileOfV x.head.vtiles k.vtile = t && (x.flow.code.zipIdx).any fun (y, j) =>
      y.cls ≠ 5 && (y.grids x.grids).contains i && x.flow.runs [x.flow.labels.getD k.entryLabel 0] j

/-- The staging areas of tile t (R208): SPACE 7, OWNER t, REGION the grid. An area holds its grid, or as much of it as the
largest free run of the board still takes (log entry 31). -/
def stageTile (x : ImgParts) (p : Placed) (t : Nat) : Placed :=
  (stagedGrids x p.places t).foldl (fun p i => match x.grids[i]? with
    | some g =>
      let room := largestRun (usedIn p [] 0 t) boardSize / 64 * 64 - 64
      placeOne p (7, t, i) (min g.bytes room) 0 t boardSize [] false
        (if fedGrid x i then (gridRows { g with off := 0 }).toList else [])
    | none => p) p

/-- Step 12, without the DATA contents. -/
def placeGrids (s : State) (k : Nat) (x : ImgParts) (img : List Byte) : Placed :=
  let p := (List.range 16).foldl (placeTile x img) ⟨[], [], none⟩
  let p := placeHbm s k x (placeCommon s k x p)
  if p.fault.isSome then p else (List.range 16).foldl (stageTile x) p

/-- The bytes a job demands of the board of tile t, staging areas included (R208). -/
def boardDemand (places : List Placement) (t : Nat) : Nat :=
  (places.filter fun p => p.memory = 0 && p.unit = t).foldl (fun n p => n + p.size) 0

/-- Where the initial contents of a placed allocation are written: the board image for a board, HBM itself otherwise
(R252). -/
def contentsAt (k : Nat) (p : Placement) : Nat := if p.memory = 2 then p.off else boardImageAt k p.memory p.unit p.off

/-- The bytes of the DATA records written from each grid's BASE on, as far as the grid extends (log entry 33). A SPACE 3
grid lies at its PCIe address; a record that names no grid writes nothing. -/
def writeData (s : State) (k : Nat) (rd : Nat → Byte) (x : ImgParts) (places : List Placement) : State :=
  x.records.foldl (fun s (i, o, n) => match x.grids[i]? with
    | none => s
    | some g =>
      let bs := rdBytes rd o (min n g.bytes)
      if g.space = 3 then memWrite s (hostStore g.off) bs .ledger
      else match placeOf places g with
        | some p => memWrite s (contentsAt k p + g.off) bs .ledger
        | none => s) s

/-! ### Step 13: the namespace (R243, R249) -/

/-- The namespaces of other resident jobs. -/
def heldTallies (s : State) (k : Nat) : List Range :=
  (otherJobs s k).map fun j => (j.image.nsBase, j.image.nsLen)

/-- Length of the namespace of a TALLY_COUNT. -/
def nsLength (n : Nat) : Nat := (n + 31) / 32 * 32

/-- The first tally of the lowest range of n tallies that is free, from a multiple of 32 on. -/
def nsFind (held : List Range) (n : Nat) : Option Nat :=
  (firstOf 508 fun i => 32 * i + n ≤ 16256 && held.all fun u => !overlaps (32 * i) n u.1 u.2).map (32 * ·)

/-- The namespace taken: each declared tally at its INITIAL count, the others at 0, all with clear flags. -/
def nsTake (s : State) (k base n : Nat) (l : List TallyDecl) : State :=
  s.forEach n fun s i => tallyFresh s (base + i) (match l[i]? with
    | some d => d.initial
    | none => 0) k

/-- The slide channels of the tile engines and their reserved credit minimums (R70 step 13), where a task runs: PRIV 0,
and the token word. -/
def channelPlan (x : ImgParts) (img : List Byte) : List (Nat × Word × Word) :=
  (List.range 512).filterMap fun n =>
    let w := (Config.channelPlan img (n / 32) (n % 32)).toNat
    let used := x.tasks.any fun k => tileOfV x.head.vtiles k.vtile = n / 32
    if used && w.testBit 31 then some (n, BitVec.ofNat 32 w &&& 0xA7FF_FF00, hiWord w) else none

/-! ### Step 15 (R68, R69) -/

/-- The longest hold-off of real-time work: above 2,500 beats the bind fails (R69). -/
def holdoffFault (x : ImgParts) (img : List Byte) : Option BindFault :=
  let (n, i) := Config.holdoff img
  if (x.tasks.any fun t => t.workClass ≤ 1) && 2500 < n then some ⟨0x0E, i⟩ else none

/-- The first task that does not meet the timing class (R68). -/
def timingFault (x : ImgParts) (img : List Byte) (places : List Placement) : Option BindFault :=
  let spilled (i : Nat) : Bool := match x.grids[i]? with
    | some g => g.space < 2 && (match placeOf places g with
        | some p => p.memory = 2
        | none => false)
    | none => false
  let bad (n : Nat) (t : TaskDecl) : Bool :=
    (1 ≤ x.head.timingClass && 0 < t.beatBound && t.beatBound < Config.taskBeats img n) ||
      (x.head.timingClass = 2 && t.workClass ≤ 1 && (List.range x.grids.length).any fun i => spilled i && taskUses x t i)
  ((x.tasks.zipIdx).find? fun (t, n) => bad n t).map fun (_, n) => ⟨0x0F, n⟩

/-! ### The bind report (R73, R369) -/

/-- The carriers whose SPACE 4 grids or KIND 1 tallies a task uses (R369). -/
def taskCarriers (x : ImgParts) (t : TaskDecl) : List Nat :=
  let e := x.flow.labels.getD t.entryLabel 0
  let names (c : Nat) (y : Aq) : Bool :=
    (y.grids x.grids).any (fun i => match x.grids[i]? with
      | some g => g.space = 4 && g.owner = c
      | none => false) ||
    [y.d, y.a, y.b].any fun o => o.kind = 5 && (match x.tallies[o.index]? with
      | some d => d.kind = 1 && d.arg0 = c
      | none => false)
  (List.range 24).filter fun c => (x.flow.code.zipIdx).any fun (y, j) => names c y && x.flow.runs [e] j

/-- The tally handles that a task signals, or waits on. -/
def taskTallies (x : ImgParts) (t : TaskDecl) (waits : Bool) : List Nat :=
  let e := x.flow.labels.getD t.entryLabel 0
  (x.flow.code.zipIdx).filterMap fun (y, j) =>
    let hit := if waits then y.cls = 6 && y.op = 1 else y.cls = 6 && y.op = 0 || y.cls = 5 && y.op = 0
    if hit && x.flow.runs [e] j then some (if y.cls = 5 then y.b.index else y.a.index) else none

/-- The tasks that wait, directly or through further tallies, on a tally that one of `l` signals, with those of `l`. -/
def waitingTasks (x : ImgParts) : Nat → List Nat → List Nat
  | 0, l => l
  | k + 1, l =>
    let signalled := l.flatMap fun i => (x.tasks[i]?).elim [] fun t => taskTallies x t false
    let more := (List.range x.tasks.length).filter fun i => !l.contains i &&
      (x.tasks[i]?).elim false fun t => (taskTallies x t true).any (signalled.contains ·)
    waitingTasks x k (l ++ more)

/-- The carrier set of logical tile t (R369). -/
def tileCarriers (x : ImgParts) (t : Nat) : List Nat :=
  let own := (List.range x.tasks.length).filter fun i =>
    (x.tasks[i]?).elim false fun k => tileOfV x.head.vtiles k.vtile = t
  let l := waitingTasks x x.tasks.length own
  (List.range 24).filter fun c => l.any fun i => (x.tasks[i]?).elim false fun k => (taskCarriers x k).contains c

/-- PART_MODE of logical tile t: that of the largest PARTITION value of its tasks (R128; log entry 35). -/
def tilePartMode (x : ImgParts) (t : Nat) : Nat :=
  x.tasks.foldl (fun m k => if tileOfV x.head.vtiles k.vtile = t then max m k.partition else m) 0

/-- READ_ONLY grids placed in boards (R370). -/
def readOnlyRanges (x : ImgParts) (places : List Placement) : List (Nat × Nat × Nat × Nat) :=
  x.grids.filterMap fun g => match placeOf places g with
    | some p => if g.readOnly && p.memory < 2 then some (p.memory, p.unit, p.off + g.off, g.bytes) else none
    | none => none

/-! ### JOB_BIND -/

/-- The image of a slot, by its bytes. -/
def imageOf (s : State) (k : Nat) : Nat → Byte := fun i => s.byte ((s.job k).imageAddr + i)

/-- Steps 1 to 10. -/
def bindFault (s : State) (k : Nat) : Option BindFault :=
  let rd := imageOf s k
  let j := s.job k
  let h := imgHeader rd
  match headerFault rd j.imageSize with
  | some f => some f
  | none => match sectionFault rd h with
    | some f => some f
    | none =>
      let x := imgParts rd
      match signatureFault rd x.sigOff s.sec.keys with
      | some f => some f
      | none => match tilesFault s h with
        | some f => some f
        | none => match gridFault h x.grids with
          | some f => some f
          | none => match instructionFault x.counts x.flow.code with
            | some f => some f
            | none => match flowFault rd x (rdBytes rd 0 h.size) with
              | some f => some f
              | none => importFault s k j.ccTag x

/-- A bind that has failed leaves an empty slot, and the JOB_LOAD completes (R70, R74, R251). -/
def bindFails (s : State) (k : Nat) (f : BindFault) : State :=
  let j := s.job k
  let s := s.setJob k {}
  postJob s 0x10 j.htag { bindStatus := f.status, detail := f.detail, time := s.nsOf 0 }

/-- The next job number: not 0, and not one of a resident job (R254). -/
def jobNumber (s : State) : Nat :=
  ((List.range 6).map fun i => (s.nextJob + i) % 2 ^ 16).find? (fun n =>
    n ≠ 0 && (List.range 4).all fun k => (s.job k).number ≠ n) |>.getD 1

/-- The native code of each tile that runs a task, written to the board image. -/
def writeNative (s : State) (k : Nat) (img : List Byte) (places : List Placement) : State :=
  places.foldl (fun s p => if p.space = 6 then memWrite s (contentsAt k p) (nativeBytes img p.unit) .ledger else s) s

/-- The tasks at their entry labels (R48). -/
def startTasks (x : ImgParts) : Tab TaskState :=
  (x.entries.zipIdx).foldl (fun m e => tset (fun _ => {}) m e.2 { pc := e.1 }) []

/-- A carrier buffer placed anew, which no other resident job shares, has no symbol announced in it (R24). -/
def freshBuffers (s : State) (k : Nat) (places : List Placement) : State :=
  places.foldl (fun s p =>
    let shared := (List.range 4).any fun i => i ≠ k && (s.job i).image.places.any fun q => q.carrier && q.owner = p.owner
    if p.carrier && !shared then s.setCarrier p.owner { s.carrier p.owner with ready := [] } else s) s

/-- Step 11 (R70, R395): partial results of a reduction over more than one virtual tile in increasing virtual tile number,
those of the rank 0 chip before those of rank 1. -/
def sumOrder (chips vtiles : Nat) : List (Nat × Nat) :=
  (List.range chips).flatMap fun r => (List.range vtiles).map fun v => (r, v)

/-- Steps 12 to 16 of an image whose earlier steps have passed. -/
def bindPlace (s : State) (k : Nat) : State :=
  let j := s.job k
  let rd := imageOf s k
  let x := imgParts rd
  let img := rdBytes rd 0 x.head.size
  let p := placeGrids s k x img
  match p.fault with
  | some f => bindFails s k f
  | none =>
    let n := nsLength x.head.tallyCount
    match nsFind (heldTallies s k) n with
    | none => bindFails s k ⟨0x0C, largestRun (heldTallies s k) 16256⟩
    | some base =>
      match holdoffFault x img with
      | some f => bindFails s k f
      | none => match timingFault x img p.places with
        | some f => bindFails s k f
        | none =>
          let no := jobNumber s
          let b : BoundImage := {
            tallies := x.tallies, tasks := x.tasks, vtiles := x.head.vtiles, chipCount := x.head.chipCount,
            timingClass := x.head.timingClass, clientTags := x.head.clientTags, imageId := rdBytes rd 0x40 16,
            hash := signedMessage rd x.sigOff, places := p.places, nsBase := base, nsLen := n,
            hbmBytes := x.head.hbmBytes, readOnly := readOnlyRanges x p.places,
            repair := (List.range 17).map fun q => (s.reg (physBase q + 4)).toNat % 2 ^ 14,
            carrierSets := (List.range 16).map (tileCarriers x),
            partModes := (List.range 16).map (tilePartMode x),
            code := x.words, labels := x.flow.labels, consts := x.consts, grids := x.gridBytes,
            boardDemand := (List.range 16).map (boardDemand p.places), channels := channelPlan x img
            sumOrder := sumOrder x.head.chipCount x.head.vtiles }
          let s := freshBuffers s k p.places
          let s := writeNative (writeData s k rd x p.places) k img p.places
          let s := nsTake s k base n x.tallies
          let s := { s.setJob k { j with
              state := .bound, number := no, image := b, pairingSince := none, tasks := startTasks x } with
            nextJob := (no + 1) % 2 ^ 16 }
          postJob s 0x10 j.htag {
            job := no, detail := no, state := jobStateCode .bound, slot := k, time := s.nsOf 0 }

/-- The device address range of a placement. -/
def placeRange (p : Placement) : Nat × Nat :=
  (match p.memory with
    | 0 => 0x11_0000_0000 + p.unit * 0x200_0000 + p.off
    | 1 => 0x10_0000_0000 + p.off
    | _ => p.off, p.size)

/-- The placements of the partner's SPACE 5 grids sent to the peer (R404, step 12). -/
def sendPlaced (s : State) (k : Nat) : State :=
  let rd := imageOf s k
  let x := imgParts rd
  let p := (placeGrids s k x (rdBytes rd 0 x.head.size)).places
  let l := ((x.grids.filter (·.space = 5)).filterMap fun g => (placeOf p g).map placeRange).eraseDups
  sendFlit s .ctl 0 (.peerCtl (.placed (rdBytes rd 0x40 16) (signedMessage rd x.sigOff) l))

/-- What pairing sends to the peer: the identity of the image at step 6, and the placements at step 12 (R404). -/
def sendPairing (s : State) (k : Nat) : State :=
  let rd := imageOf s k
  sendPlaced (sendFlit s .ctl 0 (.peerCtl (.pair (rdBytes rd 0x40 16) (signedMessage rd (imgParts rd).sigOff)))) k

/-- JOB_BIND: the image of a LOADED slot, read once from HBM (R202), is bound; a CHIP_COUNT 2 image sends its identity
at step 6 and its placements at step 12, where it waits for its partner (R404). DESIGN CHOICE (log entry 99): it waits
before its own grids are placed for good, so an image that could not be placed and whose partner never comes fails with
the partner's cause; R404 does not order the two. -/
def jobBind (s : State) (k : Nat) : State :=
  let j := s.job k
  if j.state ≠ .loaded then s
  else
    let t := (memRead s j.imageAddr j.imageSize .ledger).2
    match bindFault s k with
    | some f => bindFails t k f
    | none =>
      if (imgHeader (imageOf s k)).chipCount = 2 then
        if j.pairingSince.isSome then (if j.paired then bindPlace t k else s)
        else
          let t := sendPairing (t.setJob k { j with pairingSince := some s.counter.toNat }) k
          if j.paired then bindPlace t k else t
      else bindPlace t k

def execJobBind (slot : Fin 4) (s : State) : Host.Outcome State Fault Refusal := .next (s.act fun s => jobBind s slot)

/-- PAIRING_TIMEOUT: the bind of a slot that has waited 10 s for its partner fails (R404). -/
def pairingTimeout (s : State) (k : Nat) : State :=
  let j := s.job k
  let due := j.pairingSince.any fun c => c + 12500000000 ≤ s.counter.toNat
  if j.state = .loaded && due && !j.paired then bindFails s k ⟨0x0A, 1⟩ else s

def execPairingTimeout (slot : Fin 4) (s : State) : Host.Outcome State Fault Refusal :=
  .next (s.act fun s => pairingTimeout s slot)

end Sys2Proof.Machine
end

