-- ==== Sys2Proof/Machine/Dump.lean ====
section
/-! DEFINITION. Dump.lean: the state of a tile as the readout and a saved context lay it out (R257, Tables 9.11 and
17.3). -/

namespace Sys2Proof.Machine

/-- A value v in bits from `lo` on. -/
def at' (lo v : Nat) : Word := BitVec.ofNat 32 (v * 2 ^ lo)

/-- STATE of a channel (Table 8.10). -/
def channelCode : ChannelStatus → Nat
  | .idle => 0 | .active => 1 | .cancelling => 2 | .halted => 3 | .held => 4

/-! ### Tile state (Table 17.3) -/

/-- A word of a byte table. -/
def tabWord (t : Tab Byte) (a : Nat) : Word :=
  BitVec.ofNat 32 (leNat ((List.range 4).map fun i => tget (fun _ => 0) t (a + i)))

/-- Word k of a list of words, 0 past its end. -/
def listWord (l : List Word) (k : Nat) : Word := l.getD k 0

/-- The low or high word of a 64-bit number, by k modulo 2. -/
def halfWord (v k : Nat) : Word := if k % 2 = 0 then loWord v else hiWord v

/-- A 48-bit number sign-extended to 64 bits. -/
def wide (v : BitVec 48) : Nat := pattern 64 v.toInt

/-- The words of the rod engine of logical tile t, from 0x1_0000 on. -/
def rodArea (s : State) (t off : Nat) : Word :=
  let e := s.rod t
  let c := s.core t
  if off < 0x400 then
    BitVec.ofNat 32 ((tget (fun _ => 0) e.m (off / 128)).toNat / 2 ^ (off % 128 * 8))
  else if off < 0x420 then tget (fun _ => 0) e.b ((off - 0x400) / 4)
  else if off < 0x428 then halfWord e.db.toNat (off / 4)
  else if off < 0x42C then e.drs
  else if off < 0x430 then BitVec.ofNat 32 e.clipacc
  else if off < 0x434 then
    at' 0 (s.fld (rodBase t + 8) 3 0) ||| at' 8 c.rodQ.length ||| at' 16 c.sumQ.length
  else if 0x440 ≤ off ∧ off < 0x4C0 then
    halfWord ((c.rodQ.map fun q => q.word.toNat).getD ((off - 0x440) / 8) 0) (off / 4)
  else if 0x4C0 ≤ off ∧ off < 0x4E0 then listWord c.sumQ ((off - 0x4C0) / 4)
  else 0

/-- The holding key of logical row and column (r, c) in the partition mode of tile t (Table 4.1). -/
def placeKey (s : State) (t r c : Nat) : Nat := match partMode s t with
  | 0 => posKey 0 r c
  | 1 => posKey (r / 16) (r % 16) c
  | _ => posKey (2 * (r / 16) + c / 16) (r % 16) (c % 16)

/-- The key of word k of a 32 × 32 area. -/
def areaKey (s : State) (t k : Nat) : Nat := placeKey s t (k / 32 % 32) (k % 32)

/-- The record of partition p: step, FAULT and CAUSE. -/
def partRecord (s : State) (t p : Nat) : Word :=
  let r := stepRecord s t p
  at' 0 (if r = 0 then 0xF else r - 1) ||| at' 4 (b2n (s.flag (baBase t + 0x18) p))
    ||| at' 8 (s.fld (baBase t + 0x18) (11 + 4 * p) (8 + 4 * p))

/-- Word k of carry bank `bank`: logical row k / 32, column k mod 32, of the DPU that stands there. -/
def carryWord (s : State) (t : Nat) (bank : Bool) (k : Nat) : Word :=
  tget (fun _ => 0) (s.array t).carries (carryKey bank (rowOf s t (k / 32)) (k % 32))

/-- The words of the bead array of logical tile t, from 0x1_0800 on. -/
def arrayArea (s : State) (t off : Nat) : Word :=
  let a := s.array t
  let q := (s.core t).arrayQ
  if off < 0x2800 then carryWord s t (4096 ≤ off - 0x800) ((off - 0x800) % 4096 / 4)
  else if off < 0x4800 then
    halfWord (wide (tget (fun _ => 0) a.holding (areaKey s t ((off - 0x2800) / 8)))) (off / 4)
  else if off < 0x5800 then tabWord a.qsVector (off - 0x4800)
  else if off < 0x5A00 then tget (fun _ => 0) a.qsCarries ((off - 0x5800) / 4)
  else if off < 0x5A40 then if off % 16 = 0 then partRecord s t ((off - 0x5A00) / 16) else 0
  else if off < 0x5AC0 then halfWord ((q.map fun c => c.word.toNat).getD ((off - 0x5A40) / 8) 0) (off / 4)
  else if off < 0x5AC4 then at' 0 q.length
  else if off < 0x5AD0 then 0
  else BitVec.ofNat 32 (field a.chain (off - 0x5AD0) 4)

/-- The seven words after the condition registers: resume address, repeat state, TCTL_TAG and TCTL_SHED. -/
def resumeWord (s : State) (t k : Nat) : Word :=
  let c := s.core t
  let r := c.rep.getD ⟨0, 0, 0, 0, 0, false⟩
  match k with
  | 0 => at' 0 c.c.toNat ||| at' 8 c.rrb.toNat ||| at' 12 c.stack.length
  | 1 => at' 0 c.pc.toNat
  | 2 => at' 0 r.more
  | 3 => at' 0 r.start.toNat
  | 4 => at' 0 r.len
  | 5 => at' 0 r.iter
  | 6 => s.reg (tileBase t + 0x10)
  | _ => s.reg (tileBase t + 0x14)

/-- Word k of the draw stream counters of the RUNNING job (R63). -/
def streamWord (s : State) (k : Nat) : Word :=
  match s.runningSlot with
  | some n => halfWord (tget (fun _ => 0) (s.job n).streams (k / 2)).toNat k
  | none => 0

/-- The words of the digit core of logical tile t, from 0x1_6800 on. -/
def coreArea (s : State) (t off : Nat) : Word :=
  let c := s.core t
  if off < 0x6880 then tget (fun _ => 0) c.s ((off - 0x6800) / 4)
  else if off < 0x68A0 then tget (fun _ => 0) c.p ((off - 0x6880) / 4)
  else if off < 0x68E0 then halfWord (tget (fun _ => 0) c.q ((off - 0x68A0) / 8)).toNat (off / 4)
  else if off < 0x6960 then
    let k := (off - 0x68E0) / 8
    halfWord (wide (if k % 2 = 0 then tget (fun _ => 0) c.accRe (k / 2) else tget (fun _ => 0) c.accIm (k / 2))) (off / 4)
  else if off < 0x69A0 then at' 0 ((c.stack.map fun a => a.toNat).getD ((off - 0x6960) / 4) 0)
  else if off < 0x69C0 then resumeWord s t ((off - 0x69A0) / 4)
  else if off < 0x6A00 then listWord c.slideQ ((off - 0x69C0) / 4)
  else streamWord s ((off - 0x6A00) / 4)

/-- Descriptors listed before those of channel ch. -/
def listedBefore (s : State) (t ch : Nat) : Nat := (List.range ch).foldl (fun n k => n + (s.chan t k).q.length) 0

/-- The eight words of channel ch; its list stands in space 5 behind those of the lower channels (log entry 3). -/
def channelArea (s : State) (t ch k : Nat) : Word :=
  let c := s.chan t ch
  match k with
  | 0 => at' 0 (channelCode c.status)
  | 1 => at' 0 c.q.length
  | 2 => at' 0 (listedBefore s t ch)
  | 3 => loWord c.pos
  | 4 => hiWord c.pos
  | 5 => at' 0 (ringPos s t ch)
  | 6 => at' 0 (tokenLevel s t ch)
  | _ => at' 0 (b2n (!c.slots.isEmpty))

/-- Word k of the peer-read records of logical tile t in the RUNNING job. -/
def peerArea (s : State) (t k : Nat) : Word :=
  match s.runningSlot with
  | none => 0
  | some n =>
    match (tget (fun _ => []) s.bridge.shadowReads (16 * n + t))[k / 2]? with
    | none => 0
    | some r =>
      if k % 2 = 0 then at' 0 (r.dest % 2 ^ 25) ||| at' 25 r.channel ||| at' 31 1
      else at' 0 ((r.shadow - (shadowArea n + t * 0x1_0000)) / 64)

/-- The word at an offset of the state of logical tile t (Table 17.3); `pipe` stands for the instructions in F1–W. -/
def contextWord (s : State) (t off : Nat) (pipe : Word) : Word :=
  if off < 0x1_0000 then tabWord (s.rod t).v off
  else if off < 0x1_0800 then rodArea s t (off - 0x1_0000)
  else if off < 0x1_6800 then arrayArea s t (off - 0x1_0000)
  else if off < 0x1_6B00 then coreArea s t (off - 0x1_0000)
  else if off < 0x1_6F00 then channelArea s t ((off - 0x1_6B00) / 32) (off / 4 % 8)
  else if off < 0x1_7F00 then peerArea s t ((off - 0x1_6F00) / 4)
  else if off < 0x1_7F20 then pipe
  else 0

/-- Bytes of a context (R257). -/
def contextSize : Nat := 0x1_8000

/-- The bytes of the context of logical tile t (Table 9.11). -/
def contextBytes (s : State) (t : Nat) : List Byte :=
  (List.range (contextSize / 4)).flatMap fun k => natLE 4 (contextWord s t (4 * k) 0).toNat

/-- The word at an offset of the state of physical tile p. The state of a tile without a logical number, and the addresses
in F1–W, are `free` (log entry 3). -/
def tileWord (s : State) (p off : Nat) (free : Word) : Word :=
  match logicalOf s p with
  | none => free
  | some t => contextWord s t off free

end Sys2Proof.Machine
end

