-- ==== Sys2Proof/Machine/Context.lean ====
section
/-! DEFINITION. Context.lean: saving and loading the context of a tile, the start of a native program, and the board
exchange of a switch (R76, R126, R160, R185, R257, R258). -/

namespace Sys2Proof.Machine

/-! ### Tile contexts -/

/-- The digit core as saved: results on their way complete (R100), and a waiting instruction is to be executed again
(R101). -/
def savedCore (c : DigitCore) : DigitCore :=
  { c with
    status := if c.status = .stall || c.status = .held then .run else c.status, stallCause := 0, hazards := [],
    waitOn := none, irq := 0, holdoff := [], holdoffLogged := 0, heldBy := none, fetchWait := 0, fetched := none
    bankWait := 0 }

/-- Carries moved from rows `src` to rows `dst`: a context holds them by logical row (Table 17.3). -/
def moveCarries (m : Tab Word) (src dst : Nat → Nat) : Tab Word :=
  (List.range 2048).foldl (fun n k =>
    let at1 (row : Nat → Nat) := carryKey (1024 ≤ k) (row (k / 32 % 32)) (k % 32)
    tset (fun _ => 0) n (at1 dst) (tget (fun _ => 0) m (at1 src))) []

/-- The RUNNING job's record, an empty one when none runs. -/
def runningJob (s : State) : JobSlot := (s.runningSlot.map s.job).getD {}

/-- Whether task n of an image runs on logical tile t (R71). -/
def onTile (b : BoundImage) (t n : Nat) : Bool := (b.tasks[n]?).any fun k => tileOfV b.vtiles k.vtile = t

/-- Draw stream n of an image is used by no task of another tile. -/
def ownStream (b : BoundImage) (t n : Nat) : Bool :=
  let f : Flow := ⟨b.code.map fun w => aqOf w.toNat, b.labels⟩
  (b.tasks.zipIdx).all fun x => onTile b t x.2 || !f.uses (b.labels.getD x.1.entryLabel 0) n

/-- The context of logical tile t (Table 9.11). -/
def saveTile (s : State) (t : Nat) : TileContext :=
  let a := s.array t
  let j := runningJob s
  { core := savedCore (s.core t), array := { a with carries := moveCarries a.carries (rowOf s t) id }, rod := s.rod t,
    engine := s.engine t, chans := (List.range 32).map fun ch => { s.chan t ch with waitOn := none },
    tag := s.reg (tileBase t + 0x10), exc := s.reg (rodBase t + 8), fault := s.reg (baBase t + 0x18),
    tasks := j.tasks.filter fun e => onTile j.image t e.1, turn := tget (fun _ => none) j.turn t, streams := j.streams }

/-- The interrupt requests of a core that takes up a program: a tile halt of the host stands (R477). -/
def standingIrq (s : State) (t : Nat) : BitVec 4 := if s.flag (dbgBase + 0xC) t then 1 else 0

/-- What the array of tile t keeps of its own under another program: filler levels and the rest number (R129, R130). -/
def keepFiller (a own : BeadArray) : BeadArray := { a with filler := own.filler, rest := own.rest }

/-- A context loaded into logical tile t. -/
def loadTile (s : State) (t : Nat) (c : TileContext) : State :=
  let a := keepFiller { c.array with carries := moveCarries c.array.carries id (rowOf s t) } (s.array t)
  let s := s.setCore t { c.core with irq := standingIrq s t }
  let s := ((s.setArray t a).setRod t c.rod).setEngine t c.engine
  let s := s.forEach 32 fun s ch => s.setChan t ch (c.chans.getD ch {})
  ((s.setReg (tileBase t + 0x10) c.tag).setReg (rodBase t + 8) c.exc).setReg (baBase t + 0x18) c.fault

/-! ### A context as its bytes stand in memory -/

/-- A 64-bit number with word k modulo 2 replaced. -/
def withHalf (v k : Nat) (w : Word) : Nat :=
  if k % 2 = 0 then v / 2 ^ 32 * 2 ^ 32 + w.toNat else v % 2 ^ 32 + w.toNat * 2 ^ 32

/-- The four bytes of a word put into a byte table. -/
def putWordAt (t : Tab Byte) (a : Nat) (w : Word) : Tab Byte :=
  ((natLE 4 w.toNat).zipIdx).foldl (fun t x => tset (fun _ => 0) t (a + x.2) x.1) t

/-- Entry k of a list replaced, where there is one. -/
def putAt {α : Type} (l : List α) (k : Nat) (f : α → α) : List α := l.mapIdx fun i x => if i = k then f x else x

/-- The word at offset `off` of the rod area of tile t (`rodArea`) replaced. -/
def patchRod (s : State) (t off : Nat) (w : Word) : State :=
  let e := s.rod t
  let c := s.core t
  if off < 0x400 then
    let m := tget (fun _ => 0) e.m (off / 128)
    let k := off % 128 * 8
    let v := m.toNat - m.toNat / 2 ^ k % 2 ^ 32 * 2 ^ k + w.toNat * 2 ^ k
    s.setRod t { e with m := tset (fun _ => 0) e.m (off / 128) (BitVec.ofNat 1024 v) }
  else if off < 0x420 then s.setRod t { e with b := tset (fun _ => 0) e.b ((off - 0x400) / 4) w }
  else if off < 0x428 then s.setRod t { e with db := BitVec.ofNat _ (withHalf e.db.toNat (off / 4) w) }
  else if off < 0x42C then s.setRod t { e with drs := w }
  else if off < 0x430 then s.setRod t { e with clipacc := w.toNat }
  else if off < 0x434 then s.setFld (rodBase t + 8) 3 0 (bits w 3 0)
  else if 0x440 ≤ off ∧ off < 0x4C0 then
    s.setCore t { c with rodQ := putAt c.rodQ ((off - 0x440) / 8) fun q =>
      { q with word := BitVec.ofNat 64 (withHalf q.word.toNat (off / 4) w) } }
  else if 0x4C0 ≤ off ∧ off < 0x4E0 then s.setCore t { c with sumQ := putAt c.sumQ ((off - 0x4C0) / 4) fun _ => w }
  else s

/-- The word at offset `off` of the array area of tile t (`arrayArea`) replaced. -/
def patchArray (s : State) (t off : Nat) (w : Word) : State :=
  let a := s.array t
  let c := s.core t
  if off < 0x2800 then
    let k := (off - 0x800) % 4096 / 4
    s.setArray t { a with
      carries := tset (fun _ => 0) a.carries (carryKey (4096 ≤ off - 0x800) (rowOf s t (k / 32)) (k % 32)) w }
  else if off < 0x4800 then
    let k := areaKey s t ((off - 0x2800) / 8)
    let v := BitVec.ofNat 48 (withHalf (wide (tget (fun _ => 0) a.holding k)) (off / 4) w)
    s.setArray t { a with holding := tset (fun _ => 0) a.holding k v }
  else if off < 0x5800 then s.setArray t { a with qsVector := putWordAt a.qsVector (off - 0x4800) w }
  else if off < 0x5A00 then s.setArray t { a with qsCarries := tset (fun _ => 0) a.qsCarries ((off - 0x5800) / 4) w }
  else if off < 0x5A40 then
    if off % 16 ≠ 0 then s
    else
      let p := (off - 0x5A00) / 16
      let r := if bits w 3 0 = 15 then 0 else bits w 3 0 + 1
      let s := s.setArray t { a with stepRec := tset (fun _ => 0) a.stepRec p r }
      (s.setFld (baBase t + 0x18) p p (b2n (bit w 4))).setFld (baBase t + 0x18) (11 + 4 * p) (8 + 4 * p) (bits w 11 8)
  else if off < 0x5AC0 then
    s.setCore t { c with arrayQ := putAt c.arrayQ ((off - 0x5A40) / 8) fun q =>
      { q with word := BitVec.ofNat 64 (withHalf q.word.toNat (off / 4) w) } }
  else if off < 0x5AD0 then s
  else s.setArray t { a with chain := (List.range a.chain.length).map fun i =>
    if off - 0x5AD0 ≤ i ∧ i < off - 0x5AD0 + 4 then (natLE 4 w.toNat).getD (i - (off - 0x5AD0)) 0 else a.chain.getD i 0 }

/-- The word at offset `off` of the digit core area of tile t (`coreArea`) replaced; the draw stream counters are those of
slot k's job. -/
def patchCore (s : State) (t off : Nat) (w : Word) (job : Option Nat) : State :=
  let c := s.core t
  let half (v : Nat) : Nat := withHalf v (off / 4) w
  if off < 0x6880 then s.setCore t { c with s := tset (fun _ => 0) c.s ((off - 0x6800) / 4) w }
  else if off < 0x68A0 then s.setCore t { c with p := tset (fun _ => 0) c.p ((off - 0x6880) / 4) w }
  else if off < 0x68E0 then
    let k := (off - 0x68A0) / 8
    s.setCore t { c with q := tset (fun _ => 0) c.q k (BitVec.ofNat 64 (half (tget (fun _ => 0) c.q k).toNat)) }
  else if off < 0x6960 then
    let k := (off - 0x68E0) / 8
    let put (m : Tab (BitVec 48)) : Tab (BitVec 48) :=
      tset (fun _ => 0) m (k / 2) (BitVec.ofNat 48 (half (wide (tget (fun _ => 0) m (k / 2)))))
    s.setCore t (if k % 2 = 0 then { c with accRe := put c.accRe } else { c with accIm := put c.accIm })
  else if off < 0x69A0 then s.setCore t { c with stack := putAt c.stack ((off - 0x6960) / 4) fun _ => BitVec.ofNat _ w.toNat }
  else if off < 0x69C0 then
    let rep (f : RepeatState → RepeatState) : State := s.setCore t { c with rep := c.rep.map f }
    match (off - 0x69A0) / 4 with
    | 0 => s.setCore t { c with c := BitVec.ofNat _ w.toNat, rrb := BitVec.ofNat _ (bits w 11 8) }
    | 1 => s.setCore t { c with pc := BitVec.ofNat 25 w.toNat }
    | 2 => rep fun r => { r with more := w.toNat }
    | 3 => rep fun r => { r with start := BitVec.ofNat _ w.toNat }
    | 4 => rep fun r => { r with len := w.toNat }
    | 5 => rep fun r => { r with iter := w.toNat }
    | 6 => s.setReg (tileBase t + 0x10) (w &&& 0x1F)
    | _ => s
  else if off < 0x6A00 then s.setCore t { c with slideQ := putAt c.slideQ ((off - 0x69C0) / 4) fun _ => w }
  else match job with
    | some k =>
      let n := (off - 0x6A00) / 8
      let j := s.job k
      s.setJob k { j with
        streams := tset (fun _ => 0) j.streams n (BitVec.ofNat 64 (half (tget (fun _ => 0) j.streams n).toNat)) }
    | none => s

/-- Word k of channel ch of tile t (`channelArea`) replaced: its position, ring position and token level. -/
def patchChannel (s : State) (t ch k : Nat) (w : Word) : State :=
  let c := s.chan t ch
  match k with
  | 3 | 4 => s.setChan t ch { c with pos := withHalf c.pos (k + 1) w }
  | 5 => s.setChan t ch { c with ringAt := w.toNat % 2 ^ 16 }
  | 6 => s.setChan t ch { c with tokens := c.tokens.map fun _ => w.toNat }
  | _ => s

/-- The word at an offset of the context of tile t (`contextWord`) replaced. Counts of entries, and what stands beside the
layout of Table 9.11, are as they were saved (log entry 31). -/
def patchWord (s : State) (t off : Nat) (w : Word) (job : Option Nat) : State :=
  if off < 0x1_0000 then s.setRod t { s.rod t with v := putWordAt (s.rod t).v off w }
  else if off < 0x1_0800 then patchRod s t (off - 0x1_0000) w
  else if off < 0x1_6800 then patchArray s t (off - 0x1_0000) w
  else if off < 0x1_6B00 then patchCore s t (off - 0x1_0000) w job
  else if off < 0x1_6F00 then patchChannel s t ((off - 0x1_6B00) / 32) (off / 4 % 8) w
  else s

/-- A context loaded into logical tile t from its bytes in a stage: where they are no longer what was saved, the tile
takes them as they stand. -/
def loadContext (s : State) (t : Nat) (c : TileContext) (l : List Byte) (job : Option Nat) : State :=
  let s := loadTile s t c
  let was := contextBytes s t
  if l = was then s
  else s.forEach (contextSize / 4) fun s k =>
    if bytesAt l (4 * k) 4 = bytesAt was (4 * k) 4 then s else patchWord s t (4 * k) (BitVec.ofNat 32 (field l (4 * k) 4)) job

/-- A native program starts on logical tile t at a board offset: every item of Tables 3.1 and 6.1 at its start value
(R76, R160). -/
def startTile (s : State) (t entry : Nat) : State :=
  let s := s.setCore t { pc := BitVec.ofNat 25 entry, status := .run, irq := standingIrq s t }
  let s := s.setArray t (keepFiller {} (s.array t))
  let s := (s.setRod t {}).setEngine t {}
  let s := s.forEach 32 fun s ch => s.setChan t ch {}
  (s.setReg (rodBase t + 8) 0).setReg (baBase t + 0x18) 0

/-- Checkpoint and journal of every tile dropped: the job that enters RUNNING has none yet (R377; log entry 36). -/
def dropCheckpoints (s : State) : State := s.onInteg fun g => { g with checkpoints := [], journals := [] }

/-! ### Where contexts stand (R256, R257, R377; the places are the model's, log entry 31) -/

/-- Store addresses of logical tile t's context in the save stage and in the checkpoint stage of Ledger SRAM, and HBM
addresses of its checkpoint and of its context in slot k's save area. -/
def saveStage (t : Nat) : Nat := sramStore (0x10_0000 + t * contextSize)
def checkpointStage (t : Nat) : Nat := sramStore (0x28_0000 + t * contextSize)
def checkpointArea (t : Nat) : Nat := mequelLo + 0x0200_0000 + t * contextSize
def contextPlace (k t : Nat) : Nat := contextArea k + t * contextSize

/-- A context copied from a stage to HBM. -/
def copyContext (s : State) (src dst : Nat) : State :=
  let (l, s) := memRead s src contextSize .ledger
  memWrite s dst l (.slide 16)

/-- A context copied from HBM to a stage. -/
def copyIn (s : State) (src dst : Nat) : State :=
  let (l, s) := memRead s src contextSize (.slide 16)
  memWrite s dst l .ledger

/-! ### Board exchange (R258) -/

/-- A range of a board: memory 0 with its tile or 1 the common board, then offset and length. -/
abbrev BoardRange := Nat × Nat × Nat × Nat

/-- Store address of a board range. -/
def rangeStore (s : State) (r : BoardRange) : Nat := if r.1 = 0 then s.boardStore r.2.1 r.2.2.1 else commonStore r.2.2.1

/-- The board placements of an image, carrier buffers excluded. -/
def boardRanges (b : BoundImage) : List BoardRange :=
  (b.places.filter fun p => p.memory < 2 && !p.carrier).map fun p => (p.memory, p.unit, p.off, p.size)

/-- The parts of the first list's ranges that lie in ranges of the second. -/
def commonRanges (a b : List BoardRange) : List BoardRange :=
  a.flatMap fun x => b.filterMap fun y =>
    let lo := max x.2.2.1 y.2.2.1
    let hi := min (x.2.2.1 + x.2.2.2) (y.2.2.1 + y.2.2.2)
    if x.1 = y.1 && x.2.1 = y.2.1 && lo < hi then some (x.1, x.2.1, lo, hi - lo) else none

/-- n bytes of a board exchange, and of a context move, charged to record 32 of slot k's job (R267). -/
def chargeSwitch (s : State) (k n : Nat) (common : Bool) : State :=
  (s.chargeBoard (33 * k + 32) n common).charge (33 * k + 32) acHbm n
def chargeContext (s : State) (k : Nat) : State := s.charge (33 * k + 32) acHbm contextSize

/-- Ranges of slot k's job saved to its board image. -/
def saveRanges (s : State) (k : Nat) (l : List BoardRange) : State :=
  l.foldl (fun s r =>
    let (bs, s) := memRead s (rangeStore s r) r.2.2.2 (.slide 16)
    chargeSwitch (memWrite s (boardImageAt k r.1 r.2.1 r.2.2.1) bs (.slide 16)) k r.2.2.2 (r.1 = 1)) s

/-- Ranges of slot k's job loaded from its board image. -/
def loadRanges (s : State) (k : Nat) (l : List BoardRange) : State :=
  l.foldl (fun s r =>
    let (bs, s) := memRead s (boardImageAt k r.1 r.2.1 r.2.2.1) r.2.2.2 (.slide 16)
    chargeSwitch (memWrite s (rangeStore s r) bs (.slide 16)) k r.2.2.2 (r.1 = 1)) s

end Sys2Proof.Machine
end

