-- ==== Sys2Proof/Machine/Jobs.lean ====
section
/-! DEFINITION. Jobs.lean: the job commands but JOB_RUN, what a switch writes beside contexts, and the time-outs of a
pre-empted job's peer reads and credits (R242–R264). -/

namespace Sys2Proof.Machine

/-! ### The command at the head of Mequel's queue (R253, R447) -/

/-- CODE and HTAG of an entry (Table 16.2). -/
def entryCode (l : List Byte) : Nat := field l 0 1
def entryTag (l : List Byte) : Nat := field l 2 2

/-- The command at the head, when it is the one of this code, and the state without it. Commands are processed one at a
time, so none is taken while a FW_ACTIVATE waits for its handover (R447, R463). -/
def headCommand (s : State) (code : Nat) : Option (List Byte × State) :=
  match if s.sec.handover.isSome then [] else s.sub.commands with
  | c :: r => if entryCode c = code then some (c, (s.onSub fun q => { q with commands := r })) else none
  | [] => none

/-- The resident slot whose job has a number. -/
def slotOfJob (s : State) (no : Nat) : Option Nat :=
  (List.range 4).find? fun k => no ≠ 0 && (s.job k).number = no

/-- The completion of a command on the job of slot k. -/
def replyJob (s : State) (code htag status k : Nat) (beats : Nat := 0) : State :=
  let j := s.job k
  postJob s code htag {
    cmdStatus := status, job := j.number, state := jobStateCode j.state, slot := k, beats := beats, time := s.nsOf 0 }

/-- A completion that concerns no resident job: NO_SUCH_JOB, or BAD_FIELD of such a command. -/
def replyNoJob (s : State) (code htag status : Nat) : State :=
  postJob s code htag { cmdStatus := status, time := s.nsOf 0 }

/-- A command that names a job: f of its slot when the job is resident. -/
def onJob (s : State) (code : Nat) (f : State → Nat → List Byte → State) : State :=
  match headCommand s code with
  | none => s
  | some (c, s') =>
    match slotOfJob s (field c 8 2) with
    | some k => f s' k c
    | none => replyNoJob s' code (entryTag c) 2

/-! ### JOB_LOAD (R253, R254) -/

/-- The fields of a JOB_LOAD that make it BAD_FIELD. -/
def loadBad (s : State) (c : List Byte) : Bool :=
  let a := field c 8 8
  let n := field c 0x10 8
  let slot := field c 0x20 1
  a % 4096 ≠ 0 || !inUserHbm a n || n ≠ s.readLE (a + 0xC) 8 || 3 < slot && slot ≠ 0xFF ||
    (List.range 24).any fun i => 31 < field c (0x28 + i) 1 && field c (0x28 + i) 1 ≠ 0xFF

/-- Whether a JOB_LOAD's header is read (R202): its IMAGE_SIZE lies in user HBM. -/
def loadReads (c : List Byte) : Bool := inUserHbm (field c 8 8) 20

/-- The slot a JOB_LOAD reserves. -/
def loadSlot (s : State) (c : List Byte) : Option Nat :=
  let slot := field c 0x20 1
  if slot = 0xFF then (List.range 4).find? fun k => (s.job k).state = .empty
  else if (s.job slot).state = .empty then some slot else none

/-- The accounting records of a slot back at 0 (R265). -/
def clearRecords (s : State) (k : Nat) : State :=
  let lo := 33 * k
  let s := { s with acct := tclear s.acct (8 * lo) (8 * (lo + 33)) }
  s.onPower fun p => { p with
    recordNj := tclear p.recordNj lo (lo + 33), tileBeats := tclear p.tileBeats lo (lo + 33)
    beatsNow := tdrop p.beatsNow fun i => lo ≤ i % 256 && i % 256 < lo + 33
    commonNow := tclear p.commonNow lo (lo + 33)
    bytesThen := tclear p.bytesThen (8 * lo) (8 * (lo + 33)) }

/-- T_s and E_s of resident slot k at 0 in every carrier: its tallies are those of another job (R285, R289). -/
def resetCounts (s : State) (k : Nat) : State :=
  s.forEach 24 fun s c =>
    let x := s.carrier c
    s.setCarrier c { x with taken := tset (fun _ => 0) x.taken k 0, expected := tset (fun _ => 0) x.expected k 0 }

/-- JOB_LOAD: refused at once, or its slot reserved, to be bound by JOB_BIND. -/
def jobLoad (s : State) : State :=
  match headCommand s 0x10 with
  | none => s
  | some (c, s) =>
    let tag := entryTag c
    let bad := loadBad s c
    let s := if loadReads c then (memRead s (field c 8 8 + 0xC) 8 .ledger).2 else s
    if bad then postJob s 0x10 tag { cmdStatus := 3, bindStatus := 0xFF, time := s.nsOf 0 }
    else match loadSlot s c with
      | none => postJob s 0x10 tag { bindStatus := 0x0D, time := s.nsOf 0 }
      | some k =>
        clearRecords ((resetCounts s k).setJob k {
          state := .loaded, htag := tag, imageAddr := field c 8 8, imageSize := field c 0x10 8,
          seed := BitVec.ofNat 64 (field c 0x18 8),
          ccTag := (List.range 24).map fun i => field c (0x28 + i) 1 }) k

def execJobLoad (s : State) : Host.Outcome State Fault Refusal := .next (s.act jobLoad)

/-! ### JOB_RUN (R256–R264) -/

/-- Bridge traffic of the job that leaves RUNNING: its REQ credits recalled from the peer, and those it holds returned,
a CTL flit each (R264, R407). -/
def recallCredits (s : State) (k : Nat) : State :=
  if (s.job k).image.chipCount = 2 && (bridgeState s = 2 || bridgeState s = 3) then
    let held := creditsOf s .req k
    let s := setCredits s .req k 0
    let s := sendFlit (sendFlit s .ctl 0 (.peerCtl (.recall (slotNo k)))) .ctl 0 (.peerCtl (.handBack .req (slotNo k) held))
    s.onBridge fun b => { b with
      recalled := k :: b.recalled.filter (· ≠ k),
      recallPending := k :: b.recallPending.filter (· ≠ k),
      recallSince := tset (fun _ => 0) b.recallSince k s.counter.toNat }
  else s

/-- A job enters RUNNING: where its REQ credits were recalled they are granted to the peer again, all of them after a
write-off, and late requests of the peer are performed again; the peer grants those of its own buffer in answer (R407,
R408; log entry 104). -/
def grantCredits (s : State) (k : Nat) : State :=
  let n := if s.bridge.writtenOff.contains k then poolSize .req else tget (fun _ => 0) s.bridge.free (poolKey .req k)
  let again := s.bridge.recalled.contains k || s.bridge.writtenOff.contains k
  let s := s.onBridge fun b => { b with
    runSince := s.counter.toNat, recalled := b.recalled.filter (· ≠ k)
    recallPending := b.recallPending.filter (· ≠ k), writtenOff := b.writtenOff.filter (· ≠ k) }
  if again && (bridgeState s = 2 || bridgeState s = 3) then grantAgain s k n else s

/-- The board ranges that slot k's job saves when slot n's job comes in: those the incoming job overlaps, or with SAVE 1
all of them (R258). -/
def rangesToSave (s : State) (k n save : Nat) : List BoardRange :=
  let mine := boardRanges (s.job k).image
  if save = 1 then mine else commonRanges mine (boardRanges (s.job n).image)

/-- Step 7 for the job that leaves: its ranges saved and remembered. -/
def saveOutgoing (s : State) (k n save : Nat) : State :=
  let l := rangesToSave s k n save
  let s := saveRanges s k l
  s.setJob k { s.job k with savedRanges := l }

/-- CC_BUFr of each carrier region that slot k's job declares (R280). -/
def writeBuffers (s : State) (k : Nat) : State :=
  (s.job k).image.places.foldl (fun s p =>
    if p.carrier then
      let o := carrierBase p.owner + 0x80 + 8 * p.region
      (s.setReg o (BitVec.ofNat 32 p.off)).setReg (o + 4) (BitVec.ofNat 32 p.size)
    else s) s

/-- PART_MODE and TEQ of every tile set for slot k's job; writing PART_MODE clears the step records (R128). -/
def writeModes (s : State) (k : Nat) : State :=
  let b := (s.job k).image
  s.forEach 16 fun s t =>
    let s := (s.setFld (baBase t) 1 0 (b.partModes.getD t 0)).setFld (baBase t) 2 2 (b2n (b.timingClass = 2))
    s.setArray t { s.array t with stepRec := [] }

/-- SLIDE_CHn_CFG and token words of the tile engines as step 13 allocated them (R70): Ledger writes them for the job that
enters RUNNING. -/
def writeChannels (s : State) (k : Nat) : State :=
  s.forEach 512 fun s n =>
    match (s.job k).image.channels.find? (·.1 = n) with
    | some (_, cfg, tok) => setTokenWord (channelConfig s .ledger (n / 32) (n % 32) cfg) (n / 32) (n % 32) tok
    | none => s

/-- The entry point of tile t's native program. -/
def nativeEntry (b : BoundImage) (t : Nat) : Nat :=
  match b.places.find? fun p => p.space = 6 && p.unit = t with
  | some p => p.off
  | none => 0

/-! ### JOB_STOP and JOB_UNLOAD (R244, R251) -/

/-- JOB_STOP. -/
def jobStop (s : State) : State :=
  onJob s 0x12 fun s k c =>
    let j := s.job k
    if j.state = .running then
      let s := freeLeases (lsLeaves (s.forEach 16 idleTile) k) fun l => l.job = some k
      replyJob (s.setJob k { j with state := .ended }) 0x12 (entryTag c) 0 k
    else if j.state = .preempted || j.state = .bound then
      replyJob ((lsLeaves s k).setJob k { j with state := .ended, contexts := [] }) 0x12 (entryTag c) 0 k
    else replyJob s 0x12 (entryTag c) 1 k

def execJobStop (s : State) : Host.Outcome State Fault Refusal := .next (s.act jobStop)

/-- A namespace freed: every count 0, flags clear, unallocated (R244, R249). -/
def freeNamespace (s : State) (base n : Nat) : State := s.forEach n fun s i => tallyFresh s (base + i) 0 7

/-- What the bridge keeps for a slot dropped: its partner, credits and shadow reads (R404). -/
def dropPartner (s : State) (k : Nat) : State :=
  let s := setCredits (setCredits (setCredits s .req k 0) .rsp k 0) .sig k 0
  s.onBridge fun b => { b with
    partner := tset (fun _ => []) b.partner k [],
    recalled := b.recalled.filter (· ≠ k), recallPending := b.recallPending.filter (· ≠ k),
    writtenOff := b.writtenOff.filter (· ≠ k), sigQ := b.sigQ.filter (·.1 ≠ k),
    txQ := b.txQ.filter (fun x => x.1 = .ctl || x.2.1 ≠ k),
    shadowReads := tdrop b.shadowReads fun i => i / 16 = k }

/-- JOB_UNLOAD. -/
def jobUnload (s : State) : State :=
  onJob s 0x13 fun s k c =>
    let j := s.job k
    if j.state = .ended || j.state = .faulted then
      let s := freeNamespace s j.image.nsBase j.image.nsLen
      let s := { (dropPartner s k).setJob k {} with lastRun := s.lastRun.filter (· ≠ k) }
      postJob s 0x13 (entryTag c) { job := j.number, slot := 0xFF, time := s.nsOf 0 }
    else replyJob s 0x13 (entryTag c) 1 k

def execJobUnload (s : State) : Host.Outcome State Fault Refusal := .next (s.act jobUnload)

/-! ### Peer reads of a pre-empted job (R261, R262) -/

/-- The slot with a read of tile t still to land: the RUNNING one first. -/
def shadowSlot (s : State) (t : Nat) : Option Nat :=
  let open' (k : Nat) : Bool := (tget (fun _ => []) s.bridge.shadowReads (16 * k + t)).any (!·.landed)
  ((s.runningSlot.toList ++ List.range 4)).find? open'

/-- PEER_READ_TIMEOUT: 2 ms after the RUNNING job's resume, the oldest read of tile t that it waits for is logged and
counts as a failed access (R262). -/
def peerReadTimeout (s : State) (t : Nat) : State :=
  match s.runningSlot with
  | none => s
  | some k =>
    let l := tget (fun _ => []) s.bridge.shadowReads (16 * k + t)
    match if s.counter.toNat < s.bridge.runSince + 2500000 then none else l.find? (!·.landed) with
    | none => s
    | some r =>
      let a := match (s.chan t r.channel).q with
        | d :: _ => srcAddr d r.pos
        | [] => 0
      let s := s.onBridge fun b => { b with
        shadowReads := tset (fun _ => []) b.shadowReads (16 * k + t) (l.eraseP (!·.landed)) }
      accessFailed (raise s eBridgeTimeout 7 0 (s.job k).number a) t r.channel a

def execPeerReadTimeout (t : Tile) (s : State) : Host.Outcome State Fault Refusal :=
  .next (s.actTogether fun s => peerReadTimeout s t)

/-- BRIDGE_CREDIT_RECALL_TIMEOUT, 20 µs or 25,000 beats after the recall: it is written off (R264, R408). -/
def recallTimeout (s : State) (k : Nat) : State :=
  if !s.bridge.recallPending.contains k || s.counter.toNat < tget (fun _ => 0) s.bridge.recallSince k + 25000 then s
  else
    let lost := poolSize .req - tget (fun _ => 0) s.bridge.free (poolKey .req k)
    let s := s.onBridge fun b => { b with
      recallPending := b.recallPending.filter (· ≠ k), writtenOff := k :: b.writtenOff }
    let s := raise s eCreditLost 7 0 (s.job k).number lost
    flushSignals (flushFlits s)

def execBridgeCreditRecallTimeout (slot : Fin 4) (s : State) : Host.Outcome State Fault Refusal :=
  .next (s.act fun s => recallTimeout s slot)

end Sys2Proof.Machine
end

