-- ==== Sys2Proof/Machine/Carriers.lean ====
section
/-! DEFINITION. Carriers.lean: what the meanings of the radio chapters share: a carrier's configuration, its plans, the
tallies of its jobs, its completion entries and its deadline check (R276–R280, R285, R289, R300, R305, R371). -/

namespace Sys2Proof.Machine

/-! ### Configuration (Tables 10.10, 10.11) -/

def ccNprb (s : State) (c : Nat) : Nat := s.fld (carrierBase c) 22 14
def ccUl (s : State) (c : Nat) : Nat := s.fld (carrierBase c) 13 8
def ccDl (s : State) (c : Nat) : Nat := s.fld (carrierBase c) 7 2
def ccLinkNo (s : State) (c : Nat) : Nat := s.fld (carrierBase c) 25 23
/-- CC_DEADLINE.TICKS; a value outside 1–4 acts as the nearest bound (log entry 40). -/
def ccTicks (s : State) (c : Nat) : Nat := clamp 1 4 (s.fld (carrierBase c + 0x18) 2 0)
/-- Offset and size of carrier buffer region r (R280). -/
def ccBufOff (s : State) (c r : Nat) : Nat := (s.reg (carrierBase c + 0x80 + 8 * r)).toNat
def ccBufSize (s : State) (c r : Nat) : Nat := (s.reg (carrierBase c + 0x84 + 8 * r)).toNat
/-- udCompMeth, iqWidth and HDR of CC_COMP, for uplink (`lo` 0) or downlink (`lo` 16). -/
def ccMeth (s : State) (c lo : Nat) : Nat := s.fld (carrierBase c + 0x1C) (lo + 3) lo
def ccWidth (s : State) (c lo : Nat) : Nat :=
  let w := s.fld (carrierBase c + 0x1C) (lo + 11) (lo + 8)
  if w = 0 then 16 else w
def ccHdr (s : State) (c lo : Nat) : Bool := s.flag (carrierBase c + 0x1C) (lo + 12)

/-- Whether fronthaul link l exists in the mode of its port (R270, Table 10.1). -/
def linkExists (s : State) (l : Nat) : Bool :=
  match s.fld (0x0030_0000 + l / 4 * 0x1000) 1 0 with
  | 0 => l % 4 = 0
  | 1 => l % 4 < 2
  | _ => true

/-- The largest NPRB of a numerology (Table 10.3). -/
def nprbMax (mu : Nat) : Nat := [270, 273, 264, 264].getD mu 0

/-- The load of a context (R277): a LINK context carries none. -/
def ccLoad (s : State) (c : Nat) : Nat := if s.ccLink c then 0 else ccUl s c * ccNprb s c * 2 ^ s.ccMu c

/-- The sum of the loads of the enabled contexts other than c. -/
def otherLoad (s : State) (c : Nat) : Nat :=
  ((List.range 24).filter fun x => x ≠ c && s.ccEnabled x).foldl (fun a x => a + ccLoad s x) 0

/-- Bytes of one stream of one symbol (R281). -/
def ccStride (s : State) (c : Nat) : Nat := sstride (ccNprb s c)

/-- The number of entries of region r (0 or 1) for a number of streams. -/
def bufRing (s : State) (c r streams : Nat) : Nat :=
  let n := streams * ccStride s c
  if n = 0 then 0 else ccBufSize s c r / n

/-- Common-board offset of subcarrier 0 of a stream, in the entry of symbol k of slot n (R281). -/
def symbolAt (s : State) (c r streams : Nat) (n : Word) (k a : Nat) : Nat :=
  let e := (14 * n.toNat + k) % max 1 (bufRing s c r streams)
  ccBufOff s c r + (e * streams + a) * ccStride s c

/-! ### Tallies of CC_TALLYs (Table 10.11) -/

/-- The tally of a handle of the job in resident slot k: none for 0xFFF or a handle outside its namespace. -/
def handleTally (s : State) (k h : Nat) : Option Nat :=
  let b := (s.job k).image
  if h ≠ 0xFFF ∧ h < b.nsLen then some (b.nsBase + h) else none

/-- The four tallies of carrier c for resident slot k. -/
def reqTally (s : State) (c k : Nat) : Option Nat := handleTally s k (s.fld (carrierBase c + 0x40 + 8 * k) 11 0)
def doneTally (s : State) (c k : Nat) : Option Nat := handleTally s k (s.fld (carrierBase c + 0x40 + 8 * k) 27 16)
def encTally (s : State) (c k : Nat) : Option Nat := handleTally s k (s.fld (carrierBase c + 0x44 + 8 * k) 11 0)
def readyTally (s : State) (c k : Nat) : Option Nat := handleTally s k (s.fld (carrierBase c + 0x44 + 8 * k) 27 16)

/-- 1 added to a tally through Ledger's port (R286), where there is one. -/
def ledgerSignal (s : State) : Option Nat → State
  | some n => tallyAdd s n 1 0 0
  | none => s

/-- Counts are rebased when they reach this (R285, R289). -/
def rebaseAt : Nat := 0x4000_0000

/-- E_s and T_s of carrier c for resident slot k. -/
def expectedOf (s : State) (c k : Nat) : Nat := tget (fun _ => 0) (s.carrier c).expected k
def takenOf (s : State) (c k : Nat) : Nat := tget (fun _ => 0) (s.carrier c).taken k
def setExpected (s : State) (c k v : Nat) : State :=
  let x := s.carrier c
  s.setCarrier c { x with expected := tset (fun _ => 0) x.expected k v }
def setTaken (s : State) (c k v : Nat) : State :=
  let x := s.carrier c
  s.setCarrier c { x with taken := tset (fun _ => 0) x.taken k v }

/-- E_s one further; at 0x4000_0000 that much leaves E_s and the ready tally together (R285). -/
def stepExpected (s : State) (c k : Nat) : State :=
  let e := expectedOf s c k + 1
  if e < rebaseAt then setExpected s c k e
  else match readyTally s c k with
    | some n => tallySub (setExpected s c k (e - rebaseAt)) n rebaseAt 0 0
    | none => setExpected s c k (e - rebaseAt)

/-- T_s one further, rebased likewise with the request tally (R289). -/
def stepTaken (s : State) (c k : Nat) : State :=
  let e := takenOf s c k + 1
  if e < rebaseAt then setTaken s c k e
  else match reqTally s c k with
    | some n => tallySub (setTaken s c k (e - rebaseAt)) n rebaseAt 0 0
    | none => setTaken s c k (e - rebaseAt)

/-! ### Plans -/

/-- The accepted plan of a direction and slot. -/
def planOf (s : State) (c : Nat) (ul : Bool) (n : Word) : Option Plan :=
  (s.carrier c).plans.find? fun p => p.ul = ul && p.slot = n

/-- The plans of a direction and slot changed. -/
def updPlan (s : State) (c : Nat) (ul : Bool) (n : Word) (f : Plan → Plan) : State :=
  let x := s.carrier c
  s.setCarrier c { x with plans := x.plans.map fun p => if p.ul = ul && p.slot = n then f p else p }

/-- Item i of a plan changed. -/
def updItem (s : State) (c : Nat) (ul : Bool) (n : Word) (i : Nat) (f : ItemState → ItemState) : State :=
  updPlan s c ul n fun p => { p with items := setAt p.items i f }

/-- Item i of a plan, unless it was rejected. -/
def itemOf (p : Plan) (i : Nat) : Option ItemState :=
  match p.items[i]? with
  | some x => if x.rejected = 0 then some x else none
  | none => none

/-- FLAGS of an item: BG2, NEW, TP, LBRM. -/
def PlanItem.bg2 (x : PlanItem) : Bool := x.flags.testBit 0
def PlanItem.isNew (x : PlanItem) : Bool := x.flags.testBit 1
def PlanItem.tp (x : PlanItem) : Bool := x.flags.testBit 2
def PlanItem.lbrm (x : PlanItem) : Bool := x.flags.testBit 3

/-- The parameters TS 38.212 derives an item's coding from (R292, R301). -/
def PlanItem.params (x : PlanItem) : List Nat := [b2n x.bg2, x.tbs, x.g, x.rv, x.qm, x.layers, b2n x.lbrm]

/-- Payload bytes of an item: TBS / 8, or ceil(A / 8) of a UCI item (R300). -/
def PlanItem.bytes (x : PlanItem) : Nat := (x.tbs + 7) / 8

/-- Code blocks of an item: C of TS 38.212, or one codeword. -/
def PlanItem.cbs (x : PlanItem) : Nat := if x.kind = 0 then max 1 (ldpcParam x.params 0 0) else 1

/-- Whether a reception window of an uplink plan may still close: a symbol of its SYM_MASK has not been signalled, in a
slot at most 64 behind (R22). -/
def windowsLeft (s : State) (c : Nat) (p : Plan) : Bool :=
  s.ccLive c && (s.ccSlot c - p.slot).toInt < 64 &&
    (List.range 14).any fun k => p.symMask.testBit k && !(s.carrier c).signalled.contains (p.slot, k)

/-- A plan whose check has run is forgotten once no record of it is being decoded and its reception windows are over. -/
def dropPlans (s : State) (c : Nat) : State :=
  let x := s.carrier c
  s.setCarrier c { x with plans := x.plans.filter fun p =>
    !p.checked || p.ul && ((s.decodes.any fun d => d.cc = c && d.slot = p.slot) || windowsLeft s c p) }

/-! ### Completion entries (Radio Access Processing, completion bodies) -/

/-- Offset 0x08–0x0F of the three bodies. -/
def cplHead (c kind item : Nat) (n : Word) : List Word :=
  [BitVec.ofNat 32 (c % 256 + kind % 256 * 2 ^ 8 + item % 2 ^ 16 * 2 ^ 16), n]

/-- The ring of carrier c; ring 0 for a number that names no context (log entry 41). -/
def ringOf (s : State) (c : Nat) : Nat := if c < 24 then ccRing s c else 0

/-- The fields of a TB_STATUS beside CC, DIR, ITEM and SLOT. -/
structure StatusBody where
  status : Nat
  cause : Nat := 0
  iters : Nat := 0
  failed : Nat := 0
  softEmpty : Bool := false
  cookie : Nat := 0

/-- TB_STATUS; one with STATUS 2 is counted in IG_WITHHELD. -/
def tbStatus (s : State) (c : Nat) (ul : Bool) (item : Nat) (n : Word) (htag : Nat) (b : StatusBody) : State :=
  let s := if b.status = 2 then s.bump (igBase + 0x410) 1 else s
  cplPost s {
    ring := ringOf s c, code := 0x31, htag := htag,
    body := cplHead c (b2n !ul) item n ++
      [BitVec.ofNat 32 (b.status % 256 + b.cause % 256 * 2 ^ 8 + b.iters % 256 * 2 ^ 16 + min 255 b.failed * 2 ^ 24),
        BitVec.ofNat 32 (b2n b.softEmpty), loWord b.cookie, hiWord b.cookie] }

/-- The largest ITERS of an item, and its code blocks whose CRC failed. -/
def maxIters (x : ItemState) : Nat := x.blocks.foldl (fun m b => max m b.iters) 0
def failedBlocks (x : ItemState) : Nat := x.blocks.countP fun b => !b.pass

/-- Item i is about to be answered; the entry may be dropped (R449). -/
def markAnswered (s : State) (c : Nat) (ul : Bool) (n : Word) (i : Nat) : State :=
  let lost := !cplTakes s (ringOf s c)
  updItem s c ul n i fun x => { x with answered := true, lost := lost }

/-- TB_STATUS of item i of a plan, which it answers. -/
def answerItem (s : State) (c : Nat) (p : Plan) (i : Nat) (x : ItemState) (status : Nat) : State :=
  let s := markAnswered s c p.ul p.slot i
  tbStatus s c p.ul i p.slot p.htag {
    status := status, iters := maxIters x, failed := failedBlocks x, softEmpty := x.softEmpty, cookie := x.item.cookie }

/-- A waiting entry of a carrier and slot of one code. -/
def waitingFor (c : Nat) (n : Word) (code : Nat) (e : CplEntry) : Bool :=
  e.code = code && e.body.head?.map (fun (w : Word) => w.toNat % 256) = some c && e.body[1]? = some n

/-- The item a completion entry names. -/
def CplEntry.item (e : CplEntry) : Nat := bits (e.body.headD 0) 31 16

/-! ### The deadline check (R371, R449) -/

/-- A waiting TB_STATUS that answers an uplink item of slot n: not the one of a plan or item rejected at its scan. -/
def waitingStatus (c : Nat) (n : Word) (e : CplEntry) : Bool :=
  waitingFor c n 0x31 e && bits (e.body.headD 0) 15 8 = 0 && bits (e.body.getD 2 0) 7 0 ≠ 3

/-- Entries that answer items of slot n and still wait count as not issued (R19, R449): they are discarded, and their
items unanswered again. R449 says so of a TB_DELIVER; a TB_STATUS gives way to that of R371, since an item produces
exactly one entry (R300; log entry 90). A MEASURE_REPORT still waiting is not written at all (R300). -/
def discardWaiting (s : State) (c : Nat) (n : Word) : State :=
  let answers (e : CplEntry) : Bool := waitingFor c n 0x30 e || waitingStatus c n e
  let late := s.cpl.queue.filter answers
  let s := s.onCpl fun cc => { cc with queue := cc.queue.filter fun e => !answers e && !waitingFor c n 0x32 e }
  late.foldl (fun s e => updItem s c true n e.item fun x => { x with answered := false }) s

/-- The items of a plan still without an entry, with their indices. -/
def openItems (p : Plan) : List (ItemState × Nat) :=
  p.items.zipIdx.filter fun (x, _) => x.rejected = 0 && !x.answered

/-- The items for which no entry has been written at the deadline check (R19): those without one, and those whose entry
was dropped. -/
def lateItems (p : Plan) : List (ItemState × Nat) :=
  p.items.zipIdx.filter fun (x, _) => x.rejected = 0 && (!x.answered || x.lost)

/-- Releases that waited for slot n's check make their keys empty (R298). -/
def releaseAfter (s : State) (c : Nat) (n : Word) : State :=
  let x := s.carrier c
  let now := x.releases.filter fun r => r.2 = n
  let s := s.setCarrier c { x with releases := x.releases.filter fun r => r.2 ≠ n }
  now.foldl (fun s r => s.setHarqKey c r.1 none) s

/-- The deadline check of slot n of carrier c. -/
def checkSlot (s : State) (c : Nat) (n : Word) : State :=
  let s := discardWaiting s c n
  let s := match planOf s c true n with
    | some p =>
      let l := lateItems p
      let s := l.foldl (fun s (x, i) => answerItem s c p i x 1) s
      if l.isEmpty then s else raise s eDeadlineMiss 6 c n.toNat l.length
    | none => s
  let x := s.carrier c
  let s := s.setCarrier c { x with plans := x.plans.map fun p =>
    if p.slot = n then { p with checked := true, tainted := false } else p }
  dropPlans (releaseAfter s c n) c

/-- The slots of carrier c with an unchecked plan whose deadline is the tick that starts slot `now`, or passed when
TICKS fell (log entry 40), oldest first. -/
def dueSlots (s : State) (c : Nat) (now : Word) : List Word :=
  let due (p : Plan) : Bool := !p.checked && ccTicks s c ≤ (now - p.slot).toNat && (now - p.slot).toNat < 2 ^ 31
  let l := ((s.carrier c).plans.filter due).map (·.slot)
  sortBy (fun a b => (now - b).toNat ≤ (now - a).toNat) l.eraseDups

/-- The deadline check of carrier c at the tick that starts slot `now`. -/
def deadlineCheck (s : State) (c : Nat) (now : Word) : State :=
  if s.ccLink c then s else (dueSlots s c now).foldl (fun s n => checkSlot s c n) s

/-! ### Slot counts (R279, R354) -/

/-- The slot length L_mu in ns. -/
def slotNs (mu : Nat) : Nat := 1000000 / 2 ^ mu

/-- TOFF_n, signed. -/
def toff (s : State) (n : Nat) : Int := signed 64 (s.reg64 (tbBase n + 0x24))

/-- The slot count of base n at numerology mu, modulo 2^32. -/
def slotCount (s : State) (n mu : Nat) : Word :=
  BitVec.ofInt 32 (((s.timeOf n : Int) - toff s n * 2 ^ 16) / ((slotNs mu : Int) * 2 ^ 16))

/-- CC_SLOT of carrier c becomes n. Where the number changes, the slots from n on are slots to come, whose symbols have
not been signalled yet (R23). -/
def setSlot (s : State) (c : Nat) (n : Word) : State :=
  if s.ccSlot c = n then s
  else
    let x := s.carrier c
    (s.setReg (carrierBase c + 8) n).setCarrier c { x with signalled := x.signalled.filter fun e => (e.1 - n).toInt < 0 }

/-- CC_SLOT of every context governed by base n set to the slot count: a step or a write of TOFF changed it (R279,
R356), or the context's base or numerology did. -/
def resyncSlots (s : State) (p : Nat → Bool) : State :=
  s.forEach 24 fun s c => if p c then setSlot s c (slotCount s (s.ccBase c) (s.ccMu c)) else s

/-! ### Enabling and disabling (R277, R278) -/

/-- A context is enabled: its PRACH occasions count from 0 (R282), and of the symbols signalled before, only those of
slots near the present one still count (R23). -/
def enableStart (s : State) (c : Nat) : State :=
  let x := s.carrier c
  s.setCarrier c { x with prach := 0, signalled := x.signalled.filter fun e => (s.ccSlot c - e.1).toInt.natAbs < 64 }

/-- The reason for which ENABLE is refused for an ACCESS context, 0 none (R278, Table 10.11). -/
def accessCause (s : State) (c : Nat) : Nat :=
  if !(1 ≤ ccNprb s c && ccNprb s c ≤ nprbMax (s.ccMu c) && 1 ≤ ccUl s c && ccUl s c ≤ 32 && 1 ≤ ccDl s c &&
      ccDl s c ≤ 32) then 1
  else if 209664 < otherLoad s c + ccLoad s c then 2
  else if !linkExists s (ccLinkNo s c) then 4
  else 0

end Sys2Proof.Machine
end

