-- ==== Sys2Proof/Machine/Plans.lean ====
section
/-! DEFINITION. Plans.lean: the submission area and the slot messages taken from it: scans, slot plans, plan items and
HARQ releases (R20, R21, R298, R302–R304, R444–R447). -/

namespace Sys2Proof.Machine

/-! ### The ring of the submission area -/

/-- Store address of PROD, and of entry count v of a ring of `size` entries (Host Interface, The submission area). -/
def prodAt : Nat := mequelLo
def entryAt (size v : Nat) : Nat := mequelLo + 0x1000 + v % size * 64

/-- PROD, SUB_CONS, SUB_SIZE and SUB_CTRL.EN. -/
def subProd (s : State) : Word := BitVec.ofNat 32 (s.readLE prodAt 4)
/-- A read of PROD or of an entry by Ledger, with what HBM's ECC makes of it (R202). -/
def subRead (s : State) (a n : Nat) : State := (memRead s a n .ledger).2
def subCons (s : State) : Word := s.reg 0x0010_0008
def subSize (s : State) : Nat := (s.reg 0x0010_0004).toNat
def subOn (s : State) : Bool := s.flag 0x0010_0000 0

/-- The 64 bytes of entry count v. -/
def subEntry (s : State) (v : Word) : List Byte := s.readBytes (entryAt (max 1 (subSize s)) v.toNat) 64

/-- VER of an entry. -/
def entryVer (l : List Byte) : Nat := field l 1 1

/-- Submission codes of Table 16.4: commands, and slot messages. -/
def commandCodes : List Nat := [0x10, 0x11, 0x12, 0x13, 0x40, 0x41, 0x42, 0x48, 0x49, 0x4A, 0x4B, 0x50]
def slotCodes : List Nat := [0x20, 0x21, 0x22, 0x23]

/-- An entry with a submission code and VER 1. -/
def entryKnown (l : List Byte) : Bool := entryVer l = 1 && (commandCodes ++ slotCodes).contains (entryCode l)

/-- A plan header, which ITEMS PLAN_ITEM entries follow (R302). -/
def isPlan (l : List Byte) : Bool := entryVer l = 1 && (entryCode l = 0x20 || entryCode l = 0x21)
def isItem (l : List Byte) : Bool := entryVer l = 1 && entryCode l = 0x22

/-- SUB_REJECT of entry count v (R447). -/
def subReject (s : State) (l : List Byte) (v : Word) : State :=
  let s := s.bump 0x0010_001C 1
  cplPost s { ring := 0, code := 0x02, htag := entryTag l, body := [BitVec.ofNat 32 (entryCode l), v] }

/-! ### A scan (R445, R446) -/

/-- A scan attributed to a tick of base n at numerology mu: every tick at mu is also one at every larger numerology
(R355), so the carriers it is a tick of are those of base n with MU at least mu. -/
def tickOf (s : State) (n mu c : Nat) : Bool := c < 24 && s.ccBase c = n && mu ≤ s.ccMu c

/-- Whether the scan is attributed to a tick of carrier c. -/
def scanTicks (s : State) (g : ScanTrigger) (c : Nat) : Bool :=
  match g with
  | .tick n mu => tickOf s n mu c
  | .period => false

/-- Whether the trigger starts a scan: a tick of a live carrier's base at its MU, or the period while no carrier is
live. -/
def scanStarts (s : State) (g : ScanTrigger) : Bool :=
  match g with
  | .tick n mu => (List.range 24).any fun c => tickOf s n mu c && s.ccLive c
  | .period => (List.range 24).all fun c => !s.ccLive c

/-- d of R446: how far the plan's slot lies ahead of slot m. -/
def planAhead (header : List Byte) (m : Word) : Nat := (BitVec.ofNat 32 (field header 0xC 4) - m).toNat

/-- Whether a plan taken now is to be held: its scan is not one of its carrier, or its slot lies further ahead (R446). A
plan whose CC names no context is never held (log entry 41). -/
def willHold (p : TakenPlan) : Bool :=
  match p.m with
  | none => true
  | some m => 2 ≤ planAhead p.header m && planAhead p.header m < 2 ^ 31

/-- The slot number that a plan of carrier c is judged by at this scan. -/
def scanSlot (s : State) (g : ScanTrigger) (c : Nat) : Option Word :=
  if 24 ≤ c then some 0 else if scanTicks s g c then some (s.ccSlot c) else none

/-- Whether carrier c is enabled and of TYPE ACCESS at this scan (R278). -/
def accessEnabled (s : State) (c : Nat) : Bool := c < 24 && s.ccEnabled c && !s.ccLink c

/-- Entries of the pending store in use, with those that the plans taken will need. -/
def storeUsed (s : State) : Nat :=
  let size (p : TakenPlan) : Nat := 1 + p.items.length
  (s.sub.held.map size).sum + (s.sub.taken.map fun e => match e with
    | .plan p => if willHold p then size p else 0
    | _ => 0).sum

/-- Room of the pending store and of the command queue. -/
def storeSize : Nat := 4096
def commandRoom : Nat := 256

/-- Plans of the store whose carrier this scan ticks are judged again. -/
def rescan (s : State) (g : ScanTrigger) : State :=
  let due (p : TakenPlan) : Bool := scanTicks s g (field p.header 8 1)
  let again := (s.sub.held.filter due).map fun p =>
    TakenEntry.plan { p with m := scanSlot s g (field p.header 8 1), enabled := accessEnabled s (field p.header 8 1) }
  s.onSub fun q => { q with held := q.held.filter (!due ·), taken := q.taken ++ again }

/-- The ITEMS entries after the header at count v. -/
def planItems (s : State) (v : Word) (n : Nat) : List (List Byte) :=
  (List.range n).map fun i => subEntry s (v + BitVec.ofNat 32 (i + 1))

/-- How many of the entries after a header are PLAN_ITEM entries, up to ITEMS. -/
def itemRun (l : List (List Byte)) : Nat := (l.takeWhile isItem).length

/-- One entry at count v with `left` entries before PROD: how many entries it takes, and the state; none when the scan
stops there. A header that fewer than ITEMS PLAN_ITEM entries follow takes those that do (log entry 37). -/
def scanEntry (s : State) (g : ScanTrigger) (v : Word) (left : Nat) : Option (Nat × State) :=
  let l := subEntry s v
  let s := subRead s (entryAt (max 1 (subSize s)) v.toNat) 64
  if !entryKnown l then some (1, subReject s l v)
  else if isPlan l then
    let n := field l 0xA 2
    if left < 1 + n then none
    else
      let k := itemRun (planItems s v n)
      let s := s.forEach k fun s i => subRead s (entryAt (max 1 (subSize s)) (v + BitVec.ofNat 32 (i + 1)).toNat) 64
      let p : TakenPlan := {
        header := l, items := planItems s v k, m := scanSlot s g (field l 8 1), enabled := accessEnabled s (field l 8 1) }
      if willHold p && storeSize < storeUsed s + 1 + k then none
      else some (1 + k, (s.onSub fun q => { q with taken := q.taken ++ [.plan p] }))
  else if isItem l then some (1, (s.onSub fun q => { q with taken := q.taken ++ [.stray l] }))
  else if entryCode l = 0x23 then some (1, (s.onSub fun q => { q with taken := q.taken ++ [.release l] }))
  else if s.sub.commands.length < commandRoom then
    some (1, (s.onSub fun q => { q with commands := q.commands ++ [l] }))
  else none

/-- Entries taken from count v on, `left` of them at most; the count reached. -/
def scanFrom (g : ScanTrigger) : Nat → State → Word → Nat → State × Word
  | 0, s, v, _ => (s, v)
  | fuel + 1, s, v, left =>
    if left = 0 then (s, v)
    else match scanEntry s g v left with
      | none => (s, v)
      | some (n, s) => scanFrom g fuel s (v + BitVec.ofNat 32 n) (left - n)

/-- SUB_CONS set, and mirrored to host memory where SUB_MIRROR is not 0. -/
def setCons (s : State) (v : Word) : State :=
  let s := s.setReg 0x0010_0008 v
  if s.reg64 0x0010_0010 = 0 then s else s.writeLE (hostStore (s.reg64 0x0010_0010)) 4 v.toNat

/-- SUBMISSION_SCAN. -/
def submissionScan (s : State) (g : ScanTrigger) : State :=
  if !subOn s || !scanStarts s g then s
  else
    let s := subRead (rescan s g) prodAt 4
    let left := (subProd s - subCons s).toNat
    if subSize s < left then (s.orReg 0x0010_0018 1).setFld 0x0010_0000 0 0 0
    else
      let (s, v) := scanFrom g left s (subCons s) left
      setCons s v

def execSubmissionScan (g : ScanTrigger) (s : State) : Host.Outcome State Fault Refusal :=
  .next (s.act fun s => submissionScan s g)

/-- SUB_SCAN_PERIOD_EXPIRY: the scan that SUB_SCAN.PERIOD starts. -/
def execSubScanPeriodExpiry (s : State) : Host.Outcome State Fault Refusal :=
  .next (s.act fun s => submissionScan s .period)

/-- HOST_BOOT_STATUS.STAGE (Table 16.8). -/
def bootStage (s : State) : Nat := s.fld 0x1_0010 2 0

/-- SUB_ENABLE: a write of 1 to SUB_CTRL.EN starts the area and sets SUB_CONS to 0, at STAGE READY (Table 16.8) and when
EN was 0. -/
def subEnable (s : State) : State :=
  if subOn s || bootStage s ≠ 5 then s else (s.setFld 0x0010_0000 0 0 1).setReg 0x0010_0008 0

def execSubEnable (src : Writer) (s : State) : Host.Outcome State Fault Refusal := .next (s.written src subEnable)

/-! ### Slot plans (R302, R303, Tables 10.6 and 10.8) -/

/-- The plan item of an entry. -/
def itemAt (l : List Byte) : PlanItem :=
  { kind := field l 8 1, flags := field l 9 1, ue := field l 0xA 2, prbStart := field l 0xC 2, nprb := field l 0xE 2,
    symStart := field l 0x10 1, nsym := field l 0x11 1, layers := field l 0x12 1, qm := field l 0x13 1,
    tbs := field l 0x14 4, g := field l 0x18 4, rv := field l 0x1C 1, harqKey := field l 0x1E 2,
    softbuf := field l 0x20 8, payload := field l 0x28 8, capacity := field l 0x30 4, beam := field l 0x34 2,
    cookie := field l 0x38 8,
    reservedBad := field l 4 4 ≠ 0 || field l 9 1 / 16 ≠ 0 || field l 0x1D 1 ≠ 0 || field l 0x36 2 ≠ 0 ||
      2 ^ 15 ≤ field l 0x34 2 }

/-- A reserved field of the header is not 0; bits 14 and 15 of SYM_MASK name no symbol. -/
def headerReserved (h : List Byte) : Bool :=
  field h 4 4 ≠ 0 || field h 9 1 ≠ 0 || 2 ^ 14 ≤ field h 0x10 2 || 2 ^ 15 ≤ field h 0x12 2 || field h 0x14 44 ≠ 0

/-- The tallies that a plan needs exist (cause 10): REQ and DONE for uplink items that are decoded or reported, ENC for
downlink items, and READY for downlink symbols. -/
def planTallies (s : State) (c k : Nat) (ul : Bool) (symMask : Nat) (items : List PlanItem) : Bool :=
  if ul then
    !items.any (·.kind ≤ 2) || (reqTally s c k).isSome && (doneTally s c k).isSome
  else (items.isEmpty || (encTally s c k).isSome) && (symMask = 0 || (readyTally s c k).isSome)

/-- Whether the RUNNING job serves carrier c: CC_TAG is not 0xFF. -/
def jobServes (s : State) (c : Nat) : Bool :=
  match s.runningSlot with
  | some k => (s.job k).ccTag.getD c 0xFF ≠ 0xFF
  | none => false

/-- The lowest plan cause of Table 10.8 from 3 on, 0 none. -/
def planCause (s : State) (c : Nat) (ul : Bool) (p : TakenPlan) : Nat :=
  let items := p.items.map itemAt
  if !jobServes s c then 3
  else if 512 < field p.header 0xA 2 || field p.header 0xA 2 ≠ p.items.length || headerReserved p.header ||
      items.any (·.reservedBad) then 4
  else if (planOf s c ul (BitVec.ofNat 32 (field p.header 0xC 4))).isSome then 8
  else match s.runningSlot with
    | some k => if planTallies s c k ul (field p.header 0x10 2) items then 0 else 10
    | none => 3

/-- The symbols of an item as a mask. -/
def PlanItem.symbols (x : PlanItem) : Nat := (2 ^ x.nsym - 1) * 2 ^ x.symStart

/-- PRBs and symbols lie in the carrier and in SYM_MASK. -/
def itemPlaced (s : State) (c symMask : Nat) (x : PlanItem) : Bool :=
  1 ≤ x.nprb && x.prbStart + x.nprb ≤ ccNprb s c && 1 ≤ x.nsym && x.symStart + x.nsym ≤ 14 &&
    x.symbols &&& symMask = x.symbols

/-- A KIND 3 item: only PRB_START, NPRB and TBS, the last 139 or 839 (plan item body). -/
def prachOk (x : PlanItem) : Bool :=
  (x.tbs = 139 || x.tbs = 839) && x.flags = 0 && x.ue = 0 && x.symStart = 0 && x.nsym = 0 && x.layers = 0 && x.qm = 0 &&
    x.g = 0 && x.rv = 0 && x.harqKey = 0 && x.softbuf = 0 && x.payload = 0 && x.capacity = 0 && x.beam = 0 &&
    x.cookie = 0

/-- The ranges that the item body gives for every KIND but 3. -/
def blockFields (x : PlanItem) : Bool :=
  1 ≤ x.layers && x.layers ≤ 16 && [1, 2, 4, 6, 8].contains x.qm && x.tbs ≤ 1277992 && x.rv ≤ 3 && x.harqKey ≤ 1023

/-- Cause 5 of an item: a field out of range, or PRBs or symbols outside the carrier or SYM_MASK. A transport block has at
least one bit (log entry 42). -/
def itemRange (s : State) (c : Nat) (ul : Bool) (symMask : Nat) (x : PlanItem) : Bool :=
  match ul, x.kind with
  | true, 3 => prachOk x
  | true, 0 => itemPlaced s c symMask x && blockFields x && 1 ≤ x.tbs && x.softbuf % 64 = 0
  | true, 1 => itemPlaced s c symMask x && blockFields x && 12 ≤ x.tbs && x.tbs ≤ 1706
  | true, 2 => itemPlaced s c symMask x && blockFields x
  | false, 0 => itemPlaced s c symMask x && blockFields x && 1 ≤ x.tbs
  | _, _ => false

/-- Cause 6: SOFTBUF in Mequel's region or outside HBM, or the coded bits beyond region 4. -/
def itemMemory (s : State) (c : Nat) (ul : Bool) (x : PlanItem) : Bool :=
  if ul then x.kind ≠ 0 || x.softbuf < mequelLo
  else x.softbuf % 2 ^ 32 + (x.g + 7) / 8 ≤ ccBufSize s c 4

/-- The lowest item cause of Table 10.8, 0 none. -/
def itemCause (s : State) (c : Nat) (ul : Bool) (symMask : Nat) (x : PlanItem) : Nat :=
  if !itemRange s c ul symMask x then 5
  else if !itemMemory s c ul x then 6
  else if (if ul then ccUl s c else ccDl s c) < x.layers || x.tp && 1 < x.layers then 7
  else if ul && x.kind ≤ 1 && x.capacity < x.bytes then 9
  else 0

/-- A plan rejected as a whole: one TB_STATUS with ITEM 0xFFFF (R303). DESIGN CHOICE (log entry 100): the slot in which
the carrier receives or transmits nothing is that of the plan's own direction; an accepted plan of the other direction,
or an earlier one of the same direction, stands (R21, R303 and cause 8 leave it open). -/
def rejectPlan (s : State) (c : Nat) (ul : Bool) (header : List Byte) (cause : Nat) : State :=
  let s := s.bump (carrierBase (if c < 24 then c else 0) + 0xD0) 1
  tbStatus s c ul 0xFFFF (BitVec.ofNat 32 (field header 0xC 4)) (entryTag header) { status := 3, cause := cause }

/-- The HARQ key of an accepted uplink block (R298): NEW makes it hold content at SOFTBUF; otherwise the item finds it
empty or elsewhere, or finds its content. -/
def takeKey (s : State) (c : Nat) (x : PlanItem) : Bool × State :=
  if x.kind ≠ 0 then (false, s)
  else if x.isNew then (false, s.setHarqKey c x.harqKey (some x.softbuf))
  else (s.harqKey c x.harqKey ≠ some x.softbuf, s)

/-- One item of a plan being accepted: rejected with its own TB_STATUS, or taken. -/
def takeItem (c : Nat) (ul : Bool) (header : List Byte) (s : State) (x : PlanItem) (i : Nat) : State × ItemState :=
  let cause := itemCause s c ul (field header 0x10 2) x
  if cause = 0 then
    let (e, s) := if ul then takeKey s c x else (false, s)
    (s, { item := x, softEmpty := e })
  else
    let s := s.bump (carrierBase c + 0xD0) 1
    (tbStatus s c ul i (BitVec.ofNat 32 (field header 0xC 4)) (entryTag header)
      { status := 3, cause := cause, cookie := x.cookie }, { item := x, rejected := cause, answered := true })

/-- The items of a plan taken in order. -/
def takeItems (c : Nat) (ul : Bool) (header : List Byte) : State → List (PlanItem × Nat) → State × List ItemState
  | s, [] => (s, [])
  | s, (x, i) :: r =>
    let (s, y) := takeItem c ul header s x i
    let (s, l) := takeItems c ul header s r
    (s, y :: l)

/-- A plan accepted for its slot (R20). -/
def acceptPlan (s : State) (c : Nat) (ul : Bool) (p : TakenPlan) : State :=
  let (s, items) := takeItems c ul p.header s (p.items.map itemAt).zipIdx
  let x := s.carrier c
  let prachs := items.countP fun i => i.rejected = 0 && i.item.kind = 3
  s.setCarrier c { x with
    prach := x.prach + prachs,
    plans := x.plans ++ [{
      ul := ul, htag := entryTag p.header, slot := BitVec.ofNat 32 (field p.header 0xC 4),
      symMask := field p.header 0x10 2, beam := field p.header 0x12 2, items := items, prachFirst := x.prach }] }

/-- A plan judged at a scan of its carrier, where its slot number was m (R446). A LINK context rejects every slot plan
with cause 2, whatever its slot (R306). -/
def judgePlan (s : State) (c : Nat) (ul : Bool) (p : TakenPlan) (m : Word) : State :=
  if 24 ≤ c || s.ccLink c then rejectPlan s c ul p.header 2
  else
    let d := planAhead p.header m
    if d = 0 ∨ 2 ^ 31 ≤ d then rejectPlan s c ul p.header 1
    else if 2 ≤ d then s.onSub fun q => { q with held := q.held ++ [p] }
    else if !p.enabled then rejectPlan s c ul p.header 2
    else
      let cause := planCause s c ul p
      if cause = 0 then acceptPlan s c ul p else rejectPlan s c ul p.header cause

/-- UL_SLOT_PLAN and DL_SLOT_PLAN: the taken message at the front, when it is a plan of that direction. -/
def slotPlan (s : State) (ul : Bool) : State :=
  match s.sub.taken with
  | .plan p :: r =>
    if (entryCode p.header = 0x20) = ul then
      let s := s.onSub fun q => { q with taken := r }
      match p.m with
      | some m => judgePlan s (field p.header 8 1) ul p m
      | none => s.onSub fun q => { q with held := q.held ++ [p] }
    else s
  | _ => s

def execUlSlotPlan (s : State) : Host.Outcome State Fault Refusal := .next (s.act fun s => slotPlan s true)
def execDlSlotPlan (s : State) : Host.Outcome State Fault Refusal := .next (s.act fun s => slotPlan s false)

/-- PLAN_ITEM that follows no plan: counted (R302). The item body has no CC, so it names no context and context 0
counts it (log entry 43). -/
def planItem (s : State) : State :=
  match s.sub.taken with
  | .stray _ :: r => (s.onSub fun q => { q with taken := r }).bump (carrierBase 0 + 0xD0) 1
  | _ => s

def execPlanItem (s : State) : Host.Outcome State Fault Refusal := .next (s.act planItem)

/-! ### HARQ_RELEASE (R298, R304) -/

/-- The last slot of carrier c whose check has not run and whose plan names a key. -/
def keyNamed (s : State) (c key : Nat) : Option Word :=
  (((s.carrier c).plans.filter fun p => p.ul && !p.checked &&
    p.items.any fun i => i.rejected = 0 && i.item.kind = 0 && i.item.harqKey = key).map (·.slot)).getLast?

/-- One key released: at once, or after the check of the slot that names it. -/
def releaseKey (s : State) (c key : Nat) : State :=
  match keyNamed s c key with
  | none => s.setHarqKey c key none
  | some n =>
    let x := s.carrier c
    s.setCarrier c { x with releases := x.releases ++ [(key, n)] }

/-- HARQ_RELEASE at the front of the taken messages. A release whose CC names no context, or whose count is outside
1–1,024, is ignored and counted like one whose range is invalid (log entry 41). -/
def harqRelease (s : State) : State :=
  match s.sub.taken with
  | .release l :: r =>
    let s := s.onSub fun q => { q with taken := r }
    let c := field l 8 1
    let first := field l 0xA 2
    let n := field l 0xC 2
    if 24 ≤ c ∨ n < 1 ∨ 1024 < first + n then s.bump (carrierBase (if c < 24 then c else 0) + 0xD8) 1
    else s.forEach n fun s i => releaseKey s c (first + i)
  | _ => s

def execHarqRelease (s : State) : Host.Outcome State Fault Refusal := .next (s.act harqRelease)

end Sys2Proof.Machine
end

