-- ==== Sys2Proof/Machine/Fronthaul.lean ====
section
/-! DEFINITION. Fronthaul.lean: U-plane sections into the carrier buffer, reception windows, the C-plane and the
downlink transmit windows of ACCESS carriers (R22–R24, R28, R273–R275, R281–R285). -/

namespace Sys2Proof.Machine

/-! ### Time of a symbol (R283; TS 38.211 clause 5.3.1) -/

/-- Start of symbol l of a subframe, in 1/30.72 µs: 2192 / 2^mu of them to a symbol, and 16 more for the first symbol of
each half-subframe. -/
def symbolTs (mu l : Nat) : Nat :=
  l * (2192 / 2 ^ mu) + 16 * (b2n (0 < l)) + 16 * (b2n (7 * 2 ^ mu < l))

/-- Offset of symbol k of slot n from the slot's start, in units of 2^−16 ns. -/
def symbolOffset (mu : Nat) (n : Word) (k : Nat) : Nat :=
  let l := 14 * (n.toNat % 2 ^ mu)
  (symbolTs mu (l + k) - symbolTs mu l) * 3125 * 2 ^ 16 / 96

/-- The slot count of carrier c's base, unbounded. -/
def slotInt (s : State) (c : Nat) : Int :=
  ((s.timeOf (s.ccBase c) : Int) - toff s (s.ccBase c) * 2 ^ 16) / ((slotNs (s.ccMu c) : Int) * 2 ^ 16)

/-- The time of base at which slot n of carrier c starts, the nearest one of that number, in units of 2^−16 ns. -/
def slotStart (s : State) (c : Nat) (n : Word) : Int :=
  let now := slotInt s c
  (now + (n - BitVec.ofInt 32 now).toInt) * ((slotNs (s.ccMu c) : Int) * 2 ^ 16) + toff s (s.ccBase c) * 2 ^ 16

/-- 0.1 µs in units of 2^−16 ns. -/
def windowUnit : Int := 100 * 2 ^ 16

/-- CC_ULWIN.OPEN and CLOSE. -/
def ulOpen (s : State) (c : Nat) : Nat := s.fld (carrierBase c + 0x10) 15 0
def ulClose (s : State) (c : Nat) : Nat := s.fld (carrierBase c + 0x10) 31 16

/-- The reception window of symbol k of slot n (R283). -/
def rxOpens (s : State) (c : Nat) (n : Word) (k : Nat) : Int :=
  slotStart s c n + symbolOffset (s.ccMu c) n k + ulOpen s c * windowUnit
def rxCloses (s : State) (c : Nat) (n : Word) (k : Nat) : Int :=
  slotStart s c n + symbolOffset (s.ccMu c) n k + ulClose s c * windowUnit

/-! ### Which slot a section is of (R273) -/

/-- Whether slot n has these frameId, subframeId and slotId. -/
def slotMatches (mu : Nat) (n : Word) (frame sub slot : Nat) : Bool :=
  n.toNat / (10 * 2 ^ mu) % 256 = frame && n.toNat / 2 ^ mu % 10 = sub && n.toNat % 2 ^ mu = slot

/-- The slots within half a frame cycle of the present one, earliest first. -/
def nearSlots (s : State) (c : Nat) : List Word :=
  let w := 1280 * 2 ^ s.ccMu c
  (List.range (2 * w)).map fun (i : Nat) => BitVec.ofInt 32 (slotInt s c) + BitVec.ofNat 32 i - BitVec.ofNat 32 w

/-- Whether the window of symbol k of slot n is open now. -/
def rxIsOpen (s : State) (c : Nat) (n : Word) (k : Nat) : Bool :=
  let t : Int := s.timeOf (s.ccBase c)
  rxOpens s c n k ≤ t && t < rxCloses s c n k

/-- Where a section goes: a slot, or the cause under which it is dropped: 3 early, 4 late. -/
def sectionSlot (s : State) (c frame sub slot k : Nat) : Except Nat Word :=
  let l := (nearSlots s c).filter fun n => slotMatches (s.ccMu c) n frame sub slot
  match l.find? fun n => rxIsOpen s c n k with
  | some n => if (s.carrier c).signalled.contains (n, k) then .error 4 else .ok n
  | none =>
    if l.any fun n => (s.timeOf (s.ccBase c) : Int) < rxOpens s c n k then .error 3 else .error 4

/-! ### Decompression (R274) -/

/-- Bytes of one coded PRB's section of n PRBs: 24 × w mantissa bits and the exponent byte of method 1. -/
def codedBytes (meth w n : Nat) : Nat := (n * (24 * w + if meth = 1 then 8 else 0) + 7) / 8

/-- PRBs of a section: 0 means all of them. -/
def sectionPrbs (s : State) (c : Nat) (x : Section) : Nat := if x.numPrb = 0 then ccNprb s c else x.numPrb

/-- Whether PRBs decompress: exponents no larger than 16 − w, and as many of them as are announced. -/
def prbsOk (meth w n : Nat) (l : List PrbData) : Bool :=
  l.length = n && l.all fun d => d.mant.length = 24 && (meth ≠ 1 || d.exp ≤ 16 - w)

/-- Whether a section decompresses under CC_COMP's uplink fields. -/
def decompresses (s : State) (c : Nat) (x : Section) : Bool :=
  let meth := ccMeth s c 0
  let w := if meth = 1 then ccWidth s c 0 else 16
  let n := sectionPrbs s c x
  (!ccHdr s c 0 || x.compMeth = meth && (if x.iqWidth = 0 then 16 else x.iqWidth) = ccWidth s c 0) && meth ≤ 1 &&
    x.payloadLen = codedBytes meth w n && prbsOk meth w n x.prbs

/-- One decompressed part: the mantissa, scaled for block floating point. -/
def partValue (meth w : Nat) (e : Nat) (m : Int) : Int :=
  if meth = 1 then signed w (pattern w m) * 2 ^ e else signed 16 (pattern 16 m)

/-- The 48 bytes of a decompressed PRB: twelve int16 pairs. -/
def prbBytes (meth w : Nat) (d : PrbData) : List Byte := d.mant.flatMap fun m => natLE 2 (pattern 16 (partValue meth w d.exp m))

/-! ### Uplink sections (R22, R282) -/

/-- Bytes of the fronthaul unit into a carrier's buffer region, charged to the carrier (R267); bytes beyond the region
reach nothing. -/
def bufferWrite (s : State) (c r off : Nat) (l : List Byte) : State :=
  if off < ccBufOff s c r ∨ ccBufOff s c r + ccBufSize s c r < off + l.length then s
  else (memWrite s (commonStore off) l .fronthaul).charge (s.carrierRecord c) acFh l.length

/-- Drop counter k of link l (Table 10.7). -/
def linkDrop (s : State) (l k n : Nat) : State := s.bump (fhBase l + 0x10 + 4 * k) n

/-- The bitmap of a stream of a symbol. -/
def bitmapOf (s : State) (c : Nat) (n : Word) (k a : Nat) : List Bool :=
  match (s.carrier c).bitmaps.find? fun b => b.slot = n && b.sym = k && b.stream = a with
  | some b => b.bits
  | none => List.replicate (ccNprb s c) false

def setBitmap (s : State) (c : Nat) (n : Word) (k a : Nat) (bits : List Bool) : State :=
  let x := s.carrier c
  let rest := x.bitmaps.filter fun b => !(b.slot = n && b.sym = k && b.stream = a)
  s.setCarrier c { x with bitmaps := rest ++ [{ slot := n, sym := k, stream := a, bits := bits }] }

/-- Whether an accepted uplink plan schedules symbol k of slot n. -/
def ulScheduled (s : State) (c : Nat) (n : Word) (k : Nat) : Bool :=
  match planOf s c true n with
  | some p => p.symMask.testBit k
  | none => false

/-- Every bit of every stream of the symbol is set. -/
def symbolComplete (s : State) (c : Nat) (n : Word) (k : Nat) : Bool :=
  (List.range (ccUl s c)).all fun a => (bitmapOf s c n k a).all id

/-- Entry e of region 0, or 64 on of region 2, is announced or not (R24). -/
def setReady (s : State) (c e : Nat) (v : Bool) : State :=
  let x := s.carrier c
  s.setCarrier c { x with ready := tset (fun _ => false) x.ready e v }

/-- The region-0 entry of symbol k of slot n (R281). -/
def ulEntry (s : State) (c : Nat) (n : Word) (k : Nat) : Nat := (14 * n.toNat + k) % max 1 (bufRing s c 0 (ccUl s c))

/-- The last symbol of the slot that the uplink plan schedules, on which its PRACH occasions are announced: a PRACH item
names no symbol (R282; log entry 44). -/
def lastSymbol (p : Plan) : Nat := ((List.range 14).filter (p.symMask.testBit ·)).getLastD 13

/-- The PRACH occasions of a plan whose last symbol is k are announced. -/
def announcePrach (s : State) (c : Nat) (p : Plan) (k : Nat) : State :=
  if lastSymbol p ≠ k then s
  else s.forEach (p.items.countP fun i => i.rejected = 0 && i.item.kind = 3) fun s i =>
    setReady s c (64 + (p.prachFirst + i) % 4) true

/-- What a symbol's signal announces: the entry of a scheduled symbol, and the occasions that end with it; the entry of
another symbol holds unspecified data from then on (R23, R24; log entry 90). -/
def announce (s : State) (c : Nat) (n : Word) (k : Nat) : State :=
  let s := setReady s c (ulEntry s c n k) (ulScheduled s c n k)
  match planOf s c true n with
  | some p => if p.symMask.testBit k then announcePrach s c p k else s
  | none => s

/-- The symbol's tally is signalled, once, and its bitmaps are done with. Signals are remembered for as long as a
window of the slot can still be open (R23). -/
def symbolDone (s : State) (c : Nat) (n : Word) (k : Nat) : State :=
  let s := announce s c n k
  let x := s.carrier c
  let near := x.signalled.filter fun e => (s.ccSlot c - e.1).toInt < 64
  let s := s.setCarrier c { x with
    signalled := near ++ [(n, k)], bitmaps := x.bitmaps.filter fun b => !(b.slot = n && b.sym = k) }
  signalSymbol (dropPlans s c) c k

/-- PRBs of a section written into region 0, with their bits set and repetitions counted. -/
def writeSection (s : State) (l c : Nat) (n : Word) (k a : Nat) (x : Section) : State :=
  let np := sectionPrbs s c x
  let old := bitmapOf s c n k a
  let s := setReady s c (ulEntry s c n k) false
  let s := (x.prbs.zipIdx).foldl (fun s (d, i) =>
    bufferWrite s c 0 (symbolAt s c 0 (ccUl s c) n k a + 48 * (x.startPrb + i))
      (prbBytes (ccMeth s c 0) (ccWidth s c 0) d)) s
  let hit (i : Nat) : Bool := x.startPrb ≤ i && i < x.startPrb + np
  let twice := (old.zipIdx.filter fun (b, i) => b && hit i).length
  let s := if twice = 0 then s else s.bump (fhBase l + 0x28) twice
  let s := setBitmap s c n k a (old.mapIdx fun i b => b || hit i)
  if symbolComplete s c n k then symbolDone s c n k else s

/-- The PRACH item of a plan that a section belongs to: the first whose frequency offset is the section's start, or the
first (log entry 44). -/
def prachItem (p : Plan) (start : Nat) : Option (PlanItem × Nat) :=
  let l := (p.items.filter fun i => i.rejected = 0 && i.item.kind = 3).map (·.item)
  match l.findIdx? (·.prbStart = start) with
  | some i => (l[i]?).map fun x => (x, i)
  | none => (l[0]?).map fun x => (x, 0)

/-- A PRACH section written into region 2 at its occasion's entry (R282). -/
def writePrach (s : State) (l c : Nat) (n : Word) (a : Nat) (x : Section) : State :=
  match (planOf s c true n).bind fun p => (prachItem p x.startPrb).map fun i => (i.1, p.prachFirst + i.2) with
  | none => linkDrop s l 5 1
  | some (item, j) =>
    let bytes := x.prbs.flatMap (prbBytes (ccMeth s c 0) (ccWidth s c 0))
    let s := setReady s c (64 + j % 4) false
    bufferWrite s c 2 (ccBufOff s c 2 + ((j % 4) * ccUl s c + a) * 4096) (bytes.take (4 * item.tbs))

/-- Whether a compression is one of Table 10.2: none with 16-bit parts, or block floating point of a width listed. -/
def compressionOk (meth w : Nat) : Bool := meth = 0 && w = 16 || meth = 1 && [8, 9, 10, 12, 14, 16].contains w

/-- Whether a section's compression is one of Table 10.2 (R272): the method and width in it, or CC_COMP's where it carries
none. -/
def featuresOk (s : State) (c : Nat) (x : Section) : Bool :=
  if ccHdr s c 0 then compressionOk x.compMeth (if x.iqWidth = 0 then 16 else x.iqWidth)
  else compressionOk (ccMeth s c 0) (ccWidth s c 0)

/-- One section of a symbol, for a carrier and stream that accept it. A carrier whose job is not RUNNING receives nothing;
Table 10.7 gives its sections no counter (R251; log entry 90). -/
def rxSection (s : State) (l c a frame sub slot k : Nat) (x : Section) : State :=
  if x.ef || (x.sectionType ≠ 1 && x.sectionType ≠ 3) || 14 ≤ k || !featuresOk s c x then linkDrop s l 5 1
  else if ulClose s c ≤ ulOpen s c then linkDrop s l 3 1
  else match sectionSlot s c frame sub slot k with
    | .error cause => linkDrop s l cause 1
    | .ok n =>
      if !ulScheduled s c n k || x.sectionType = 1 && ccNprb s c < x.startPrb + sectionPrbs s c x then linkDrop s l 5 1
      else if !jobServes s c then s
      else if !decompresses s c x then
        raise (s.bump (carrierBase c + 0xC4) 1) eDecomp 6 c n.toNat k
      else if x.sectionType = 1 then writeSection s l c n k a x
      else writePrach s l c n a x

/-- The ACCESS carrier on link l that an eAxC ID selects (R273). -/
def eaxcCarrier (s : State) (l : Nat) (id : BitVec 16) (link : Bool) : Option Nat :=
  (List.range 24).find? fun c =>
    s.ccLive c && s.ccLink c = link && ccLinkNo s c = l &&
      s.fld (carrierBase c + 0x20) 15 0 = (if link then id.toNat else id.toNat / 32 * 32)

/-- U-plane sections of one message (R273). The sequence number received is counted (Table 10.2). -/
def rxOran (s : State) (l : Nat) (m : EcpriMsg) (frame sub slot k : Nat) (xs : List Section) : State :=
  let a := m.eaxc.toNat % 32
  match eaxcCarrier s l m.eaxc false with
  | some c =>
    if a < ccUl s c then
      let y := s.carrier c
      let s := s.setCarrier c { y with seqRx := tset (fun _ => 0) y.seqRx m.eaxc.toNat (m.seq % 256) }
      xs.foldl (fun s x => rxSection s l c a frame sub slot k x) s
    else linkDrop s l 2 xs.length
  | none => linkDrop s l 2 xs.length

/-! ### Close of a reception window (R22, R23, R282) -/

/-- PRBs whose bits are clear written with zeros. -/
def zeroFill (s : State) (c : Nat) (n : Word) (k : Nat) : State :=
  s.forEach (ccUl s c) fun s a =>
    ((bitmapOf s c n k a).zipIdx).foldl (fun s (b, i) =>
      if b then s else bufferWrite s c 0 (symbolAt s c 0 (ccUl s c) n k a + 48 * i) (List.replicate 48 0)) s

/-- RECEPTION_WINDOW_CLOSE of symbol k of slot n: once for each symbol of a slot of a live ACCESS context. -/
def windowClose (s : State) (c : Nat) (n : Word) (k : Nat) : State :=
  let age := (s.ccSlot c - n).toInt
  if !s.ccLive c || s.ccLink c || (s.carrier c).signalled.contains (n, k) || age < -1 || 64 ≤ age then s
  else if !ulScheduled s c n k then symbolDone s c n k
  else
    let s := zeroFill s c n k
    symbolDone (raise (s.bump (carrierBase c + 0xC0) 1) eFrameLate 6 c n.toNat k) c n k

def execReceptionWindowClose (c : Carrier) (slot : Word) (sym : Fin 14) (s : State) : Host.Outcome State Fault Refusal :=
  .next (s.actTogether fun s => windowClose s c slot sym)

/-! ### C-plane (R284) -/

/-- The next sequence number of an eAxC, and the state after sending it (Table 10.2). -/
def nextSeq (s : State) (c id : Nat) : Nat × State :=
  let x := s.carrier c
  let q := tget (fun _ => 0) x.seqTx id
  (q, s.setCarrier c { x with seqTx := tset (fun _ => 0) x.seqTx id ((q + 1) % 256) })

/-- eAxC ID of stream a. -/
def eaxcOf (s : State) (c a : Nat) : Nat := s.fld (carrierBase c + 0x20) 15 0 + a

/-- One frame leaves by the carrier's link. -/
def countTx (s : State) (c : Nat) : State :=
  if s.portDown (fhPort (ccLinkNo s c)) then s else s.bump (fhBase (ccLinkNo s c) + 0x2C) 1

/-- beamId of the sections of symbol k: that of the first item of the symbol that gives one, else the plan's. -/
def beamOf (p : Plan) (k : Nat) : Nat :=
  match p.items.find? fun i => i.rejected = 0 && i.item.beam ≠ 0 && i.item.symbols.testBit k with
  | some i => i.item.beam
  | none => p.beam

/-- One C-plane message of a stream. -/
def sendC (s : State) (c : Nat) (n : Word) (k a : Nat) (x : CSection) : State :=
  let (q, s) := nextSeq s c (eaxcOf s c a)
  countTx (s.send (.cPlane c n k a q x)) c

/-- Section type 1 of all NPRB PRBs for every symbol of SYM_MASK and every stream. -/
def sendSymbols (s : State) (c streams : Nat) (p : Plan) : State :=
  s.forEach 14 fun s k =>
    if p.symMask.testBit k then s.forEach streams fun s a =>
      sendC s c p.slot k a { dl := !p.ul, type := 1, numPrb := ccNprb s c, beam := beamOf p k }
    else s

/-- The section type 3 of a PRACH item: the frequency offset and filter index that it carries in PRB_START and NPRB, on
stream 0; it names no symbol and no beam of its own (log entry 44). -/
def prachSection (p : Plan) (x : PlanItem) : CSection :=
  { dl := false, type := 3, beam := p.beam, freqOffset := x.prbStart, filter := x.nprb }

/-- C_PLANE_SEND: the messages of slot n in the order of R284, of a carrier that the RUNNING job serves (R251); `late`
of them cannot leave in time. -/
def cPlaneSend (s : State) (c : Nat) (n : Word) (late : Nat) : State :=
  let ready (ul : Bool) := (planOf s c ul n).filter fun p => !p.cSent && !p.checked
  if !jobServes s c || (ready false).isNone && (ready true).isNone then s
  else
    let dl := ready false
    let ul := ready true
    let s := dl.elim s fun p => sendSymbols s c (ccDl s c) p
    let s := ul.elim s fun p => sendSymbols s c (ccUl s c) p
    let s := ul.elim s fun p => (p.items.filter fun i => i.rejected = 0 && i.item.kind = 3).foldl
      (fun s i => sendC s c n 0 0 (prachSection p i.item)) s
    let s := updPlan (updPlan s c true n fun p => { p with cSent := true }) c false n fun p => { p with cSent := true }
    if late = 0 then s else s.bump (carrierBase c + 0xCC) late

def execCPlaneSend (c : Carrier) (slot : Word) (late : Nat) (s : State) : Host.Outcome State Fault Refusal :=
  .next (s.act fun s => cPlaneSend s c slot late)

/-! ### Compression and the downlink transmit window (R28, R275, R285) -/

/-- v / 2^x to the nearest integer, ties to even. -/
def shiftEven (v : Int) (x : Nat) : Int := roundShift v x 0 0

/-- The smallest exponent at which every part fits w bits. -/
def bfpExp (w : Nat) (l : List Int) : Nat :=
  ((List.range (17 - w)).find? fun x => l.all fun v =>
    -(2 ^ (w - 1) : Int) ≤ shiftEven v x && shiftEven v x ≤ 2 ^ (w - 1) - 1).getD (16 - w)

/-- A PRB of int16 parts coded for egress. -/
def codePrb (meth w : Nat) (l : List Int) : PrbData :=
  if meth = 1 then ⟨bfpExp w l, l.map fun v => shiftEven v (bfpExp w l)⟩ else ⟨0, l⟩

/-- The int16 parts of bytes. -/
def partsOf : List Byte → List Int
  | a :: b :: r => signed 16 (a.toNat + 256 * b.toNat) :: partsOf r
  | _ => []

/-- Symbol k of one stream read from region 1 and sent. -/
def sendStream (s : State) (c : Nat) (n : Word) (k a : Nat) : State :=
  let np := ccNprb s c
  let (bs, s) := memRead s (commonStore (symbolAt s c 1 (ccDl s c) n k a)) (48 * np) .fronthaul
  let s := s.charge (s.carrierRecord c) acFh (48 * np)
  let parts := partsOf bs
  let prbs := (List.range np).map fun i => codePrb (ccMeth s c 16) (ccWidth s c 16) ((parts.drop (24 * i)).take 24)
  let (q, s) := nextSeq s c (eaxcOf s c a)
  let hdr := if ccHdr s c 16 then some (ccMeth s c 16, ccWidth s c 16) else none
  countTx (s.send (.uPlane c n k a q hdr prbs)) c

/-- TB_STATUS of the DL items that symbol k touches, once each (R28, R369). -/
def dlAffected (s : State) (c : Nat) (p : Plan) (k : Nat) : State :=
  ((openItems p).filter fun (x, _) => x.item.symbols.testBit k).foldl (fun s (x, i) => answerItem s c p i x 4) s

/-- DL items whose first symbol is k and that are not encoded: STATUS 5 (R305), or 4 where the fetch of their payload
failed (R369, Table 13.4). -/
def dlUnencoded (s : State) (c : Nat) (p : Plan) (k : Nat) : State :=
  ((openItems p).filter fun (x, _) => x.item.symStart = k && !x.encoded).foldl
    (fun s (x, i) => answerItem s c p i x (if x.withheld then 4 else 5)) s

/-- Whether the ready tally of the RUNNING job shows symbol E_s complete, for a carrier that it serves (R251). -/
def dlReady (s : State) (c : Nat) : Bool :=
  match s.runningSlot.bind fun k => (readyTally s c k).map fun n => (k, n) with
  | some (k, n) => jobServes s c && expectedOf s c k + 1 ≤ (s.tally n).count
  | none => false

/-- The symbols of SYM_MASK below k have been processed. -/
def symbolsDone (p : Plan) (k : Nat) : Bool :=
  (List.range k).all fun i => !p.symMask.testBit i || p.windows.contains i

/-- Symbol k of plan p is the carrier's next in slot order: those before it in its slot, and those of every earlier slot
whose plan stands, have been processed (R285). -/
def transmitTurn (s : State) (c : Nat) (p : Plan) (k : Nat) : Bool :=
  symbolsDone p k && (s.carrier c).plans.all fun q => q.ul || q.checked || 0 ≤ (q.slot - p.slot).toInt || symbolsDone q 14

/-- DL_TRANSMIT_WINDOW of symbol k of slot n: sent, or R28; E_s moves on in either case. A tainted slot's symbol is not
sent (R369). Windows open in slot order, so that of a later symbol is none yet (R285). -/
def transmitWindow (s : State) (c : Nat) (n : Word) (k : Nat) : State :=
  match planOf s c false n with
  | none => s
  | some p =>
    if !p.symMask.testBit k || p.windows.contains k || p.checked || !transmitTurn s c p k then s
    else
      let s := updPlan s c false n fun p => { p with windows := p.windows ++ [k] }
      let s := dlUnencoded s c p k
      let p := (planOf s c false n).getD p
      let ready := dlReady s c
      let s :=
        if p.tainted then dlAffected s c p k
        else if ready then s.forEach (ccDl s c) fun s a => sendStream s c n k a
        else
          let s := raise (s.bump (carrierBase c + 0xC8) 1) eDeadlineMiss 6 c n.toNat (2 ^ 31 + 1)
          dlAffected s c p k
      match s.runningSlot with
      | some j => stepExpected s c j
      | none => s

def execDlTransmitWindow (c : Carrier) (slot : Word) (sym : Fin 14) (s : State) : Host.Outcome State Fault Refusal :=
  .next (s.actTogether fun s => transmitWindow s c slot sym)

end Sys2Proof.Machine
end

