-- ==== Sys2Proof/Machine/DecodeUnit.lean ====
section
/-! DEFINITION. DecodeUnit.lean: decode requests, LDPC and polar decoding, HARQ soft buffers, delivery, and the downlink
payloads and their encoding (R26, R27, R289–R301). -/

namespace Sys2Proof.Machine

/-! ### Request records (R289–R291, Table 10.5) -/

/-- Common-board offset of the record at region-3 index i. -/
def recordAt (s : State) (c i : Nat) : Nat := ccBufOff s c 3 + i % max 1 (ccBufSize s c 3 / 64) * 64

/-- A reserved field of a record is not 0. -/
def recordReserved (r : List Byte) : Bool :=
  field r 1 1 ≠ 0 || field r 0x13 1 ≠ 0 || field r 0x28 20 ≠ 0 || field r 0x3E 2 ≠ 0

/-- CB of a record; a record of KIND 1 or 2 has none. -/
def recordCb (r : List Byte) : Nat := if field r 0 1 = 0 then field r 0x10 2 else 0

/-- Whether a record's KIND suits its item: 0 a transport block, 1 a UCI item, 2 a measurement or PRACH (log
entry 45). -/
def kindMatches (kind item : Nat) : Bool :=
  kind = 0 && item = 0 || kind = 1 && item = 1 || kind = 2 && (item = 2 || item = 3)

/-- E of TS 38.212 for a record: of its code block, or all of a UCI item's coded bits. -/
def recordE (x : PlanItem) (cb : Nat) : Nat := if x.kind = 0 then ldpcParam x.params cb 5 else x.g

/-- The offset table of a record lies in the common board (R293). -/
def offsetsOk (r : List Byte) : Bool :=
  field r 0 1 ≠ 0 || field r 0x14 4 = 0xFFFF_FFFF || field r 0x14 4 + clamp 1 32 (field r 0x12 1) ≤ commonSize

/-- The plan, index and item a record names, when it is not to be discarded (R291). -/
def recordTarget (s : State) (c : Nat) (r : List Byte) : Option (Plan × Nat × ItemState) :=
  match planOf s c true (BitVec.ofNat 32 (field r 4 4)) with
  | none => none
  | some p =>
    match itemOf p (field r 2 2) with
    | none => none
    | some x =>
      let kind := field r 0 1
      let cb := recordCb r
      if recordReserved r || p.checked || !kindMatches kind x.item.kind || !offsetsOk r || x.taken.contains cb then none
      else if kind ≤ 1 ∧ (x.item.cbs ≤ cb ∨ field r 0xC 4 ≠ recordE x.item cb) then none
      else some (p, field r 2 2, x)

/-- RESULT and ITERS written into a record, then the DONE tally of its job (R291). -/
def finishRecord (s : State) (c k off result iters : Nat) : State :=
  let s := memWrite s (commonStore (off + 0x3C)) (natLE 1 result ++ natLE 1 iters) .decoder
  ledgerSignal s (doneTally s c k)

/-- MEASURE_REPORT of a record (R291, completion bodies). -/
def measureReport (s : State) (c : Nat) (p : Plan) (r : List Byte) : State :=
  cplPost s {
    ring := ccRing s c, code := 0x32, htag := p.htag,
    body := cplHead c (field r 0 1) (field r 2 2) p.slot ++
      [BitVec.ofNat 32 (field r 0x18 4), BitVec.ofNat 32 (field r 0x1C 4), BitVec.ofNat 32 (field r 0x20 4),
        BitVec.ofNat 32 (field r 0x24 4)] }

/-- The device counter, by the nominal rate, when the time of carrier c's base will be t. -/
def counterAt (s : State) (c : Nat) (t : Int) : Int := (s.counter.toNat : Int) + (t - s.timeOf (s.ccBase c)) * 5 / (4 * 2 ^ 16)

/-- The device counter at the deadline tick of a slot, by the nominal rate. -/
def deadlineAt (s : State) (c : Nat) (n : Word) : Nat :=
  (counterAt s c (slotStart s c (n + BitVec.ofNat 32 (ccTicks s c)))).toNat

/-- The deadline of a record, as the time bases and CC_DEADLINE stand: the tick of its slot, or of a burst's code block
the end of the following burst slot plus CC_ULWIN.CLOSE (R294, R324). -/
def jobDeadline (s : State) (d : DecodeJob) : Nat :=
  if d.kind = 3 then
    (counterAt s d.cc (slotStart s d.cc d.slot + (d.jobSlot + 2) * ((slotNs (s.ccMu d.cc) : Int) * 2 ^ 13) +
      ulClose s d.cc * windowUnit)).toNat
  else deadlineAt s d.cc d.slot

/-! ### Which record an engine takes (R294, R299) -/

/-- The order of waiting records: deadline, carrier, and the order in which they were taken. -/
def jobBefore (s : State) (a b : DecodeJob) : Bool :=
  let x := jobDeadline s a
  let y := jobDeadline s b
  x < y || x = y && (a.cc < b.cc || a.cc = b.cc && a.no < b.no)

/-- The kind of engine that a record needs: 0 LDPC, 1 polar. -/
def DecodeJob.engineKind (d : DecodeJob) : Nat := if d.kind = 3 then 0 else d.kind

/-- Whether block cb of an earlier slot's item on the same HARQ key may still be written back. -/
def writebackOpen (x : ItemState) (cb : Nat) : Bool :=
  cb < x.item.cbs && match x.blocks.find? (·.cb = cb) with
    | none => true
    | some b => b.pass && x.blocks.length < x.item.cbs

/-- A record whose soft buffer an earlier slot may still write waits (R299). -/
def mustWait (s : State) (d : DecodeJob) : Bool :=
  d.kind = 0 && match (planOf s d.cc true d.slot).bind fun p => itemOf p d.item with
    | none => false
    | some x => (s.carrier d.cc).plans.any fun p =>
        p.ul && !p.checked && (p.slot - d.slot).toInt < 0 && p.items.any fun y =>
          y.rejected = 0 && y.item.kind = 0 && y.item.harqKey = x.item.harqKey && writebackOpen y d.cb

/-- The waiting record that an engine of a kind serves next. -/
def nextJobOf (s : State) (kind : Nat) : Option DecodeJob :=
  (s.decodes.filter fun d => d.engineKind = kind && d.engine.isNone && !mustWait s d).foldl
    (fun best d => match best with
      | none => some d
      | some b => if jobBefore s d b then some d else some b) none

/-- Engine numbers of a kind in service: 8 LDPC engines without those taken out (R391), 2 polar engines. -/
def enginesOf (s : State) (kind : Nat) : List Nat :=
  if kind = 0 then (List.range 8).filter fun e => !s.integ.enginesOut.contains e else [0, 1]

/-- The record of a KIND that an engine e works on. -/
def jobOfEngine (s : State) (kind e : Nat) : Option DecodeJob :=
  s.decodes.find? fun d => d.kind = kind && d.engine = some e

/-- Whether engine e of a kind is at work. -/
def engineBusy (s : State) (kind e : Nat) : Bool := s.decodes.any fun d => d.engineKind = kind && d.engine = some e

/-- Each free engine of a kind takes the next waiting record. -/
def dispatchJobs (s : State) (kind : Nat) : State :=
  (enginesOf s kind).foldl (fun s e =>
    if engineBusy s kind e then s
    else match nextJobOf s kind with
      | none => s
      | some d => { s with decodes := s.decodes.map fun x => if x.no = d.no then { x with engine := some e } else x }) s

/-- Both kinds of engine supplied. -/
def dispatchAll (s : State) : State := dispatchJobs (dispatchJobs s 0) 1

/-- A taken record joins the waiting ones. -/
def queueRecord (s : State) (c k off i : Nat) (p : Plan) (r : List Byte) : State :=
  let d : DecodeJob := {
    cc := c, slot := p.slot, item := i, cb := recordCb r, kind := field r 0 1, record := off, llrOff := field r 8 4,
    e := field r 0xC 4, maxIter := clamp 1 32 (field r 0x12 1), offsOff := field r 0x14 4, jobSlot := k,
    no := s.decodeNo }
  dispatchAll { s with decodes := s.decodes ++ [d], decodeNo := s.decodeNo + 1 }

/-- DECODE_RECORD_TAKE of carrier c. -/
def takeRecord (s : State) (c : Nat) : State :=
  match s.runningSlot.bind fun k => (reqTally s c k).map fun n => (k, n) with
  | none => s
  | some (k, n) =>
    if s.ccLink c || (s.tally n).count ≤ takenOf s c k || ccBufSize s c 3 < 64 then s
    else
      let off := recordAt s c (takenOf s c k)
      let (r, s) := memRead s (commonStore off) 64 .decoder
      let s := stepTaken s c k
      match recordTarget s c r with
      | none => finishRecord (s.bump (carrierBase c + 0xD4) 1) c k off 3 0
      | some (p, i, _) =>
        let s := updItem s c true p.slot i fun x => { x with taken := x.taken ++ [recordCb r] }
        if field r 0 1 = 2 then finishRecord (measureReport s c p r) c k off 4 0
        else
          let s := if field r 0 1 = 0 ∧ recordCb r = 0 then measureReport s c p r else s
          queueRecord s c k off i p r

def execDecodeRecordTake (c : Carrier) (s : State) : Host.Outcome State Fault Refusal :=
  .next (s.act fun s => takeRecord s c)

/-! ### Layered offset min-sum (R292) -/

/-- Saturation of a posterior to 12 bits. -/
def sat12 (v : Int) : Int := clampInt (-2048) 2047 v

/-- Posteriors by variable, and messages by row × 4096 + lifted row, one for each edge. -/
structure LdpcState where
  post : Array Int
  msgs : Array (Array Int)

/-- The smallest magnitude and the sign (true: negative) of all elements but number i. -/
def othersOf (l : List Int) (i : Nat) : Nat × Bool :=
  let o := l.eraseIdx i
  (o.foldl (fun m v => min m v.natAbs) (l.foldl (fun m v => max m v.natAbs) 0), o.foldl (fun b v => xor b (decide (v < 0))) false)

/-- A check-to-variable message: max(m − β, 0), saturated to 255, with the sign of the others. -/
def checkMessage (beta : Nat) (l : List Int) (i : Nat) : Int :=
  let (m, neg) := othersOf l i
  let v : Nat := min 255 (m - beta)
  if neg then -(v : Int) else v

/-- One lifted row z of base-graph row r: its inputs without the row's own messages, the new messages, and the
posteriors they give. -/
def ldpcRow (c : LdpcCode) (beta r : Nat) (st : LdpcState) (z : Nat) : LdpcState :=
  let vars := (c.edges r).map fun (j, v) => j * c.zc + (z + v) % c.zc
  let old := st.msgs.getD (r * c.zc + z) #[]
  let inp := vars.mapIdx fun i x => st.post.getD x 0 - old.getD i 0
  let new := inp.mapIdx fun i _ => checkMessage beta inp i
  let post := (vars.zipIdx).foldl (fun p (x, i) => p.setIfInBounds x (sat12 (inp.getD i 0 + new.getD i 0))) st.post
  { post := post, msgs := st.msgs.setIfInBounds (r * c.zc + z) new.toArray }

/-- One iteration over rows 0 to y − 1. -/
def ldpcIteration (c : LdpcCode) (beta y : Nat) (st : LdpcState) : LdpcState :=
  (List.range y).foldl (fun st r => (List.range c.zc).foldl (ldpcRow c beta r) st) st

/-- The hard decision of a variable: 0 when its posterior is at least 0. -/
def LdpcState.bit (st : LdpcState) (x : Nat) : Bool := decide (st.post.getD x 0 < 0)

/-- The syndrome over rows 0 to y − 1 is zero. -/
def syndromeZero (c : LdpcCode) (y : Nat) (st : LdpcState) : Bool :=
  (List.range y).all fun r => (List.range c.zc).all fun z =>
    !((c.edges r).foldl (fun b (j, v) => xor b (st.bit (j * c.zc + (z + v) % c.zc))) false)

/-- Iterations from number i on, while fewer than `n` are done and the syndrome is not zero. -/
def ldpcLoop (c : LdpcCode) (beta : Nat → Nat) (y : Nat) : Nat → Nat → LdpcState → LdpcState × Nat
  | 0, i, st => (st, i)
  | n + 1, i, st =>
    let st := ldpcIteration c (beta i) y st
    if syndromeZero c y st then (st, i + 1) else ldpcLoop c beta y n (i + 1) st

/-- y: the rows up to that of the highest parity column with a combined LLR that is not 0, at least 4. -/
def rowsUsed (c : LdpcCode) (soft : List Int) : Nat :=
  let top := (soft.zipIdx.filter fun (v, _) => v ≠ 0).foldl (fun m (_, j) => max m ((j + 2 * c.zc) / c.zc)) 0
  clamp 4 c.rows (top + 1 - c.kb)

/-- A code block decoded from the circular buffer's combined LLRs, `info` of whose bits (`fill` of them filler, at +127)
are systematic: the systematic bits and the iterations performed. -/
def ldpcDecode (c : LdpcCode) (beta : Nat → Nat) (maxIter k fill : Nat) (soft : List Int) : List Bool × Nat :=
  let y := rowsUsed c soft
  let llr := soft.toArray
  let init (x : Nat) : Int :=
    if k - fill ≤ x ∧ x < k then 4 * 127 else if x < 2 * c.zc then 0 else 4 * llr.getD (x - 2 * c.zc) 0
  let post := ((List.range (c.cols * c.zc)).map init).toArray
  let msgs := (List.replicate (c.rows * c.zc) (#[] : Array Int)).toArray
  let (st, n) := ldpcLoop c beta y maxIter 0 { post := post, msgs := msgs }
  ((List.range k).map st.bit, n)

/-! ### HARQ combining (R296, R297) -/

/-- Saturation of a combined LLR to −127–127. -/
def sat8 (v : Int) : Int := clampInt (-127) 127 v

/-- Bytes of one code block of a soft buffer, and where block cb starts (R296). -/
def softBytes (ncb : Nat) : Nat := (ncb + 63) / 64 * 64
def softAt (x : PlanItem) (ncb cb : Nat) : Nat := x.softbuf + cb * softBytes ncb

/-- The int8 values of bytes. -/
def int8s (l : List Byte) : List Int := l.map (·.toInt)

/-- Received LLRs at each circular-buffer position: those of one position are added. -/
def receivedAt (pos : Nat → Nat) (ncb : Nat) (l : List Int) : List Int :=
  let a := (l.zipIdx).foldl (fun (a : Array Int) (v, e) => a.modify (pos e) (· + v)) (List.replicate ncb (0 : Int)).toArray
  a.toList

/-- Whether [off, off+n) lies in the common board and off is on a 64-byte boundary. -/
def llrsOk (off n : Nat) : Bool := off % 64 = 0 && off + n ≤ commonSize

/-- The LLRs of a record; where LLR_OFF is not one the manual allows, what is read is a free value (log entry 3). -/
def readLlrs (s : State) (d : DecodeJob) : List Int × State :=
  if llrsOk d.llrOff d.e then
    let (l, s) := dataRead s (commonStore d.llrOff) d.e .decoder
    (int8s l, s)
  else (int8s (s.freeBytes d.e), s.drawFree d.e)

/-- β of every iteration of a record (R293). -/
def readOffsets (s : State) (d : DecodeJob) : (Nat → Nat) × State :=
  if d.offsOff = 0xFFFF_FFFF then (fun _ => s.fld (carrierBase d.cc + 0x24) 7 0, s)
  else
    let (l, s) := dataRead s (commonStore d.offsOff) d.maxIter .decoder
    (fun i => (l.getD i 0).toNat, s)

/-- Stored values of block cb's soft buffer: 0 for a new transmission and for a key found empty (R297, R298). A word
that cannot be corrected taints the item and empties its key (Table 13.4). -/
def readSoft (s : State) (d : DecodeJob) (x : ItemState) (ncb : Nat) : List Int × State :=
  if x.item.isNew || x.softEmpty then (List.replicate ncb 0, s)
  else
    let a := softAt x.item ncb d.cb
    let bad := (eccTouched s a ncb).any fun w => s.eccOf w = 2
    let (l, s) := memRead s a ncb .decoder
    let s := if bad then
        (updItem s d.cc true d.slot d.item fun x => { x with withheld := true }).setHarqKey d.cc x.item.harqKey none
      else s
    (int8s l, s)

/-- Combined values of a block written back (R297). -/
def writeSoft (s : State) (x : PlanItem) (b : BlockResult) : State :=
  memWrite s (softAt x b.soft.length b.cb) (b.soft.map fun v => BitVec.ofInt 8 v) .decoder

/-! ### The outcome of an item (R26, R300) -/

/-- Payload and CRC bits of a transport block: the bits of its code blocks without their CRC24B (R292). -/
def blockBits (x : ItemState) : List Bool :=
  let l := (List.range x.item.cbs).map fun c => match x.blocks.find? (·.cb = c) with
    | some b => b.bits
    | none => []
  if x.item.cbs = 1 then l.flatten else (l.map fun b => b.take (b.length - 24)).flatten

/-- CRC24A of the transport block holds. -/
def tbCrcOk (x : ItemState) : Bool := crc24a (blockBits x) = 0

/-- Every code block of an item is finished. -/
def allBlocks (x : ItemState) : Bool := x.item.cbs ≤ x.blocks.length

/-- The item is decoded: every CRC of the block passed (R26). -/
def itemDecoded (x : ItemState) : Bool :=
  allBlocks x && x.blocks.all (·.pass) && (x.item.kind ≠ 0 || x.item.cbs = 1 || tbCrcOk x)

/-- The payload bytes of a decoded item (R300). -/
def payloadOf (x : ItemState) : List Byte := bytesMsb x.item.bytes ((blockBits x).take x.item.tbs)

/-- After a block: when all are done, a block whose CRC24A alone fails is written back whole, and an item that is not
decoded gets its TB_STATUS, STATUS 2 in a tainted slot (R297, R300, R369). A decoded item waits for TB_DELIVER. -/
def itemOutcome (s : State) (c : Nat) (n : Word) (i : Nat) : State :=
  match (planOf s c true n).bind fun p => (itemOf p i).map fun x => (p, x) with
  | none => s
  | some (p, x) =>
    if !allBlocks x then s
    else
      let crcOnly := x.item.kind = 0 && x.blocks.all (·.pass) && !itemDecoded x
      let s := if crcOnly then x.blocks.foldl (fun s b => writeSoft s x.item b) s else s
      if p.checked || x.answered || itemDecoded x then s
      else answerItem s c p i x (if p.tainted || x.withheld then 2 else 0)

/-- A record leaves the decode unit with its result. -/
def endRecord (s : State) (d : DecodeJob) (b : BlockResult) : State :=
  let s := { s with decodes := s.decodes.filter (·.no ≠ d.no) }
  let s := updItem s d.cc true d.slot d.item fun x => { x with blocks := x.blocks ++ [b] }
  let s := finishRecord s d.cc d.jobSlot d.record (if b.pass then 1 else 2) b.iters
  let s := itemOutcome s d.cc d.slot d.item
  dispatchAll (dropPlans s d.cc)

/-- LDPC_DECODE_DONE of engine e (R292–R297): the lengths come from TS 38.212 (`ldpcParam`, log entry 7). -/
def ldpcDone (s : State) (e : Nat) : State :=
  match jobOfEngine s 0 e with
  | none => s
  | some d =>
    match (planOf s d.cc true d.slot).bind fun p => itemOf p d.item with
    | none => s
    | some x =>
      let par := ldpcParam x.item.params d.cb
      let ncb := par 4
      let (llrs, s) := readLlrs s d
      let (beta, s) := readOffsets s d
      let (stored, s) := readSoft s d x ncb
      let recv := receivedAt (rateRecover x.item.params d.cb) ncb llrs
      let soft := (List.range ncb).map fun j => sat8 (stored.getD j 0 + recv.getD j 0)
      let (bits, n) := ldpcDecode { bg2 := x.item.bg2, zc := par 1 } beta d.maxIter (par 2) (par 3) soft
      let bits := bits.take (par 2 - par 3)
      let pass := if x.item.cbs = 1 then crc24a bits = 0 else crc24b bits = 0
      let b : BlockResult := { cb := d.cb, pass := pass, iters := n, bits := bits, soft := soft }
      let s := if pass then s else writeSoft s x.item b
      endRecord s d b

def execLdpcDecodeDone (e : Fin 8) (s : State) : Host.Outcome State Fault Refusal := .next (s.act fun s => ldpcDone s e)

/-- POLAR_DECODE_DONE of engine e (R295): list decoding of the codeword (`polarDecode`, log entry 7). -/
def polarDone (s : State) (e : Nat) : State :=
  match jobOfEngine s 1 e with
  | none => s
  | some d =>
    match (planOf s d.cc true d.slot).bind fun p => itemOf p d.item with
    | none => s
    | some x =>
      let (llrs, s) := readLlrs s d
      let (bits, pass) := polarDecode x.item.tbs d.e llrs
      endRecord s d { cb := 0, pass := pass, iters := 0, bits := bits.take x.item.tbs, soft := [] }

def execPolarDecodeDone (e : Fin 2) (s : State) : Host.Outcome State Fault Refusal :=
  .next (s.act fun s => polarDone s e)

/-! ### Delivery (R26, R27, R300) -/

/-- TB_DELIVER of a decoded item. -/
def deliverEntry (s : State) (c : Nat) (p : Plan) (i : Nat) (x : ItemState) : State :=
  let s := markAnswered s c true p.slot i
  cplPost s {
    ring := ccRing s c, code := 0x30, htag := p.htag,
    body := cplHead c x.item.kind i p.slot ++
      [BitVec.ofNat 32 x.item.bytes,
        BitVec.ofNat 32 (maxIters x % 256 + b2n x.softEmpty * 2 ^ 8 + b2n x.item.isNew * 2 ^ 9),
        loWord x.item.cookie, hiWord x.item.cookie] }

/-- A central engine's access fails while Mequel moves a payload: logged, and the item withheld (R370, Table 13.4). The
manual names no engine or channel for it; engine 16, channel 0 stand for them (log entry 46). -/
def payloadFailed (s : State) (c : Nat) (ul : Bool) (n : Word) (i addr : Nat) : State :=
  let s := updItem s c ul n i fun x => { x with withheld := true }
  raise s eSlideBus 3 16 (2 ^ 6 + addr / 2 ^ 32 % 2 ^ 16 * 2 ^ 16) (addr % 2 ^ 32)

/-- TB_DELIVER of item i of slot n: the payload into the host buffer, then the entry; a tainted slot's block, or one
whose delivery failed, is withheld with STATUS 2 (R26, R369). -/
def tbDeliver (s : State) (c : Nat) (n : Word) (i : Nat) (ok : Bool) : State :=
  match (planOf s c true n).bind fun p => (itemOf p i).map fun x => (p, x) with
  | none => s
  | some (p, x) =>
    if p.checked || x.answered || !itemDecoded x || x.item.kind > 1 then s
    else if p.tainted || x.withheld then answerItem s c p i x 2
    else if !ok then answerItem (payloadFailed s c true n i (hostStore x.item.payload)) c p i x 2
    else
      let s := s.writeBytes (hostStore x.item.payload) (payloadOf x)
      let r := s.carrierRecord c
      deliverEntry ((s.charge r acHbm x.item.bytes).charge r acPcie x.item.bytes) c p i x

def execTbDeliver (c : Carrier) (slot : Word) (item : Nat) (ok : Bool) (s : State) : Host.Outcome State Fault Refusal :=
  .next (s.actTogether fun s => tbDeliver s c slot item ok)

/-! ### Downlink payloads and encoding (R301) -/

/-- DL_PAYLOAD_FETCH of item i of slot n, TBS / 8 bytes from the host. -/
def payloadFetch (s : State) (c : Nat) (n : Word) (i : Nat) (ok : Bool) : State :=
  match (planOf s c false n).bind fun p => (itemOf p i).map fun x => (p, x) with
  | none => s
  | some (p, x) =>
    if p.checked || x.fetched.isSome || x.withheld then s
    else if !ok then payloadFailed s c false n i (hostStore x.item.payload)
    else
      let r := s.carrierRecord c
      let l := s.readBytes (hostStore x.item.payload) (x.item.tbs / 8)
      let s := (s.charge r acPcie l.length).charge r acHbm l.length
      updItem s c false n i fun x => { x with fetched := some l }

def execDlPayloadFetch (c : Carrier) (slot : Word) (item : Nat) (ok : Bool) (s : State) :
    Host.Outcome State Fault Refusal :=
  .next (s.act fun s => payloadFetch s c slot item ok)

/-- Whether every item before i that is still to be encoded has been (R301: items are encoded in plan order). -/
def earlierEncoded (p : Plan) (i : Nat) : Bool :=
  (p.items.take i).all fun x => x.rejected ≠ 0 || x.encoded || x.withheld

/-- ENCODE_ITEM of item i of slot n: f_(8b+i) in bit i of byte b of region 4 at CODED_OFF, then the ENC tally of the
RUNNING job. The coding is TS 38.212's (`dlCoded`, log entry 7). -/
def encodeItem (s : State) (c : Nat) (n : Word) (i : Nat) : State :=
  match (planOf s c false n).bind fun p => (itemOf p i).map fun x => (p, x) with
  | none => s
  | some (p, x) =>
    match x.fetched with
    | none => s
    | some l =>
      if p.checked || x.encoded || !earlierEncoded p i then s
      else
        let f := dlCoded x.item.params (bitsMsb l)
        let s := memWrite s (commonStore (ccBufOff s c 4 + x.item.softbuf % 2 ^ 32)) (bytesOfBits ((x.item.g + 7) / 8) f) .decoder
        let s := updItem s c false n i fun x => { x with encoded := true }
        ledgerSignal s (s.runningSlot.bind fun k => encTally s c k)

def execEncodeItem (c : Carrier) (slot : Word) (item : Nat) (s : State) : Host.Outcome State Fault Refusal :=
  .next (s.act fun s => encodeItem s c slot item)

end Sys2Proof.Machine
end

