-- ==== Sys2Proof/Machine/Proofs.lean ====
section
/-! DEFINITION. Proofs.lean: proof sets and proof patterns (R386–R391).

The work of a proof on its tile stands in the event that completes it, like that of a pass (log entry 21). -/

namespace Sys2Proof.Machine

/-! ### The state of a carrier's proof -/

def State.proof (s : State) (c : Nat) : ProofState := tget (fun _ => {}) s.integ.proofs c
def State.setProof (s : State) (c : Nat) (v : ProofState) : State :=
  s.onInteg fun g => { g with proofs := tset (fun _ => {}) g.proofs c v }

/-- IG_PROOFc_STATUS. -/
def proofStatus (c : Nat) : Nat := igBase + 0x20C + 0x10 * c

/-- Bytes of a proof area (Table 17.2). -/
def proofSize : Nat := 0x4_0000

/-- The physical tile of rotation number i: logical tiles 0–15, then the spare (R388). -/
def proofTile (s : State) (i : Nat) : Option Nat := if i < 16 then some (s.physOf i) else s.spare

/-! ### Installing a set (R386) -/

/-- Bytes of a header that no field of Table 13.7 names. -/
def proofReserved (l : List Byte) : Bool :=
  field l 0x0E 2 ≠ 0 || field l 0x1C 4 ≠ 0 || field l 0x30 16 ≠ 0

/-- Header fields, steps and data of a set lie before its SIG section, and its steps are of the types of Table 13.8. -/
def proofFormOk (l : List Byte) (signed : Nat) : Bool :=
  let steps := field l 0x0C 2
  bytesAt l 0 4 = [0x41, 0x51, 0x50, 0x46] && field l 4 2 = 1 && !proofReserved l && 1 ≤ steps && steps ≤ 1024 &&
    0x40 + 80 * steps ≤ signed && field l 0x14 4 ≤ proofSize && field l 0x10 4 + field l 0x14 4 ≤ signed &&
    field l 0x28 4 + field l 0x2C 4 ≤ proofSize &&
    (List.range steps).all fun i => field l (0x40 + 80 * i) 1 ≤ 3

/-- The set suits the carrier's configuration. -/
def proofSuits (s : State) (c : Nat) (l : List Byte) : Bool :=
  field l 6 1 = s.ccMu c && field l 7 1 = ccUl s c && field l 8 2 = ccNprb s c &&
    field l 0xA 2 = s.fld (carrierBase c + 0x1C) 3 0 + s.fld (carrierBase c + 0x1C) 11 8 * 2 ^ 8

/-- The set at an HBM address may be used: placed as Table 13.11 asks, well formed, signed as R45 and R46 prescribe, and
made for this carrier. -/
def proofOk (s : State) (c a n : Nat) : Bool :=
  let rd (i : Nat) : Byte := s.byte (a + i)
  a % 4096 = 0 && n ≤ 0x10_0000 && inUserHbm a n && 0x800 + 0x40 ≤ n && (signatureFault rd (n - 0x800) s.sec.keys).isNone &&
    proofFormOk (s.readBytes a n) (n - 0x800) && proofSuits s c (s.readBytes a n)

/-- A committed IG_PROOFc_ADDR and SIZE acted on: the set verified and copied, or BAD; SIZE 0 removes it. -/
def installProof (s : State) (c : Nat) : State :=
  let o := igBase + 0x200 + 0x10 * c
  let a := s.reg64 o
  let n := (s.reg (o + 8)).toNat
  let ok := 0 < n && proofOk s c a n
  let s := if a % 4096 = 0 && n ≤ 0x10_0000 && inUserHbm a n then (memRead s a n .ledger).2 else s
  let s := s.setProof c { s.proof c with loaded := if ok then s.readBytes a n else [], running := none, repeats := [] }
  ((s.setFld (proofStatus c) 8 8 (b2n ok)).setFld (proofStatus c) 9 9 (b2n (0 < n && !ok))).setFld (proofStatus c) 10 10 0

/-! ### Deferrals and abandonment (R389, R390) -/

/-- A deferral of carrier c counted; the one that reaches DEFER_LIMIT is logged. -/
def proofDeferred (s : State) (c : Nat) : State :=
  let n := s.fld (proofStatus c) 7 0
  if 255 ≤ n then s
  else
    let s := s.setFld (proofStatus c) 7 0 (n + 1)
    if n + 1 = s.fld (igBase + 0xC) 7 0 then raise s eProofDeferred 6 c (n + 1) 0 else s

/-- The proof of carrier c runs no more, and Mequel's lease for it is freed (R248). -/
def proofEnds (s : State) (c : Nat) : State :=
  freeLeases (s.setProof c { s.proof c with running := none }) fun l => l.proof = some c

/-- The running proof of carrier c abandoned: nothing of it is kept. -/
def abandonProof (s : State) (c : Nat) : State :=
  if (s.proof c).running.isNone then s
  else proofDeferred ((proofEnds s c).bump (igBase + 0x414) 1) c

def execProofAbandon (c : Carrier) (s : State) : Host.Outcome State Fault Refusal :=
  .next (s.act fun s => abandonProof s c)

/-- Every proof that runs on physical tile p abandoned. -/
def abandonOn (s : State) (p : Nat) : State :=
  s.forEach 24 fun s c => match (s.proof c).running with
    | some (q, _) => if q = p then abandonProof s c else s
    | none => s

/-! ### Starting (R388) -/

/-- Whether physical tile p is idle for a proof: an active tile's core IDLE or in TWAIT, its array, Quick Sum and rod
queues empty and no pass in flight; the spare, no other proof on it. -/
def proofIdle (s : State) (p : Nat) : Bool :=
  match logicalOf s p with
  | some t =>
    let k := s.core t
    (k.status = .idle || k.status = .stall && k.waitOn.isSome) && k.arrayQ.isEmpty && k.rodQ.isEmpty &&
      (s.array t).passes.isEmpty && (s.array t).quickSum.isEmpty
  | none => s.roleOf p = 1

/-- Physical tile p has stayed idle since the last beat ended. -/
def proofQuiet (s : State) (p : Nat) : Bool := proofIdle s p && (logicalOf s p).all fun t => !(s.core t).stirred

/-- No other carrier's proof runs on physical tile p. -/
def proofAlone (s : State) (c p : Nat) : Bool :=
  (List.range 24).all fun d => d = c || (s.proof d).running.all fun r => r.1 ≠ p

/-- Scheduled symbols of carrier c that end after now: their start and end, in units of 2^−16 ns of its base. -/
def busySymbols (s : State) (c : Nat) : List (Int × Int) :=
  let now : Int := s.timeOf (s.ccBase c)
  (s.carrier c).plans.flatMap fun p => (List.range 14).filterMap fun k =>
    let a := slotStart s c p.slot + symbolOffset (s.ccMu c) p.slot k
    let b := if k = 13 then slotStart s c (p.slot + 1) else slotStart s c p.slot + symbolOffset (s.ccMu c) p.slot (k + 1)
    if p.symMask.testBit k && now < b then some (a, b) else none

/-- Whether now lies in blanking of carrier c that lasts at least n beats, as the accepted plans show. -/
def blankFor (s : State) (c n : Nat) : Bool :=
  let now : Int := s.timeOf (s.ccBase c)
  (busySymbols s c).all fun x => now < x.1 && (n : Int) * 4 * 2 ^ 16 ≤ (x.1 - now) * 5

/-- The next tile of carrier c's rotation and the next decode engine, a place that no tile fills passed over, and what
to do after a mismatch (R391): the same tile with another engine, then another tile with the first engine. -/
def proofPlace (s : State) (c : Nat) : Option (Nat × Nat) :=
  let engines := enginesOf s 0
  let nextEngine (not : Nat) : Option Nat :=
    ((List.range 8).map fun i => ((s.proof c).nextEngine + i) % 8).find? fun e => engines.contains e && e ≠ not
  let nextTile (not : Option Nat) : Option Nat :=
    (((List.range 17).map fun i => ((s.proof c).nextTile + i) % 17).filterMap (proofTile s)).find? fun p => some p ≠ not
  match (s.proof c).repeats with
  | [] => (nextTile none).bind fun p => (nextEngine 8).map fun e => (p, e)
  | [(p, e, _)] => (nextEngine e).map fun x => (p, x)
  | (p, e, _) :: _ => (nextTile (some p)).map fun q => (q, e)

/-- Carrier c's rotations moved on past physical tile p and engine e. -/
def rotateProof (s : State) (c p e : Nat) : State :=
  let i := ((List.range 17).find? fun i => proofTile s i = some p).getD 0
  s.setProof c { s.proof c with nextTile := (i + 1) % 17, nextEngine := (e + 1) % 8 }

/-- PROOF_START of carrier c, in blanking: a proof that is due starts, or is deferred when its tile is not idle or the
blanking is too short (R388, R390). -/
def proofStart (s : State) (c : Nat) : State :=
  let x := s.proof c
  if !s.flag igBase 1 || x.loaded.isEmpty || x.running.isSome || !s.ccLive c || s.ccLink c ||
      x.slotsSince < s.fld (igBase + 0xC) 23 8 || !blankFor s c 0 then s
  else match proofPlace s c with
    | none => proofDeferred s c
    | some (p, e) =>
      if s.flag 0x4_0020 9 || !blankFor s c (field x.loaded 0x18 4) || !proofIdle s p || !proofAlone s c p then
        proofDeferred s c
      else
        let s := takeLease (s.setProof c { x with running := some (p, e) }) { deadline := 0, proof := some c }
        let s := rotateProof s c p e
        let s := match logicalOf s p with
          | some t => s.setCore t { s.core t with stirred := false }
          | none => s
        s.writeBytes (physStore p proofArea) (bytesAt x.loaded (field x.loaded 0x10 4) (field x.loaded 0x14 4))

def execProofStart (c : Carrier) (s : State) : Host.Outcome State Fault Refusal :=
  .next (s.act fun s => proofStart s c)

/-! ### The steps of a proof (Table 13.8) -/

/-- The number by which a proof's work names its tile: one beside the logical tiles. -/
def proofUnit : Nat := 16

/-- A state in which unit 16 works on the proof area of physical tile p as its board, with an empty array. -/
def proofBench (s : State) (p : Nat) : State :=
  let s := s.copyRegion (physStore p proofArea) (physStore 32 0) proofSize
  s.onInteg fun g => { g with physOf := tset (fun i => i) g.physOf proofUnit 32 }

/-- Type 0: each section through the decompressor, its samples in the layout of R281 from the destination on. -/
def proofInject (s : State) (c : Nat) (step set : List Byte) : State :=
  let one (x : State × Nat) (_ : Nat) : State × Nat :=
    let n := field set x.2 2
    let l := Config.proofSection (ccNprb s c) (ccMeth s c 0) (ccWidth s c 0) (bytesAt set (x.2 + 2) n)
    (l.foldl (fun s b => s.setByte (physStore 32 (field step 7 4 + b.1)) b.2) x.1, x.2 + 2 + n)
  ((List.range (field step 5 2)).foldl one (s, field step 1 4)).1

/-- Type 1: one array pass with its partition mode. -/
def proofPass (s : State) (step : List Byte) : State :=
  let s := s.setReg (baBase proofUnit) (BitVec.ofNat 32 (field step 1 1 % 4))
  let d := passDesc (bytesAt step 16 64)
  drainPass s proofUnit 0 d .none (passCarries s proofUnit d .none) (some Config.proofKey)

/-- Type 2: one MATVEC. -/
def proofMatvec (s : State) (step : List Byte) : State :=
  let d := qsDesc (bytesAt step 16 64)
  let vec := s.readBytes (s.boardStore proofUnit d.xAddr) (spanBytes d.optype d.k)
  qsWrite s proofUnit 32 d .none (qsCarries s proofUnit vec d .none) (some Config.proofKey)

/-- Type 3: one record decoded as NEW = 1 without soft buffer: its payload bytes and RESULT (log entry 51). -/
def proofDecode (s : State) (c : Nat) (step : List Byte) : List Byte :=
  let r := bytesAt step 16 64
  let flags := field step 9 1
  let bg2 := flags.testBit 0
  let params := [b2n bg2, field step 1 4, field step 5 4, field step 11 1, field step 10 1, field step 12 1, b2n (flags.testBit 1)]
  let llrs := int8s (s.readBytes (s.boardStore proofUnit (field r 8 4)) (field r 0xC 4))
  if field r 0 1 = 1 then
    let (bits, pass) := polarDecode (field step 1 4) (field r 0xC 4) llrs
    bytesMsb ((field step 1 4 + 7) / 8) (bits.take (field step 1 4)) ++ natLE 1 (if pass then 1 else 2)
  else
    let cb := recordCb r
    let par := ldpcParam params cb
    let offs := field r 0x14 4
    let beta (i : Nat) : Nat :=
      if offs = 0xFFFF_FFFF then s.fld (carrierBase c + 0x24) 7 0
      else (s.byte (s.boardStore proofUnit (offs + i))).toNat
    let soft := (receivedAt (rateRecover params cb) (par 4) llrs).map sat8
    let (bits, _) := ldpcDecode { bg2 := bg2, zc := par 1 } beta (clamp 1 32 (field r 0x12 1)) (par 2) (par 3) soft
    let bits := bits.take (par 2 - par 3)
    let pass := if max 1 (par 0) = 1 then crc24a bits = 0 else crc24b bits = 0
    bytesMsb ((bits.length - 24) / 8) (bits.take (bits.length - 24)) ++ natLE 1 (if pass then 1 else 2)

/-- One step on the bench, and what it adds to the signed bytes. -/
def proofStep (c : Nat) (set : List Byte) (x : State × List Byte) (i : Nat) : State × List Byte :=
  let step := bytesAt set (0x40 + 80 * i) 80
  match field step 0 1 with
  | 0 => (proofInject x.1 c step set, x.2)
  | 1 => (proofPass x.1 step, x.2)
  | 2 => (proofMatvec x.1 step, x.2)
  | _ => (x.1, x.2 ++ proofDecode x.1 c step)

/-- Every step of a set run on the proof area of physical tile p without a fault: the area's bytes after it, and the
signature (R387). -/
def runProof (s : State) (c p : Nat) (set : List Byte) : List Byte × Nat :=
  let b := proofBench s p
  let (b, decoded) := (List.range (field set 0x0C 2)).foldl (proofStep c set) (b, [])
  let area := b.readBytes (physStore 32 0) proofSize
  (area, crc64 (bytesAt area (field set 0x28 4) (field set 0x2C 4) ++ decoded))

/-! ### The outcome (R387, R391) -/

/-- What the three proofs after a mismatch tell: level 3 on the tile, or an engine taken out of service. -/
def proofJudge (s : State) (l : List (Nat × Nat × Bool)) : State :=
  match l with
  | [(p, e, _), (_, _, second), (_, _, third)] =>
    if !second && third then
      if s.roleOf p = 0 then s.onInteg fun g => { g with swapDue := g.swapDue.filter (· ≠ p) ++ [p] }
      else s.onInteg fun g => { g with role := tset (fun p => if p = 16 then 1 else 0) g.role p 2 }
    else if second && !third then
      dispatchAll (s.onInteg fun g => { g with enginesOut := g.enginesOut.filter (· ≠ e) ++ [e] })
    else s
  | _ => s

/-- A mismatch, or a repeat after one, recorded; after the third proof the outcome is drawn. -/
def proofRecord (s : State) (c p e : Nat) (pass : Bool) : State :=
  let l := (s.proof c).repeats ++ [(p, e, pass)]
  if l.length < 3 then (s.setProof c { s.proof c with repeats := l }).setFld (proofStatus c) 10 10 1
  else proofJudge ((s.setProof c { s.proof c with repeats := [] }).setFld (proofStatus c) 10 10 0) l

/-- Proofs whose tile has taken up work are abandoned (R389): its TWAIT has completed or its core has issued a command. -/
def proofsYield (s : State) : State :=
  let s := s.forEach 24 fun s c => match (s.proof c).running with
    | some (p, _) => if proofQuiet s p then s else abandonProof s c
    | none => s
  s.forEach 16 fun s t => if (s.core t).stirred then s.setCore t { s.core t with stirred := false } else s

/-- The set of carrier c has an inject step (Table 13.8). -/
def injects (s : State) (c : Nat) : Bool :=
  let set := (s.proof c).loaded
  (List.range (field set 0x0C 2)).any fun i => field (bytesAt set (0x40 + 80 * i) 80) 0 1 = 0

/-- A real section has arrived on link l: the proof of a carrier of the link is abandoned if an inject step of it runs
(R389). The manual times no step of a proof, so that which one runs is free (log entry 103). -/
def injectYield (s : State) (l : Nat) : State :=
  s.forEach 24 fun s c =>
    if (s.proof c).running.isNone || ccLinkNo s c ≠ l || !injects s c then s
    else if s.freeChoice then abandonProof s.drawFree c else s.drawFree

/-- PROOF_COMPLETE of carrier c: `fault` is what an error of the tile or engine changes in the signature. A tile that has
taken up work meanwhile has abandoned the proof. -/
def proofComplete (s : State) (c : Nat) (fault : DWord) : State :=
  let x := s.proof c
  match x.running with
  | none => s
  | some (p, e) =>
    if !proofQuiet s p || s.flag 0x4_0020 9 then abandonProof s c
    else
      let (area, sig) := runProof s c p x.loaded
      let sig := sig ^^^ fault.toNat
      let s := s.writeBytes (physStore p proofArea) area
      let s := proofEnds (s.setProof c { x with slotsSince := 0 }) c
      let s := (s.setFld (proofStatus c) 7 0 0).setFld (proofStatus c) 31 16 (s.fld (proofStatus c) 31 16 + 1)
      let pass := sig = field x.loaded 0x20 8
      let s := if pass then s else raise s eProofMismatch 6 c (p + e * 2 ^ 8) (sig % 2 ^ 32)
      if pass && x.repeats.isEmpty then s else proofRecord s c p e pass

def execProofComplete (c : Carrier) (fault : DWord) (s : State) : Host.Outcome State Fault Refusal :=
  .next (s.act fun s => proofComplete s c fault)

end Sys2Proof.Machine
end

