-- ==== Sys2Proof/Machine/Bist.lean ====
section
/-! DEFINITION. Bist.lean: consuming the error log (R359, R361) and the self-test of a physical tile (R384,
Table 13.12). -/

namespace Sys2Proof.Machine

/-! ### Consuming the log (R359, R361) -/

/-- ERRLOG_CONS written: entries between are consumed, and one held ERRLOG_OVERFLOW entry is entered for each. -/
def consWrite (s : State) (v : Word) : State :=
  let n := (v - s.reg 0x1004).toNat
  if validEntries s < n then s
  else
    let s := s.setReg 0x1004 v
    let now := s.integ.overflow.take n
    now.foldl enterLog (s.onInteg fun g => { g with overflow := g.overflow.drop n })

def execErrlogConsWrite (val : Word) (s : State) : Host.Outcome State Fault Refusal :=
  .next (s.written .pcie fun s => consWrite s val)

/-! ### Self-test (R384, Table 13.12) -/

/-- Self-test of physical tile p begins: DONE clears. -/
def bistBegin (s : State) (p : Nat) : State :=
  let s := s.setFld (physBase p + 8) 1 1 0
  if s.integ.bist.any (·.1 = p) then s
  else s.onInteg fun g => { g with bist := g.bist ++ [(p, false)] }

/-- PT_BIST written: START is of class K, idle while the tile is the spare or quarantined. -/
def bistStart (s : State) (p : Nat) (v : Word) : State :=
  if !bit v 0 then s
  else if s.roleOf p = 0 then raise s eLockedWrite 2 p (physBase p + 8) v.toNat
  else bistBegin s p

def execBistStart (p : PhysTile) (val : Word) (s : State) : Host.Outcome State Fault Refusal :=
  .next (s.written .pcie fun s => bistStart s p val)

/-- The spare row of a half: 16, and 33 of the lower one (R131). -/
def spareRow (lower : Bool) : Nat := if lower then 33 else 16

/-- Whether the spare row of a half of physical tile p is used, or treated so (R384). -/
def spareUsed (s : State) (p : Nat) (lower : Bool) : Bool :=
  retired s p lower || tget (fun _ => false) s.integ.badSpareRow (2 * p + b2n lower)

/-- Failing rows of a half. -/
def halfFails (rows : List Nat) (lower : Bool) : List Nat := (rows.filter fun r => (17 ≤ r : Bool) = lower).eraseDups

/-- Whether a half can serve: no failing row, or one failing row and its spare row unused. -/
def halfServes (s : State) (p : Nat) (rows : List Nat) (lower : Bool) : Bool :=
  match halfFails rows lower with
  | [] => true
  | [_] => !spareUsed s p lower
  | _ => false

/-- A half repaired: its failing row retired, or its failing spare row noted. -/
def repairHalf (s : State) (p : Nat) (rows : List Nat) (lower : Bool) : State :=
  match halfFails rows lower with
  | [r] =>
    if r = spareRow lower then
      s.onInteg fun g => { g with badSpareRow := tset (fun _ => false) g.badSpareRow (2 * p + b2n lower) true }
    else if lower then (s.setFld (physBase p) 13 8 r).setFld (physBase p + 4) 13 8 r
    else (s.setFld (physBase p) 4 0 r).setFld (physBase p + 4) 4 0 r
  | _ => s

/-- What Mequel does with the tile it has tested after a swap: the spare, repaired where need be, or still quarantined. A
half whose spare row fails serves only when the other half passes or is repaired by retiring a row. -/
def bistAct (s : State) (p : Nat) (rows : List Nat) (boardFail : Bool) : State :=
  let spareOnly (lower : Bool) : Bool := halfFails rows lower = [spareRow lower]
  if boardFail || !halfServes s p rows false || !halfServes s p rows true || spareOnly false && spareOnly true
      || s.spare.isSome then s
  else
    let s := repairHalf (repairHalf s p rows false) p rows true
    s.onInteg fun g => { g with role := tset (fun p => if p = 16 then 1 else 0) g.role p 1 }

/-- BIST_DONE of physical tile p: its failing rows and whether a bank failed. -/
def bistDone (s : State) (p : Nat) (rows : List Nat) (boardFail : Bool) : State :=
  match s.integ.bist.find? (·.1 = p) with
  | none => s
  | some (_, mequel) =>
    let s := s.onInteg fun g => { g with bist := g.bist.filter fun b => b.1 ≠ p }
    let first := rows.foldl min 0x3F
    let s := s.setReg (physBase p + 8)
      (BitVec.ofNat 32 (b2n boardFail * 2 ^ 16 + first * 2 ^ 8 + b2n (boardFail || !rows.isEmpty) * 4 + 2))
    if mequel && s.roleOf p = 2 && s.integ.fusedOut ≠ some p then bistAct s p rows boardFail else s

def execBistDone (p : PhysTile) (rows : List (Fin 34)) (boardFail : Bool) (s : State) : Host.Outcome State Fault Refusal :=
  .next (s.act fun s => bistDone s p (rows.map (·.val)) boardFail)

end Sys2Proof.Machine
end

