-- ==== Sys2Proof/Machine/Trig.lean ====
section
/-! DEFINITION. Trig.lean: the sine, cosine and argument that the burst modem needs (R310, R313, R317), in fixed point with
128 fractional bits. They serve only to be rounded to fp32 or to an integer. -/

namespace Sys2Proof.Machine

/-- 1 and π in fixed point. -/
def fixOne : Nat := 2 ^ 128
def fixPi : Nat := 1069028584064966747859680373161870783300

/-- The alternating sum of x^(2k+p) / (2k+p)!, k below 24, for p = 0 or 1. -/
def fixSeries (p x : Nat) : Int :=
  ((List.range 24).foldl (fun (a : Int × Nat) k =>
    (a.1 + (if k % 2 = 0 then (a.2 : Int) else -a.2),
      a.2 * x / fixOne * x / fixOne / ((2 * k + p + 1) * (2 * k + p + 2)))) (0, if p = 0 then fixOne else x)).1

/-- cos and sin of 2π × t / 2^32, from those of an angle of at most an eighth of a turn. -/
def fixCosSin (t : Nat) : Int × Int :=
  let o := t / 2 ^ 29 % 8
  let r := t % 2 ^ 29
  let x := (if o % 2 = 1 then 2 ^ 29 - r else r) * fixPi / 2 ^ 31
  let c := fixSeries 0 x
  let s := fixSeries 1 x
  match o with
  | 0 => (c, s)
  | 1 => (s, c)
  | 2 => (-s, c)
  | 3 => (-c, s)
  | 4 => (-c, -s)
  | 5 => (-s, -c)
  | 6 => (s, -c)
  | _ => (c, -s)

/-- arctan r for r in 0 to 1, by Euler's series. -/
def fixAtan (r : Nat) : Nat :=
  let sq := r * r / fixOne
  let q := sq * fixOne / (fixOne + sq)
  ((List.range 140).foldl (fun (a : Nat × Nat) k =>
    (a.1 + a.2, a.2 * q / fixOne * (2 * k + 2) / (2 * k + 3))) (0, r * fixOne / (fixOne + sq))).1

/-- The argument of x + jy, not both 0, in fixed point: −π to π. -/
def fixArg (x y : Int) : Int :=
  let a := x.natAbs
  let b := y.natAbs
  let v : Int := if b ≤ a then fixAtan (b * fixOne / a) else fixPi / 2 - fixAtan (a * fixOne / b)
  let v := if x < 0 then (fixPi : Int) - v else v
  if y < 0 then -v else v

end Sys2Proof.Machine
end

