-- ==== Sys2Proof/Machine/LinkNum.lean ====
section
/-! DEFINITION. LinkNum.lean: the arithmetic of the burst modem: fp32 values that are rounded once after every operation
(R141), logarithms, the gain, constellations and the equaliser (R312–R315, R321–R323).

The manual computes in fp32 and does not say what counts as one operation on complex numbers. Here each part of a complex
product, a squared magnitude and each part of a complex quotient is one operation, rounded once (log entry 8). -/

namespace Sys2Proof.Machine

/-! ### fp32 values -/

def f32 : Fmt := ⟨8, 23⟩

def FVal.neg : FVal → FVal
  | .nan => .nan
  | .inf s => .inf !s
  | .fin s m e => .fin (!s) m e

/-- The exact product. -/
def FVal.mul : FVal → FVal → FVal
  | .nan, _ | _, .nan => .nan
  | .inf s, .inf t => .inf (s != t)
  | .inf s, .fin t m _ | .fin s m _, .inf t => if m = 0 then .nan else .inf (s != t)
  | .fin s m x, .fin t n y => .fin (s != t) (m * n) (x + y)

/-- The exact sum. -/
def FVal.add : FVal → FVal → FVal
  | .nan, _ | _, .nan => .nan
  | .inf s, .inf t => if s = t then .inf s else .nan
  | .inf s, .fin .. | .fin .., .inf s => .inf s
  | .fin s m x, .fin t n y =>
    let e := min x y
    let v := signedMant s m * (2 ^ (x - e).toNat : Nat) + signedMant t n * (2 ^ (y - e).toNat : Nat)
    if v = 0 then .fin (s && t) 0 e else .fin (v < 0) v.natAbs e

/-- A value rounded to fp32. -/
def FVal.round : FVal → FVal
  | .fin s m e => fdecode f32 (froundInt f32 (signedMant s m) e s).val
  | v => v

/-- The fp32 value of a rational ± n / d. -/
def vrat (neg : Bool) (n d : Nat) : FVal := fdecode f32 (froundRat f32 neg n d).val

/-- The fp32 quotient. -/
def vdiv : FVal → FVal → FVal
  | .nan, _ | _, .nan => .nan
  | .inf _, .inf _ => .nan
  | .inf s, .fin t _ _ => .inf (s != t)
  | .fin s _ _, .inf t => .fin (s != t) 0 0
  | .fin s m x, .fin t n y =>
    if n = 0 then (if m = 0 then .nan else .inf (s != t))
    else
      let (a, b) := fracOf m x
      let (c, d) := fracOf n y
      vrat (s != t) (a * d) (b * c)

def vadd (a b : FVal) : FVal := (a.add b).round
def vsub (a b : FVal) : FVal := (a.add b.neg).round
def vmul (a b : FVal) : FVal := (a.mul b).round

/-- An integer, which the exact operations take as it is. -/
def vint (v : Int) : FVal := .fin (v < 0) v.natAbs 0
def vzero : FVal := .fin false 0 0

/-- a < b, false where one is no number. -/
def vless : FVal → FVal → Bool
  | .fin s m x, .fin t n y =>
    let e := min x y
    signedMant s m * (2 ^ (x - e).toNat : Nat) < signedMant t n * (2 ^ (y - e).toNat : Nat)
  | .inf s, .fin .. => s
  | .fin .., .inf t => !t
  | .inf s, .inf t => s && !t
  | _, _ => false

/-- The integer square root: the largest r with r² ≤ n, found from its highest bit down. -/
def isqrtFrom (n : Nat) : Nat → Nat → Nat
  | 0, r => r
  | k + 1, r => isqrtFrom n k (if (r + 2 ^ k) * (r + 2 ^ k) ≤ n then r + 2 ^ k else r)
def isqrt (n : Nat) : Nat := isqrtFrom n (Nat.log2 n / 2 + 1) 0

/-- sqrt(n / d), for n, d > 0, rounded once to fp32. -/
def vsqrtRat (n d : Nat) : FVal :=
  let e := (expOf n d) / 2
  let k := 23 - e
  -- sqrt(n/d) × 2^k lies in [2^23, 2^24); it is q or more and less than q + 1.
  let a := n * 4 ^ k.toNat
  let b := d * 4 ^ (-k).toNat
  let q := isqrt (a / b)
  let m := if 4 * a < (2 * q + 1) * (2 * q + 1) * b then q
    else if (2 * q + 1) * (2 * q + 1) * b < 4 * a then q + 1 else q + q % 2
  (FVal.fin false m (-k)).round

/-- 1 / sqrt(v), rounded once. -/
def vrsqrt : FVal → FVal
  | .fin _ 0 _ => .inf false
  | .fin false m e => let (n, d) := fracOf m e; vsqrtRat d n
  | .inf false => vzero
  | _ => .nan

/-! ### Complex fp32 values -/

/-- A complex number of fp32 parts. -/
structure Cx where
  re : FVal
  im : FVal
  deriving DecidableEq, Repr

def Cx.zero : Cx := ⟨vzero, vzero⟩
def Cx.conj (a : Cx) : Cx := ⟨a.re, a.im.neg⟩
def Cx.add (a b : Cx) : Cx := ⟨vadd a.re b.re, vadd a.im b.im⟩
def Cx.sub (a b : Cx) : Cx := ⟨vsub a.re b.re, vsub a.im b.im⟩
def Cx.mul (a b : Cx) : Cx :=
  ⟨((a.re.mul b.re).add (a.im.mul b.im).neg).round, ((a.re.mul b.im).add (a.im.mul b.re)).round⟩
def Cx.scale (v : FVal) (a : Cx) : Cx := ⟨vmul v a.re, vmul v a.im⟩
/-- |a|². -/
def Cx.sq (a : Cx) : FVal := ((a.re.mul a.re).add (a.im.mul a.im)).round
/-- a / b. -/
def Cx.div (a b : Cx) : Cx :=
  let d := (b.re.mul b.re).add (b.im.mul b.im)
  ⟨vdiv ((a.re.mul b.re).add (a.im.mul b.im)) d, vdiv ((a.im.mul b.re).add (a.re.mul b.im).neg) d⟩

def Cx.ofWords (p : Word × Word) : Cx := ⟨fdecode f32 p.1.toNat, fdecode f32 p.2.toNat⟩

/-- The fp32 pattern of a rounded value. -/
def FVal.word : FVal → Word
  | .nan => BitVec.ofNat 32 f32.nan
  | .inf s => BitVec.ofNat 32 (f32.sign s + f32.infMag)
  | .fin s m e => BitVec.ofNat 32 (froundInt f32 (signedMant s m) e s).val

def Cx.words (a : Cx) : Word × Word := (a.re.word, a.im.word)

/-- Sums in index order, rounded at each step. -/
def vsum (l : List FVal) : FVal := l.foldl vadd vzero
def csum (l : List Cx) : Cx := l.foldl Cx.add .zero

/-- The mean of a list. -/
def vmean (l : List FVal) : FVal := vdiv (vsum l) (vint l.length)

/-! ### Rotation, transform and pulse (R310, R313, R317)

The exponential is rounded to fp32 part by part, and then enters products like any other value (log entry 8). -/

/-- A fixed-point value rounded to fp32. -/
def fixVal (v : Int) : FVal := vrat (v < 0) v.natAbs fixOne

/-- e^(−j2πt / 2^32). -/
def turn (t : Nat) : Cx :=
  let (c, s) := fixCosSin (t % 2 ^ 32)
  ⟨fixVal c, fixVal (-s)⟩

/-- Sample n derotated by the AFC value F (R317). -/
def derotate (freq : Int) (n : Nat) (x : Int × Int) : Word × Word :=
  (Cx.mul ⟨vint x.1, vint x.2⟩ (turn (pattern 32 (freq * n)))).words

/-- round(arg(C) / (2π × 32) × 2^32) (R317); free where C has no argument. -/
def afcStep (v : Word × Word) : Int :=
  match fdecode f32 v.1.toNat, fdecode f32 v.2.toNat with
  | .fin s m x, .fin t n y =>
    if m = 0 ∧ n = 0 then Config.openArg v
    else
      let e := min x y
      let a := fixArg (signedMant s m * (2 ^ (x - e).toNat : Nat)) (signedMant t n * (2 ^ (y - e).toNat : Nat))
      (2 ^ 27 * a + fixPi) / (2 * fixPi)
  | _, _ => Config.openArg v

/-- Bin b of the 4,096-point DFT of an OFDM symbol's samples, summed in index order (R323). -/
def dftBin (l : List (Word × Word)) (b : Nat) : Cx :=
  csum (l.mapIdx fun n x => (Cx.ofWords x).mul (turn (b * n % 4096 * 2 ^ 20)))

/-- The root-raised-cosine pulse of roll-off 1/4 at 2 samples per symbol, n samples from its centre (R310). -/
def pulse (n : Int) : FVal :=
  let k := n.natAbs
  let half := (fixCosSin (2 ^ 29)).1
  fixVal (if k = 0 then (3 * fixOne / 4 + fixOne * fixOne / fixPi : Nat)
    else if k = 2 then -(half * ((fixPi : Int) - 2 * fixOne) / (4 * fixPi))
    else
      let s := (fixCosSin (3 * k * 2 ^ 28 % 2 ^ 32)).2
      let c := (fixCosSin (5 * k * 2 ^ 28 % 2 ^ 32)).1
      (s + k * c / 2) * 8 * fixOne / (fixPi * k * (4 - (k : Int) * k)))

/-! ### Logarithms and the gain (R315, R319) -/

/-- Whether 10^v ≤ n^k / d^k. -/
def tenLe (k n d : Nat) (v : Int) : Bool := 10 ^ v.toNat * d ^ k ≤ n ^ k * 10 ^ (-v).toNat

/-- floor(k × log10(n / d)), for n, d > 0: the largest of the candidates about an estimate from the binary logarithm. -/
def floorLog (k n d : Nat) : Int :=
  let est : Int := ((Nat.log2 (n ^ k) : Int) - Nat.log2 (d ^ k)) * 30103 / 100000
  (List.range 8).foldl (fun b i => let v := est - 3 + i; if tenLe k n d v then v else b) (est - 4)

/-- floor(k × log10(v / 2^sh)); none for a value that has no logarithm. -/
def floorLogOf (k : Nat) (sh : Int) : FVal → Option Int
  | .fin false m e =>
    if m = 0 then none else let (n, d) := fracOf m (e - sh); some (floorLog k n d)
  | _ => none

/-- The integer a magnitude x becomes under gain G: x × 10^(G/80) to the nearest, ties to even, at most 32,768. -/
def gainMag (x g : Nat) : Nat :=
  let t := x ^ 80 * 10 ^ g
  let q := (List.range 16).foldl (fun q i =>
    let r := q + 2 ^ (15 - i)
    if r ^ 80 ≤ t then r else q) 0
  if 32768 ≤ q then 32768
  else if (2 * q + 1) ^ 80 < 2 ^ 80 * t then q + 1
  else if (2 * q + 1) ^ 80 = 2 ^ 80 * t then q + q % 2 else q

/-- One part under gain G, saturated to int16. -/
def gainPart (g : Nat) (x : Int) : Int :=
  if x < 0 then max (-32768) (-(gainMag x.natAbs g : Int)) else min 32767 (gainMag x.natAbs g)

/-- |x|² of an integer sample. -/
def sampleSq (x : Int × Int) : FVal := (FVal.fin false (x.1 * x.1 + x.2 * x.2).toNat 0).round

/-! ### Constellations (R312, R313; TS 38.211 clause 5.1) -/

/-- The level of a Gray-coded axis, from its bits, first bit first. -/
def pamLevel : List Bool → Int
  | [] => 0
  | [b] => if b then -1 else 1
  | b :: r => (if b then -1 else 1) * ((2 ^ r.length : Nat) - pamLevel r)

/-- A constellation point: its bits, first bit first, and its value. -/
structure Point where
  bits : List Bool
  val : Cx

/-- The even-numbered and the odd-numbered bits. -/
def evenBits : List Bool → List Bool
  | [] => []
  | [a] => [a]
  | a :: _ :: r => a :: evenBits r
def oddBits (l : List Bool) : List Bool := evenBits (l.drop 1)

/-- Level v over the square root of n. -/
def overSqrt (v : Int) (n : Nat) : FVal :=
  if v = 0 then vzero
  else match vsqrtRat (v.natAbs * v.natAbs) n with
    | .fin _ m e => .fin (v < 0) m e
    | x => x

/-- The mean square of an axis of m bits. -/
def axisPower (m : Nat) : Nat := (4 ^ m - 1) / 3

/-- The constellation of b bits a symbol. An odd b alternates its bits between I and Q, I first (log entry 8). -/
def constellation (b : Nat) : List Point :=
  (List.range (2 ^ b)).map fun v =>
    let l := natBits b v
    if b = 1 then ⟨l, overSqrt (pamLevel l) 2, overSqrt (pamLevel l) 2⟩
    else
      let n := axisPower (b - b / 2) + axisPower (b / 2)
      ⟨l, overSqrt (pamLevel (evenBits l)) n, overSqrt (pamLevel (oddBits l)) n⟩

/-- ±(1 + j) / sqrt 2: a preamble, sync or header symbol, negative for `neg`. -/
def diag (neg : Bool) : Cx :=
  let v := overSqrt (if neg then -1 else 1) 2
  ⟨v, v⟩

/-- The header's two points (Table 11.1). -/
def headerPoints : List Point := [⟨[false], diag false⟩, ⟨[true], diag true⟩]

/-- Distances |y − a|² to the points a. -/
def distances (ps : List Point) (y : Cx) : List FVal := ps.map fun p => (y.sub p.val).sq

/-- The smallest of distances. -/
def vmin (l : List FVal) : FVal := l.foldl (fun m v => if vless v m then v else m) (l.headD .nan)

/-- The nearest point to y; which of several at one distance is free (log entry 8). -/
def nearest (ps : List Point) (y : Cx) : Cx :=
  let ds := distances ps y
  let best := (ps.zip ds).filter fun (_, d) => !vless (vmin ds) d
  match best[Config.nearestTie y.words best.length % max 1 best.length]? with
  | some (p, _) => p.val
  | none => .zero

/-- An fp32 value as an LLR: nearest-even, saturated to −127–127. -/
def llrOf (free : Int) : FVal → Int
  | .nan => clampInt (-127) 127 free
  | .inf s => if s then -127 else 127
  | .fin s m e =>
    let (n, d) := fracOf m e
    clampInt (-127) 127 (signedMant s (rneDiv n d))

/-- The LLRs of the bits of a symbol: S × (D1 − D0) / σ² (R322). -/
def llrs (scale : Nat) (ps : List Point) (var : FVal) (y : Cx) : List Int :=
  let ds := ps.zip (distances ps y)
  let of (i : Nat) (b : Bool) : FVal := vmin ((ds.filter fun (p, _) => p.bits.getD i false = b).map (·.2))
  (List.range ((ps.headD ⟨[], .zero⟩).bits.length)).map fun i =>
    let d := vmul (vint scale) (vsub (of i true) (of i false))
    llrOf (Config.openLlr d.word var.word) (vdiv d var)

/-! ### The decision-feedback equaliser (R321, R322) -/

/-- Taps f_0–f_15 and g_1–g_8, and the last eight decisions, newest first. -/
structure Dfe where
  f : List Cx
  g : List Cx
  past : List Cx

/-- The inputs of symbol n: x(m0 + 2n + 7 − i), i = 0–15. -/
def dfeIn (x : Int → Cx) (m0 : Int) (n : Nat) : List Cx := (List.range 16).map fun (i : Nat) => x (m0 + 2 * n + 7 - i)

/-- y_n. -/
def Dfe.out (e : Dfe) (xs : List Cx) : Cx :=
  (csum ((e.f.zip xs).map fun (f, x) => f.mul x)).sub (csum ((e.g.zip e.past).map fun (g, d) => g.mul d))

/-- The taps after symbol n, for the decision d and the error e_n. -/
def Dfe.update (e : Dfe) (mu : FVal) (xs : List Cx) (d err : Cx) : Dfe where
  f := (e.f.zip xs).map fun (f, x) => f.add ((err.scale mu).mul x.conj)
  g := (e.g.zip e.past).map fun (g, p) => g.sub ((err.scale mu).mul p.conj)
  past := (d :: e.past).take 8

/-- Bit 15 − i of the preamble word, and training symbol n: preamble symbols from 16 on, then the sync word; n is at
least −16 (R322). -/
def trainingSymbol (sync : Word) (n : Int) : Cx :=
  if n < 48 then diag (!(0xE6A1 : Nat).testBit (15 - ((n + 16).toNat % 16))) else diag (!bit sync (31 - (n - 48).toNat))

/-- 2^−k. -/
def stepSize (k : Nat) : FVal := .fin false 1 (-(k : Int))

/-- The equaliser before symbol 0 of a pass. -/
def Dfe.start (e : Dfe) (sync : Word) : Dfe :=
  { e with past := (List.range 8).map fun (j : Nat) => trainingSymbol sync (-1 - (j : Int)) }

/-- One pass over the 80 training symbols: the equaliser after it, and the |e_n|². -/
def trainPass (sync : Word) (mu : FVal) (x : Int → Cx) (m0 : Int) (e : Dfe) : Dfe × List FVal :=
  (List.range 80).foldl (fun (e, l) (n : Nat) =>
    let xs := dfeIn x m0 n
    let d := trainingSymbol sync n
    let err := d.sub (e.out xs)
    (e.update mu xs d err, l ++ [err.sq])) (e.start sync, [])

/-- Training: the taps set at sync, then PASSES passes; the equaliser and σ². The training span is the 160 samples of
the 80 symbols, each of which has its on-time sample second. -/
def train (sync : Word) (passes : Nat) (mu : FVal) (x : Int → Cx) (m0 : Int) : Dfe × FVal :=
  let power := vmean ((List.range 160).map fun (i : Nat) => (x (m0 - 1 + i)).sq)
  let tap : Cx := ⟨vrsqrt power, vzero⟩
  let e : Dfe := { f := (List.range 16).map fun i => if i = 7 then tap else .zero, g := List.replicate 8 .zero, past := [] }
  (List.range passes).foldl (fun (e, _) _ =>
    let (e, l) := trainPass sync mu x m0 e
    (e, vmean l)) (e, vzero)

/-- Symbols n to n + count − 1, decision-directed: the equaliser after them, and their y. -/
def directed (ps : List Point) (mu : FVal) (x : Int → Cx) (m0 : Int) (n count : Nat) (e : Dfe) :
    Dfe × List Cx :=
  (List.range count).foldl (fun (e, l) k =>
    let xs := dfeIn x m0 (n + k)
    let y := e.out xs
    let d := nearest ps y
    (e.update mu xs d (d.sub y), l ++ [y])) (e, [])

end Sys2Proof.Machine
end

