-- ==== Sys2Proof/Machine/LinkRx.lean ====
section
/-! DEFINITION. LinkRx.lean: reception of Nuzan Link bursts: the burst front, the header, the code blocks, the records and
the reports (R306–R324, R328, R329, R333). -/

namespace Sys2Proof.Machine

/-! ### Burst slots (R306–R309) -/

/-- Samples of a burst slot, and of a frame. -/
def burstLen (s : State) (c : Nat) : Nat :=
  if s.flag (carrierBase c + 0x400) 0 || s.ccMu c ≠ 0 then 15360 else 30720
def frameLen (s : State) (c : Nat) : Nat := 8 * burstLen s c

/-- LK_AGC_LIVE: G, and the state of the burst front: 0 RUNNING, 1 FROZEN, 2 SYNCED. -/
def lkGain (s : State) (c : Nat) : Nat := s.fld (carrierBase c + 0x448) 7 0
def lkFront (s : State) (c : Nat) : Nat := s.fld (carrierBase c + 0x448) 9 8
def setGain (s : State) (c g : Nat) : State := s.setFld (carrierBase c + 0x448) 7 0 g
def setFront (s : State) (c st : Nat) : State := s.setFld (carrierBase c + 0x448) 9 8 st

/-- Counter k of 0x480: DETECTS, FALSE, HDR_ERR, CB_OK, CB_FAIL, BLT_MISS, MSG_BAD, TX_DROP, BL_SENT. -/
def lkCount (s : State) (c k n : Nat) : State := if n = 0 then s else s.bump (carrierBase c + 0x480 + 4 * k) n

/-- Fields of LK_DFE (0x410). -/
def dfeFld (s : State) (c hi lo : Nat) : Nat := s.fld (carrierBase c + 0x410) hi lo

/-- The sync word, LK_SYNC. -/
def lkSync (s : State) (c : Nat) : Word := s.reg (carrierBase c + 0x450)

/-- The number that names the free values of the burst in burst slot k of frame f of context c (log entry 8). -/
def burstKey (c : Nat) (f : Word) (k : Nat) : Nat := (f.toNat * 8 + k) * 24 + c

/-- A receive burst slot begins (R315, R317): G from INIT, F from LK_AFC, state RUNNING. -/
def openSlot (s : State) (c : Nat) : State :=
  let l := s.link c
  match l.rxNext with
  | [] => s
  | (k, f) :: r =>
    let first := f.toNat * frameLen s c + k * burstLen s c
    let afc := (s.reg (carrierBase c + 0x444)).toInt
    let s := s.setLink c { l with
      rx := some (k, f), rxNext := r, done := first, arrived := tclear l.arrived 0 first, gained := [], recent := [],
      freq := afc, freq0 := afc, hits := 0, corr := (0, 0), sinceDetect := 0, input := [], syncEnd := none }
    setFront (setGain s c (min 192 (s.fld (carrierBase c + 0x408) 7 0))) c 0

/-- The slot's last window is done: its bursts, and a sync whose header is still to be decoded, keep its gained samples.
-/
def closeSlot (s : State) (c k : Nat) (f : Word) : State :=
  let l := s.link c
  let st := s.reg (carrierBase c + 0x440)
  s.setLink c { l with
    rx := none, gained := [], recent := [], input := [], syncEnd := none,
    waiting := l.waiting ++ (l.syncEnd.toList.map fun q => {
      slotK := k, frame := f, samples := l.gained.reverse, syncEnd := q, freq := l.freq, gain := bits st 23 16,
      rssi := bits st 15 0 }),
    bursts := l.bursts.map fun b =>
      if b.slotK = k ∧ b.frame = f ∧ b.samples.isNone then { b with samples := some l.gained.reverse } else b }

/-! ### The burst front (R315–R319) -/

/-- The next 16 air samples, and how many of them had not arrived (R308). -/
def takeWindow (l : LinkState) : List (Int × Int) × Nat :=
  let xs := (List.range 16).map fun i => tget (fun _ => none) l.arrived (l.done + i)
  (xs.map (·.getD (0, 0)), xs.countP (·.isNone))

/-- floor(k × log10(P / 2^31)) of a mean power P, free where it has no logarithm. -/
def powerLog (k : Nat) (p : FVal) : Int := (floorLogOf k 31 p).getD (Config.openLog p.word 0)

/-- G after a window of gained samples (R315). A mean power of 0 has no logarithm: L is then a free value. -/
def gainLoop (s : State) (c : Nat) (xs : List (Int × Int)) : State :=
  let agc := s.reg (carrierBase c + 0x408)
  let lv := powerLog 40 (vmean (xs.map sampleSq))
  let g := (lkGain s c : Int) + (-(bits agc 15 8 : Int) - lv) / (2 ^ bits agc 19 16 : Nat)
  setGain s c (clampInt 0 192 g).toNat

/-- c over the 32 newest of the derotated samples, newest first (R316). -/
def lagSum (zs : List (Word × Word)) : Cx :=
  csum (((zs.take 32).zip (zs.drop 32)).reverse.map fun (a, b) => (Cx.ofWords a).mul (Cx.ofWords b).conj)

/-- The detection test: |c| ≥ THRESH / 256 × p, false while the slot has not given 64 samples (R316). -/
def detected (s : State) (c : Nat) (zs : List (Word × Word)) : Bool :=
  let v := lagSum zs
  let p := vsum ((zs.take 32).reverse.map fun a => (Cx.ofWords a).sq)
  let t := s.fld (carrierBase c + 0x40C) 7 0
  let lhs := ((v.re.mul v.re).add (v.im.mul v.im)).mul (vint 65536)
  let rhs := (p.mul p).mul (vint (t * t))
  64 ≤ zs.length && !lhs.isNan && !rhs.isNan && !vless lhs rhs

/-- Whether the newest sample of `zs` ends the sync word (R318). -/
def syncAt (sync : Word) (least : Nat) (zs : List (Word × Word)) : Bool :=
  let w (k : Nat) : Word × Word := zs.getD (64 - 2 * k) (0, 0)
  let agree (k : Nat) : Bool :=
    let neg := match ((Cx.ofWords (w (k + 1))).mul (Cx.ofWords (w k)).conj).re with
      | .fin s m _ => if m = 0 then Config.openDecision (w (k + 1)) (w k) else s
      | .inf s => s
      | .nan => Config.openDecision (w (k + 1)) (w k)
    let last := if k = 0 then true else bit sync (32 - k)
    neg = (bit sync (31 - k) != last)
  65 ≤ zs.length && least ≤ (List.range 32).countP agree

/-- LK_RXSTAT at sync, and LK_AFC (R317, R319): P_in of the input samples given. The mean's logarithm is free where it
is 0. -/
def latchSync (s : State) (c k : Nat) (freq : Int) (input : List (Int × Int)) : State :=
  let rssi := (powerLog 80 (vmean (input.map sampleSq)) + 1) / 2
  let w := pattern 16 rssi + lkGain s c * 2 ^ 16 + 2 ^ 28 + k * 2 ^ 29
  (s.setReg (carrierBase c + 0x440) (BitVec.ofNat 32 w)).setReg (carrierBase c + 0x444) (BitVec.ofInt 32 freq)

/-- A window in state RUNNING: the gain loop, then the test for a preamble. -/
def runningWindow (s : State) (c : Nat) (raw gs : List (Int × Int)) : State :=
  let s := gainLoop s c gs
  let l := s.link c
  if detected s c l.recent then
    let hits := l.hits + 1
    if max 1 (s.fld (carrierBase c + 0x40C) 11 8) ≤ hits then
      let v := (lagSum l.recent).words
      let s := lkCount s c 0 1
      setFront (s.setLink c { s.link c with
        hits := 0, corr := v, freq := l.freq0 + afcStep v, sinceDetect := 0, input := raw.reverse }) c 1
    else s.setLink c { l with hits := hits }
  else s.setLink c { l with hits := 0 }

/-- A window in state FROZEN, whose first sample is number `n0` of the slot and `old` the derotated samples before it:
the test of each position for the sync word, else the correlation sum (R317, R318). -/
def frozenWindow (s : State) (c k n0 : Nat) (raw : List (Int × Int)) (zs old : List (Word × Word)) : State :=
  let l := s.link c
  let least := clamp 24 32 (s.fld (carrierBase c + 0x40C) 20 16)
  let hist (i : Nat) := (zs.take (i + 1)).reverse ++ old
  match (List.range 16).find? fun i => l.sinceDetect < 256 && syncAt (lkSync s c) least (hist i) with
  | some i =>
    let s := latchSync s c k l.freq (l.input.reverse ++ raw.take (i + 1))
    setFront (s.setLink c { s.link c with syncEnd := some (n0 + i), input := [] }) c 2
  | none =>
    let v := ((Cx.ofWords l.corr).add (lagSum l.recent)).words
    s.setLink c { l with
      corr := v, freq := l.freq0 + afcStep v, sinceDetect := l.sinceDetect + 16, input := raw.reverse ++ l.input }

/-- LINK_WINDOW: the front processes the next 16 samples. Until sync they are derotated by F0, which is what makes the
sum C estimate the whole offset (log entry 55). -/
def frontWindow (s : State) (c : Nat) : State :=
  let s := if (s.link c).rx.isNone then openSlot s c else s
  match (s.link c).rx with
  | none => s
  | some (k, _) =>
    let l := s.link c
    let (raw, missing) := takeWindow l
    let s := if missing = 0 then s else s.bump (carrierBase c + 0xC0) missing
    let gs := raw.map fun x => (gainPart (lkGain s c) x.1, gainPart (lkGain s c) x.2)
    let n0 := l.gained.length
    let zs := gs.mapIdx fun i x => derotate l.freq0 (n0 + i) x
    let s := s.setLink c { l with
      done := l.done + 16, arrived := tclear l.arrived l.done (l.done + 16), gained := gs.reverse ++ l.gained,
      recent := (zs.reverse ++ l.recent).take 81 }
    match lkFront s c with
    | 0 => runningWindow s c raw gs
    | 1 => frozenWindow s c k n0 raw zs l.recent
    | _ => s

/-- LINK_FALSE_DETECTION: no position qualified within 256 samples (R318). -/
def falseDetection (s : State) (c : Nat) : State :=
  let l := s.link c
  if s.ccLink c ∧ l.rx.isSome ∧ lkFront s c = 1 ∧ 256 ≤ l.sinceDetect then
    let s := lkCount s c 1 1
    setFront (s.setLink c { l with freq := l.freq0, hits := 0, input := [] }) c 0
  else s

/-! ### MCS (Table 11.2) -/

/-- Qm of a single-carrier MCS, and the number of its code rate. -/
def mcsQm (m : Nat) : Nat := if m < 4 then 2 else if m < 8 then 4 else if m < 11 then 6 else 8
def mcsRate (m : Nat) : Nat := if m < 8 then m % 4 else if m < 11 then m - 7 else m - 10

/-- Whether an MCS is one of the mode's: 0–13 in single carrier, 0–3 in multicarrier. -/
def mcsOk (multi : Bool) (m : Nat) : Bool := if multi then m < 4 else m < 14

/-- E. -/
def mcsE (multi : Bool) (m : Nat) : Nat := [8448, 6336, 5640, 5088].getD (if multi then m % 4 else mcsRate m) 8448

/-! ### Equalised symbols -/

/-- Sample m of a burst slot: gained, derotated by F, over 2^15. A sample outside the slot is free. -/
def slotSample (g : Array (Int × Int)) (freq : Int) (key : Nat) (m : Int) : Cx :=
  let x := match m with
    | .ofNat i => g.getD i (Config.openSample key m)
    | .negSucc _ => Config.openSample key m
  (Cx.ofWords (derotate freq m.toNat x)).scale (stepSize 15)

/-- The equaliser of a burst after its training, with σ², and its header symbols. -/
structure Trained where
  dfe : Dfe
  var : FVal
  header : List Cx

/-- On-time sample of training symbol 0: 79 symbols before the sync word's last (R318, R321). -/
def onTime (syncEnd : Nat) : Int := (syncEnd : Int) - 158

/-- Training and the header symbols (R322). -/
def equalise (s : State) (c : Nat) (x : Int → Cx) (syncEnd : Nat) : Trained :=
  let (e, var) := train (lkSync s c) (clamp 1 3 (dfeFld s c 9 8)) (stepSize (dfeFld s c 3 0)) x (onTime syncEnd)
  let (e, ys) := directed headerPoints (stepSize (dfeFld s c 7 4)) x (onTime syncEnd) 80 96 e
  ⟨e, var, ys⟩

/-- The 48 header bits: the copies' LLRs added with saturation; a sum below 0 decides 1 (R322). -/
def headerBits (s : State) (c : Nat) (t : Trained) : List Bool :=
  let l := t.header.map fun y => (llrs (dfeFld s c 15 12) headerPoints t.var y).headD 0
  (List.range 48).map fun i => decide (sat8 (l.getD i 0 + l.getD (48 + i) 0) < 0)

/-- The CRC16 of the header (R311). -/
def headerOk (l : List Bool) : Bool := crcBits 16 0x1021 0xFFFF (l.take 32) = bitsNat (l.drop 32)

/-- The LLRs of code block cb of a single-carrier burst, de-interleaved (R312, R322). -/
def singleLlrs (s : State) (c : Nat) (b : Burst) (x : Int → Cx) (cb : Nat) : List Int :=
  let qm := mcsQm b.mcs
  let n := mcsE false b.mcs / qm
  let ps := constellation qm
  let t := equalise s c x b.syncEnd
  let (_, ys) := directed ps (stepSize (dfeFld s c 7 4)) x (onTime b.syncEnd) 176 ((cb + 1) * n) t.dfe
  let l := ((ys.drop (cb * n)).map fun y => llrs (dfeFld s c 15 12) ps t.var y).flatten.toArray
  -- Bit m of the interleaved block is bit (m mod Qm) × E/Qm + m / Qm of the block.
  (List.range (n * qm)).map fun e => l.getD (e % n * qm + e / n) 0

/-! ### Multicarrier symbols (R313, R323) -/

/-- t_s: the generator x^15 + x^14 + 1, seeded 0x7FFF; true for −1. -/
def trainingSigns : Nat → Nat → List Bool
  | 0, _ => []
  | n + 1, r =>
    let out := r.testBit 14
    let fed := r.testBit 14 != r.testBit 13
    out :: trainingSigns n (r * 2 % 2 ^ 15 + b2n fed)

/-- DFT bin of data subcarrier s, modulo 4,096. -/
def binOf (s : Nat) : Nat := if s < 1650 then s + 4096 - 1650 else s - 1649

/-- The first sample after the prefix of OFDM symbol i of a burst whose sync word ends at `syncEnd`. -/
def ofdmAt (syncEnd i : Nat) : Nat := syncEnd + 193 + 4352 * i + 256

/-- The 3,300 data values of OFDM symbol i. -/
def ofdmValues (x : Int → Cx) (syncEnd i : Nat) : List Cx :=
  let l := (List.range 4096).map fun n => (x (ofdmAt syncEnd i + n)).words
  (List.range 3300).map fun s => dftBin l (binOf s)

/-- H_s and N_s. -/
def channelOf (x : Int → Cx) (syncEnd : Nat) : List (Cx × FVal) :=
  let half := FVal.fin false 1 (-1)
  ((ofdmValues x syncEnd 0).zip ((ofdmValues x syncEnd 1).zip (trainingSigns 3300 0x7FFF))).map fun (y1, y2, neg) =>
    (((y1.add y2).scale (if neg then half.neg else half)), vmul (y1.sub y2).sq half)

/-- LLRs of a data symbol: each subcarrier's bits in turn. -/
def symbolLlrs (scale : Nat) (table : List Nat) (ch : List (Cx × FVal)) (ys : List Cx) : List Int :=
  ((table.zip (ch.zip ys)).map fun (b, (h, n), y) =>
    if b = 0 then [] else llrs scale (constellation b) (vdiv n h.sq) (y.div h)).flatten

/-- The table a BLT names among those given, when its version is held. -/
def tableOf (t : Tab (Option (Nat × List Nat))) (blt : Nat) : Option (List Nat) :=
  match tget (fun _ => none) t (blt / 128) with
  | some (v, l) => if v = blt % 128 then some l else none
  | none => none

/-- Σb of a table. -/
def tableSum (l : List Nat) : Nat := l.foldl (· + ·) 0

/-- The LLRs of code block cb of a multicarrier burst. -/
def multiLlrs (s : State) (c : Nat) (b : Burst) (table : List Nat) (x : Int → Cx) (cb : Nat) : List Int :=
  let e := mcsE true b.mcs
  let sum := max 1 (tableSum table)
  let first := cb * e / sum
  let ch := channelOf x b.syncEnd
  let l := (List.range (((cb + 1) * e + sum - 1) / sum - first)).flatMap fun i =>
    symbolLlrs (dfeFld s c 15 12) table ch (ofdmValues x b.syncEnd (2 + first + i))
  (l.drop (cb * e - first * sum)).take e

/-! ### Code blocks (R324) -/

/-- The samples of a burst's slot as far as they have been processed. -/
def burstSamples (s : State) (c : Nat) (b : Burst) : Array (Int × Int) :=
  (b.samples.getD (s.link c).gained.reverse).toArray

/-- Samples of the slot that code block cb needs. -/
def needed (b : Burst) (sum cb : Nat) : Nat :=
  let e := mcsE b.multi b.mcs
  if b.multi then ofdmAt b.syncEnd (2 + ((cb + 1) * e + sum - 1) / max 1 sum - 1) + 4096
  else b.syncEnd + 193 + 2 * ((cb + 1) * e / mcsQm b.mcs) + 7

/-- The table of a multicarrier burst; none in a single-carrier one. -/
def burstTable (s : State) (c : Nat) (b : Burst) : List Nat :=
  if b.multi then (tableOf (s.link c).rxTables b.blt).getD [] else []

/-- Whether code block cb of a burst can be decoded now: it is not done, and its samples have been processed. -/
def codeBlockReady (s : State) (c cb : Nat) (b : Burst) : Bool :=
  cb < b.ncb && (tget (fun _ => none) b.blocks cb).isNone &&
    (b.samples.isSome || needed b (tableSum (burstTable s c b)) cb ≤ (s.link c).gained.length)

/-- Code block cb decoded on base graph 1 with Zc = 192 (R292, R312, R324): its 525 bytes when CRC24B holds, and the
iterations. -/
def decodeBlock (s : State) (c : Nat) (b : Burst) (cb : Nat) : Option (List Byte) × Nat :=
  let x := slotSample (burstSamples s c b) b.freq b.key
  let l := if b.multi then multiLlrs s c b (burstTable s c b) x cb else singleLlrs s c b x cb
  let soft := (receivedAt id 12672 l).map sat8
  let (bits, n) := ldpcDecode { bg2 := false, zc := 192 } (fun _ => dfeFld s c 31 24) (clamp 1 32 (dfeFld s c 21 16))
    4224 0 soft
  (if crc24b bits = 0 then some (bytesMsb 525 (bits.take 4200)) else none, n)

/-- Burst number i of the waiting list changed. -/
def updBurst (s : State) (c no : Nat) (f : Burst → Burst) : State :=
  let l := s.link c
  s.setLink c { l with bursts := l.bursts.map fun b => if b.no = no then f b else b }

/-! ### Records (R329) -/

/-- The stream of a burst: data byte p, none in a failed block. -/
def streamByte (blocks : Array (Option (List Byte))) (p : Nat) : Option Byte :=
  match blocks.getD (p / 523) none with
  | some l => some (l.getD (2 + p % 523) 0)
  | none => none

/-- Where the stream resumes after failed block i: FIRST of the next passing block that names a record (R329). -/
def resumeAt (blocks : Array (Option (List Byte))) (i : Nat) : Option Nat :=
  ((List.range blocks.size).filter (i < ·)).findSome? fun j =>
    match blocks.getD j none with
    | some l => if field l 0 2 < 523 then some (523 * j + field l 0 2) else none
    | none => none

/-- The first failed block of blocks i to j. -/
def failedIn (blocks : Array (Option (List Byte))) (i j : Nat) : Option Nat :=
  (List.range (j + 1)).find? fun k => i ≤ k && (blocks.getD k none).isNone

/-- The kept records from position p on, as (TYPE, header and payload). The fuel is the stream's length. -/
def keptFrom (blocks : Array (Option (List Byte))) : Nat → Nat → List (Nat × List Byte)
  | 0, _ => []
  | fuel + 1, p =>
    let total := 523 * blocks.size
    let at' (n : Nat) : List Byte := (List.range n).map fun i => (streamByte blocks (p + i)).getD 0
    let resume (i : Nat) := match resumeAt blocks i with
      | some q => if p < q then keptFrom blocks fuel q else []
      | none => []
    if total < p + 4 then []
    else match failedIn blocks (p / 523) ((p + 3) / 523) with
      | some i => resume i
      | none =>
        let len := field (at' 4) 0 2
        let type := field (at' 4) 2 1
        if type = 0xFF ∨ total < p + 4 + len then []
        else match failedIn blocks (p / 523) ((p + 3 + len) / 523) with
          | some i => resume i
          | none => (type, at' (4 + len)) :: keptFrom blocks fuel (p + 4 + len)

/-- The kept records of a burst. -/
def keptRecords (b : Burst) : List (Nat × List Byte) :=
  let blocks := ((List.range b.ncb).map fun i => (tget (fun _ => none) b.blocks i).getD none).toArray
  keptFrom blocks (523 * b.ncb + 1) 0

/-! ### Reports (R333) -/

/-- A value of a 16-bit signed field; one outside it is free (log entry 8). -/
def field16 (v : Int) : Nat := if -32768 ≤ v ∧ v ≤ 32767 then pattern 16 v else (Config.openField v).toNat

/-- MEASURE_REPORT, KIND 3, of a sync. NOISE, which R333 does not give, is free. -/
def linkMeasure (s : State) (c : Nat) (b : Burst) (sinr : Int) (blt : Nat) : State :=
  let noise := (Config.burstWord b.key 0).toNat % 2 ^ 16
  cplPost s {
    ring := ccRing s c, code := 0x32, htag := 0,
    body := cplHead c 3 b.slotK b.frame ++
      [BitVec.ofNat 32 (field16 sinr + field16 (signed 16 b.rssi * 64) * 2 ^ 16),
        BitVec.ofNat 32 (b.syncEnd % 2 ^ 16 + noise * 2 ^ 16),
        BitVec.ofInt 32 b.freq, BitVec.ofNat 32 (b.gain + blt * 2 ^ 8)] }

/-- TB_STATUS of a burst, uplink; its COOKIE, which R333 does not give, is free. -/
def linkStatus (s : State) (c : Nat) (b : Burst) (status failed : Nat) : State :=
  let cookie := dword (Config.burstWord b.key 1) (Config.burstWord b.key 2)
  tbStatus s c true b.slotK b.frame 0 { status := status, iters := b.iters, failed := failed, cookie := cookie }

/-- 2560 × log10(1 / σ²), rounded either way where it is no integer; free where it has no value (log entry 8). -/
def sinrOf (var : FVal) : Int :=
  match var with
  | .fin false m e =>
    if m = 0 then Config.openLog (vint 1).word var.word
    else
      let (n, d) := fracOf m e
      let v := floorLog 2560 d n
      if tenLe 2560 n d (-v) then v else v + b2n (Config.roundsUp v var.word.toNat)
  | _ => Config.openLog (vint 1).word var.word

/-! ### Averages (R325) -/

/-- Q_s of subcarrier s; free where the quotient has no logarithm. -/
def qOf (l : LinkState) (i : Nat) : Int :=
  let pw := tget (fun _ => (0 : Word)) l.powerAvg i
  let nw := tget (fun _ => (0 : Word)) l.noiseAvg i
  let open_ := Config.openLog pw nw
  match fdecode f32 pw.toNat, fdecode f32 nw.toNat with
  | .fin false m x, .fin false k y =>
    if m = 0 ∨ k = 0 then open_
    else
      let (a, b) := fracOf m x
      let (c, d) := fracOf k y
      floorLog 40 (a * d) (b * c)
  | _, _ => open_

/-- Every Q_s. -/
def allQ (s : State) (c : Nat) : List Int := (List.range 3300).map (qOf (s.link c))

/-- a ← a + 2^−AVG (v − a), or v itself at the first burst. -/
def averaged (first : Bool) (avg : Nat) (a v : FVal) : FVal :=
  if first then v else vadd a (vmul (stepSize avg) (vsub v a))

/-- N̄ and P̄ after a multicarrier burst. -/
def updateAverages (s : State) (c : Nat) (b : Burst) : State :=
  let l := s.link c
  let avg := s.fld (carrierBase c + 0x414) 11 8
  let ch := channelOf (slotSample (burstSamples s c b) b.freq b.key) b.syncEnd
  let next (t : Tab Word) (vs : List FVal) : Tab Word :=
    vs.mapIdx (fun i v => (averaged (!l.averaged) avg (fdecode f32 (tget (fun _ => (0 : Word)) t i).toNat) v).word)
      |>.zipIdx.foldl (fun t (w, i) => tset (fun _ => 0) t i w) []
  s.setLink c { l with
    noiseAvg := next l.noiseAvg (ch.map (·.2)), powerAvg := next l.powerAvg (ch.map (·.1.sq)), averaged := true }

/-! ### The end of a burst (R329, R333) -/

/-- LK_RXRING_BASE and N. -/
def rxRingAt (s : State) (c b : Nat) : Nat :=
  s.reg64 (carrierBase c + 0x460) + b % max 1 (s.reg (carrierBase c + 0x468)).toNat * 16384

/-- Data records in the burst's host entry, charged to the context (R267), then TB_DELIVER; bytes beyond the entry are not
written (log entry 33). -/
def deliverBurst (s : State) (c : Nat) (b : Burst) (data : List Byte) : State :=
  let l := data.take 16384
  let at' := rxRingAt s c b.no
  let s := (s.writeBytes (hostStore at') l).charge (s.carrierRecord c) acPcie l.length
  cplPost s {
    ring := ccRing s c, code := 0x30, htag := 0,
    body := cplHead c 2 b.slotK b.frame ++
      [BitVec.ofNat 32 l.length, BitVec.ofNat 32 (b.iters % 256),
        BitVec.ofNat 32 (b.no % max 1 (s.reg (carrierBase c + 0x468)).toNat), BitVec.ofNat 32 b.seq] }

/-- σ² or the mean of Q_s, as SINR in 1/256 dB; the mean rounded either way where it is no integer (log entry 8). -/
def burstSinr (s : State) (c : Nat) (b : Burst) : Int :=
  if b.multi then
    let v := 64 * (allQ s c).foldl (· + ·) 0
    v / 3300 + (if v % 3300 = 0 then 0 else b2n (Config.roundsUp v 3300))
  else sinrOf (equalise s c (slotSample (burstSamples s c b) b.freq b.key) b.syncEnd).var

/-- Whether the receiver acts on a link message's MSG (R326). -/
def messageOk (l : List Byte) : Bool := field l 4 1 = 1 || field l 4 1 = 2

/-- A burst all of whose blocks are done: averages, host entry, entries of R333 in order, and link messages. -/
def finishBurst (s : State) (c : Nat) (b : Burst) : State :=
  let s := if b.multi then updateAverages s c b else s
  let kept := keptRecords b
  let data := (kept.filter fun r => r.1 = 0).flatMap (·.2)
  let msgs := (kept.filter fun r => r.1 = 1).map (·.2)
  let failed := (List.range b.ncb).countP fun i => ((tget (fun _ => none) b.blocks i).getD none).isNone
  let s := if data.isEmpty then s else deliverBurst s c b data
  let s := if failed = 0 then s else linkStatus s c b 0 failed
  let s := linkMeasure s c b (burstSinr s c b) b.blt
  let s := lkCount s c 6 (msgs.countP fun m => !messageOk m)
  let l := s.link c
  s.setLink c { l with
    inbox := l.inbox ++ (msgs.filter messageOk).map (·.drop 4), bursts := l.bursts.filter (·.no ≠ b.no) }

/-- A burst is over: every block is done, and of a multicarrier burst the training has been received. -/
def burstOver (s : State) (c : Nat) (b : Burst) : Bool :=
  ((List.range b.ncb).all fun i => (tget (fun _ => none) b.blocks i).isSome) &&
    (!b.multi || b.samples.isSome || ofdmAt b.syncEnd 1 + 4096 ≤ (s.link c).gained.length)

/-- Every burst that is over finished, oldest first. -/
def settleBursts (s : State) (c : Nat) : State :=
  (s.link c).bursts.foldl (fun s b => if burstOver s c b then finishBurst s c b else s) s

/-- A code block of burst b queued for the LDPC engines (R324). -/
def isLinkJob (c : Nat) (b : Burst) (d : DecodeJob) : Bool := d.kind = 3 && d.cc = c && d.item = b.no

/-- The code blocks that can be decoded now queued for the LDPC engines (R324). -/
def queueLink (s : State) (c : Nat) : State :=
  dispatchAll ((s.link c).bursts.foldl (fun s b => s.forEach b.ncb fun s cb =>
    if codeBlockReady s c cb b && !(s.decodes.any fun d => isLinkJob c b d && d.cb = cb) then
      { s with decodeNo := s.decodeNo + 1, decodes := s.decodes ++ [{
        cc := c, slot := b.frame, item := b.no, cb := cb, kind := 3, record := 0, llrOff := 0, e := 0, maxIter := 0,
        offsOff := 0, jobSlot := b.slotK, no := s.decodeNo }] }
    else s) s)

/-- LINK_WINDOW of context c. A false detection that the slot's last window completes is made with it. -/
def linkWindow (s : State) (c : Nat) : State :=
  if !s.ccLink c then s
  else
    let s := frontWindow s c
    match (s.link c).rx with
    | none => s
    | some (k, f) =>
      let s := if burstLen s c ≤ (s.link c).gained.length then closeSlot (falseDetection s c) c k f else s
      queueLink (settleBursts s c) c

/-! ### The header (R311, R322, R328) -/

/-- Blocks of a burst that fail without being decoded. -/
def failAll (b : Burst) : Burst :=
  { b with blocks := (List.range b.ncb).map fun i => (i, some none) }

/-- A burst with a valid header joins those being worked on. A header that names a table not held fails its blocks, as
does one with a reserved MCS. -/
def admitBurst (s : State) (c : Nat) (b : Burst) : State :=
  let l := s.link c
  let s := s.setLink c { l with rxCount := l.rxCount + 1, lastBlt := if b.multi then some b.blt else l.lastBlt }
  let s := s.setFld (carrierBase c + 0x44C) 15 8 b.blt
  let missing := b.multi && (tableOf l.rxTables b.blt).isNone
  let useless := !mcsOk b.multi b.mcs || b.multi && tableSum (burstTable s c b) = 0
  let s := if missing then lkCount s c 5 b.ncb else if useless then lkCount s c 4 b.ncb else s
  let b := if missing || useless then failAll b else b
  let l := s.link c
  queueLink (settleBursts (s.setLink c { l with bursts := l.bursts ++ [b] }) c) c

/-- The sync whose header is decoded next: that of a slot that is over, or that of the present slot once the header's
samples have been processed. -/
def headerDue (s : State) (c : Nat) : Option Synced :=
  let l := s.link c
  match l.waiting with
  | y :: _ => some y
  | [] => match l.rx, l.syncEnd with
    | some (k, f), some q =>
      let st := s.reg (carrierBase c + 0x440)
      if lkFront s c ≠ 2 || l.gained.length < q + 200 then none
      else some {
        slotK := k, frame := f, samples := l.gained.reverse, syncEnd := q, freq := l.freq, gain := bits st 23 16,
        rssi := bits st 15 0 }
    | _, _ => none

/-- The header of a sync is no longer to be decoded. -/
def headerTaken (l : LinkState) : LinkState :=
  match l.waiting with
  | _ :: r => { l with waiting := r }
  | [] => { l with syncEnd := none }

/-- LINK_HEADER_DECODE: the header of the next sync. Every sync gets its MEASURE_REPORT (R333). -/
def headerDecode (s : State) (c : Nat) : State :=
  match headerDue s c with
  | none => s
  | some y =>
    if !s.ccLink c then s
    else
      let l := s.link c
      let key := burstKey c y.frame y.slotK
      let t := equalise s c (slotSample y.samples.toArray y.freq key) y.syncEnd
      let h := headerBits s c t
      let v := bitsNat (h.take 32)
      let b : Burst := {
        slotK := y.slotK, frame := y.frame, no := l.rxCount, multi := v.testBit 31, mcs := slice v 30 27,
        ncb := slice v 26 17, blt := slice v 16 9, seq := slice v 8 0,
        samples := if l.waiting.isEmpty then none else some y.samples, freq := y.freq, key := key, gain := y.gain,
        rssi := y.rssi, syncEnd := y.syncEnd }
      let s := s.setLink c (headerTaken l)
      if headerOk h then admitBurst s c b
      else
        let s := linkStatus (lkCount s c 2 1) c b 6 0
        linkMeasure s c b (sinrOf t.var) ((Config.burstWord key 3).toNat % 256)

/-! ### Commands -/

/-- A code block cb that an engine decodes, the oldest, and its burst (R294, R324). -/
def linkJob (s : State) (c cb : Nat) : Option (DecodeJob × Burst) :=
  (s.decodes.find? fun d => d.kind = 3 && d.cc = c && d.cb = cb && d.engine.isSome).bind fun d =>
    ((s.link c).bursts.find? (·.no = d.item)).map fun b => (d, b)

/-- LINK_CODE_BLOCK_DECODE: an engine finishes code block cb. -/
def linkDecode (s : State) (c cb : Nat) : State :=
  match linkJob s c cb with
  | none => s
  | some (d, b) =>
    let (r, n) := decodeBlock s c b cb
    let s := lkCount s c (if r.isSome then 3 else 4) 1
    let s := updBurst s c b.no fun b => { b with
      blocks := tset (fun _ => none) b.blocks cb (some r), iters := max b.iters n }
    dispatchAll (settleBursts { s with decodes := s.decodes.filter (·.no ≠ d.no) } c)

/-- LINK_CODE_BLOCK_DEADLINE: the unfinished blocks of the oldest burst whose slot is over fail. -/
def linkDeadline (s : State) (c : Nat) : State :=
  match (s.link c).bursts.find? (·.samples.isSome) with
  | none => s
  | some b =>
    let open_ := (List.range b.ncb).filter fun i => (tget (fun _ => none) b.blocks i).isNone
    let s := lkCount s c 4 open_.length
    let s := updBurst s c b.no fun b => { b with
      blocks := open_.foldl (fun t i => tset (fun _ => none) t i (some none)) b.blocks }
    dispatchAll (settleBursts { s with decodes := s.decodes.filter (!isLinkJob c b ·) } c)

def execLinkWindow (c : Carrier) (s : State) : Host.Outcome State Fault Refusal := .next (s.act fun s => linkWindow s c)

def execLinkFalseDetection (c : Carrier) (s : State) : Host.Outcome State Fault Refusal :=
  .next (s.act fun s => falseDetection s c)

def execLinkHeaderDecode (c : Carrier) (s : State) : Host.Outcome State Fault Refusal :=
  .next (s.act fun s => headerDecode s c)

def execLinkCodeBlockDecode (c : Carrier) (cb : Nat) (s : State) : Host.Outcome State Fault Refusal :=
  .next (s.act fun s => linkDecode s c cb)

def execLinkCodeBlockDeadline (c : Carrier) (s : State) : Host.Outcome State Fault Refusal :=
  .next (s.act fun s => linkDeadline s c)

end Sys2Proof.Machine
end

