-- ==== Sys2Proof/Machine/LinkTx.lean ====
section
/-! DEFINITION. LinkTx.lean: transmission of Nuzan Link bursts, bit loading, and the enable of a LINK context (R307, R309,
R314, R325–R327, R330–R332, R334).

A burst leaves the device as the signs and bits that its symbols carry, with the eCPRI messages of its samples (R308,
R310–R313). The waveform is computed from the symbols; the level and rounding of a sample are free (log entry 56). -/

namespace Sys2Proof.Machine

/-! ### Capacity (R314) -/

/-- NCB_max of a burst slot, by mode, MCS and Σb; a reserved MCS carries no blocks (log entry 56). -/
def ncbMax (s : State) (c : Nat) (multi : Bool) (mcs sum : Nat) : Nat :=
  let n := burstLen s c - s.fld (carrierBase c + 0x400) 15 4 - s.fld (carrierBase c + 0x404) 27 16
  if !mcsOk multi mcs then 0
  else min 1023 (if multi then (n - 384 - 8704) / 4352 * sum / mcsE true mcs
    else (n / 2 - 192) * mcsQm mcs / mcsE false mcs)

/-- LK_TXMODE: MODE and MCS. -/
def txMulti (s : State) (c : Nat) : Bool := s.flag (carrierBase c + 0x404) 4
def txMcs (s : State) (c : Nat) : Nat := s.fld (carrierBase c + 0x404) 3 0

/-- The BLT that bursts of frame f use: one acknowledged in an earlier frame is switched to at f's tick (R327). -/
def bltAt (l : LinkState) (f : Word) : Nat :=
  match l.txNext with
  | some (blt, some g) => if 0 < (f - g).toInt then blt else l.txBlt
  | _ => l.txBlt

/-- Σb of the transmit table a BLT names. -/
def txSum (s : State) (c blt : Nat) : Nat := tableSum ((tableOf (s.link c).txTables blt).getD [])

/-! ### Enabling (R307, R327) -/

/-- b = 2 on every subcarrier. -/
def defaultTable : Tab (Option (Nat × List Nat)) := [(0, some (0, List.replicate 3300 2))]

/-- LK_TXQ_BASE and SIZE. -/
def txqBase (s : State) (c : Nat) : Nat := s.reg64 (carrierBase c + 0x454)
def txqSize (s : State) (c : Nat) : Nat := (s.reg (carrierBase c + 0x45C)).toNat

/-- Whether the queue and the ring of received bursts are within the ranges of Registers and R330. -/
def linkRangesOk (s : State) (c : Nat) : Bool :=
  let n := txqSize s c
  let m := (s.reg (carrierBase c + 0x468)).toNat
  txqBase s c % 4096 = 0 && isPow2 n && 2 ^ 16 ≤ n && n ≤ 2 ^ 24 && inUserHbm (txqBase s c) (4096 + n) &&
    s.reg64 (carrierBase c + 0x460) % 16384 = 0 && isPow2 m && 16 ≤ m && m ≤ 4096

/-- The reason for which ENABLE is refused for a LINK context, 0 none (R277, R278, R307). -/
def linkCause (s : State) (c : Nat) : Nat :=
  let others := (List.range 24).countP fun x => x ≠ c && s.ccLink x
  if 8 ≤ others then 3
  else if !linkExists s (ccLinkNo s c) then 4
  else if 1 < s.ccMu c || s.flag (carrierBase c + 0x400) 0 && s.ccMu c = 1 || ncbMax s c false 0 0 = 0 ||
      !linkRangesOk s c then 5
  else 0

/-- CONS written by the device. -/
def writeCons (s : State) (c : Nat) (v : Word) : State := memWrite s (txqBase s c + 4) (natLE 4 v.toNat) .ledger

/-- A LINK context is enabled. Samples from its present frame on are on time. -/
def linkStart (s : State) (c : Nat) : State :=
  let s := s.setLink c { rxTables := defaultTable, txTables := defaultTable, done := (s.ccSlot c).toNat * frameLen s c }
  let s := (s.setReg (carrierBase c + 0x444) 0).setReg (carrierBase c + 0x44C) 0
  writeCons (s.setFld (carrierBase c + 0x440) 28 28 0) c 0

/-! ### The transmit queue (R330–R332) -/

/-- n bytes of the queue's ring from count v on. -/
def ringRead (s : State) (c : Nat) (v : Word) (n : Nat) : List Byte × State :=
  let size := max 1 (txqSize s c)
  let off := v.toNat % size
  let base := txqBase s c + 4096
  if off + n ≤ size then memRead s (base + off) n .ledger
  else
    let (a, s) := memRead s (base + off) (size - off) .ledger
    let (b, s) := memRead s base (n - (size - off)) .ledger
    (a ++ b, s)

/-- PROD and CONS as they stand in HBM. -/
def readProd (s : State) (c : Nat) : Word × State :=
  let (l, s) := memRead s (txqBase s c) 4 .ledger
  (BitVec.ofNat 32 (leNat l), s)
def readCons (s : State) (c : Nat) : Word := BitVec.ofNat 32 (s.readLE (txqBase s c + 4) 4)

/-- LK_TXQ_STATUS has a bit at 1. -/
def txqStopped (s : State) (c : Nat) : Bool := s.fld (carrierBase c + 0x46C) 1 0 ≠ 0

/-- The bytes of the queue that bursts not yet sent have taken. -/
def unsentBytes (l : LinkState) : Nat :=
  (l.txBursts.map (·.consumed)).foldl (· + ·) 0 + (match l.sending with
    | some b => b.consumed
    | none => 0)

/-- A burst being filled: the queue position, the bytes of its records, and the packets skipped. -/
structure Fill where
  st : State
  pos : Word
  bytes : List Byte
  dropped : Nat := 0
  bad : Bool := false

/-- Packets taken in order up to PROD, into a burst of `cap` bytes (R331, R332). A skip that would pass PROD is malformed
(log entry 56). The fuel is the number of places a header can stand. -/
def takePackets (c cap : Nat) (prod : Word) : Nat → Fill → Fill
  | 0, x => x
  | fuel + 1, x =>
    if x.pos = prod then x
    else
      let (h, st) := ringRead x.st c x.pos 4
      let x := { x with st := st }
      let len := field h 0 2
      let rest := (prod - x.pos).toNat
      let skip := txqSize st c - x.pos.toNat % max 1 (txqSize st c)
      let padded := (4 + len + 7) / 8 * 8
      if field h 2 1 ≠ 0 ∨ len = 0 ∨ (9216 < len ∧ len ≠ 0xFFFF) ∨ rest < (if len = 0xFFFF then skip else padded) then
        { x with bad := true }
      else if len = 0xFFFF then takePackets c cap prod fuel { x with pos := x.pos + BitVec.ofNat 32 skip }
      else if cap < 4 + len then
        takePackets c cap prod fuel { x with pos := x.pos + BitVec.ofNat 32 padded, dropped := x.dropped + 1 }
      else if cap < x.bytes.length + 4 + len then x
      else
        let (l, st) := ringRead x.st c x.pos (4 + len)
        takePackets c cap prod fuel
          { x with st := st, pos := x.pos + BitVec.ofNat 32 padded, bytes := x.bytes ++ l }

/-- The record of a link message (R326, R329). -/
def messageRecord (m : List Byte) : List Byte := natLE 2 m.length ++ [1, 0] ++ m

/-- The messages of the outbox that fit a burst of `cap` bytes: their records, how many they are, and whether a BL_ACK
for `ack` is among them. -/
def takeMessages (cap : Nat) : List (List Byte) → List Byte → Nat → List Byte × Nat
  | [], bytes, n => (bytes, n)
  | m :: r, bytes, n =>
    if cap < bytes.length + 4 + m.length then (bytes, n) else takeMessages cap r (bytes ++ messageRecord m) (n + 1)

/-- Burst slot k of frame f filled: link messages, then packets up to PROD, then an end record. -/
def fillBurst (s : State) (c : Nat) (prod : Word) (f : Word) (k : Nat) : State :=
  let l := s.link c
  let multi := txMulti s c
  let blt := bltAt l f
  let most := ncbMax s c multi (txMcs s c) (txSum s c blt)
  let cap := 523 * most
  let (bytes, n) := takeMessages cap l.outbox [] 0
  let pos := readCons s c + BitVec.ofNat 32 (unsentBytes l)
  let x : Fill := { st := s, pos := pos, bytes := bytes }
  let x := if txqStopped s c || !mcsOk multi (txMcs s c) then x
    else takePackets c cap prod (txqSize s c / 8 + 1) x
  let s := lkCount x.st c 7 (x.dropped + b2n x.bad)
  let s := if x.bad then s.orReg (carrierBase c + 0x46C) 2 else s
  let acked := (l.outbox.take n).any fun m => m.headD 0 = 2
  let next := match l.txNext with
    | some (blt, none) => if acked then some (blt, some f) else l.txNext
    | y => y
  s.setLink c { s.link c with
    outbox := l.outbox.drop n, txNext := next,
    txBursts := l.txBursts ++ [{
      frame := f, slotK := k, multi := multi, mcs := txMcs s c, blt := if multi then blt else 0,
      ncb := min most ((x.bytes.length + 522) / 523), msgs := l.outbox.take n, bytes := x.bytes,
      consumed := (x.pos - pos).toNat }] }

/-- The checks of R331 before bursts are filled: CONS set to PROD after the status bits have been cleared, and
OVERRUN. -/
def checkQueue (s : State) (c : Nat) (prod : Word) : State :=
  let l := s.link c
  let s := if l.resync then
      let s := writeCons s c prod
      s.setLink c { l with
        resync := false, txBursts := l.txBursts.map fun b => { b with consumed := 0 },
        sending := l.sending.map fun b => { b with consumed := 0 } }
    else s
  if txqSize s c < (prod - readCons s c).toNat then s.orReg (carrierBase c + 0x46C) 1 else s

/-! ### Bit loading (R325–R327) -/

/-- c_s for a value of Q_s (R325). -/
def loadFor (s : State) (c : Nat) (q : Int) : Nat :=
  let margin := s.fld (carrierBase c + 0x414) 7 0
  (List.range 10).foldl (fun b i =>
    if ((s.fld (carrierBase c + 0x418 + 4 * i) 7 0 + margin : Nat) : Int) ≤ q then i + 1 else b) 0

/-- The six BL_TABLE messages of a table (R326). -/
def tableParts (blt : Nat) (l : List Nat) : List (List Byte) :=
  (List.range 6).map fun p =>
    [1, BitVec.ofNat 8 blt, BitVec.ofNat 8 p] ++ (List.range 275).map fun i =>
      BitVec.ofNat 8 (l.getD (550 * p + 2 * i) 0 + 16 * l.getD (550 * p + 2 * i + 1) 0)

/-- LK_BLSTAT.[16], proposal outstanding. -/
def setOutstanding (s : State) (c v : Nat) : State := s.setFld (carrierBase c + 0x44C) 16 16 v

/-- A proposal at a frame tick, when R327 calls for one. -/
def propose (s : State) (c : Nat) : State :=
  let l := s.link c
  match l.lastBlt.bind fun b => (tableOf l.rxTables b).map fun t => (b, t) with
  | none => s
  | some (blt, u) =>
    if l.proposal.isSome || !l.averaged then s
    else
      let q := allQ s c
      let t := q.map (loadFor s c)
      let far := ((t.zip u).map fun (a, b) => ((a : Int) - b).natAbs).foldl (· + ·) 0
      if far < s.fld (carrierBase c + 0x414) 27 16 ∧ ((t.zip u).all fun (a, b) => b ≤ a) then s
      else
        let v := if l.lastVersion = 127 then 1 else l.lastVersion + 1
        let id := 1 - blt / 128
        let new := id * 128 + v
        let s := lkCount (setOutstanding s c 1) c 8 1
        s.setLink c { l with
          lastVersion := v, rxTables := tset (fun _ => none) l.rxTables id (some (v, t)),
          outbox := l.outbox ++ tableParts new t, proposal := some { blt := new, table := t, frames := 0 } }

/-- The new table is used from the first frame tick after the frame in which its BL_ACK was sent. -/
def switchTable (s : State) (c : Nat) (f : Word) : State :=
  let l := s.link c
  match l.txNext with
  | some (blt, some g) =>
    if 0 < (f - g).toInt then
      (s.setLink c { l with txBlt := blt, txNext := none }).setFld (carrierBase c + 0x44C) 7 0 blt
    else s
  | _ => s

/-- The packets of a burst given back to the queue: it keeps its link messages alone. -/
def withoutPackets (b : TxBurst) : TxBurst :=
  let l := b.msgs.flatMap messageRecord
  { b with bytes := l, ncb := (l.length + 522) / 523, consumed := 0 }

/-- Bursts that can no longer be sent, those that `p` picks, forgotten: their link messages go back to the outbox, and
the packets of the first of them and of every burst behind it are taken from the queue again, so that CONS passes none
that was not sent (R332). A BL_ACK among the messages is not sent yet (R327). -/
def dropMissed (s : State) (c : Nat) (p : TxBurst → Bool) : State :=
  let l := s.link c
  let gone := l.txBursts.filter p
  if gone.isEmpty then s
  else
    let back := (l.txBursts.dropWhile (!p ·)).any (0 < ·.consumed)
    let kept := l.txBursts.takeWhile (!p ·) ++
      ((l.txBursts.dropWhile (!p ·)).filter (!p ·)).map fun b => if back then withoutPackets b else b
    let msgs := gone.flatMap (·.msgs)
    let next := match l.txNext with
      | some (blt, some g) => if msgs.any (·.headD 0 = 2) && gone.any (·.frame = g) then some (blt, none) else l.txNext
      | y => y
    s.setLink c { l with txBursts := kept, outbox := msgs ++ l.outbox, txNext := next }

/-- The frame tick that starts frame f of context c. Bursts whose slots are over without having been sent are
forgotten. -/
def frameTick (s : State) (c : Nat) : State :=
  let f := s.ccSlot c
  if !s.ccLink c then s
  else if !s.ccEnabled c then s.setLink c { s.link c with txBursts := [] }
  else
    let s := switchTable (dropMissed s c fun b => (b.frame - f).toInt < 0) c f
    let l := s.link c
    let s := s.setLink c { l with proposal := l.proposal.map fun p => { p with frames := p.frames + 1 } }
    let s := propose s c
    let (prod, s) := readProd s c
    let s := checkQueue s c prod
    let s := s.setFld (carrierBase c + 0x44C) 17 17 (b2n (txSum s c (s.link c).txBlt = 0))
    s.forEach 8 fun s k =>
      if s.flag (carrierBase c + 0x400) (24 + k) then fillBurst s c prod (f + 1) k else s

/-! ### Burst slots (R309) -/

/-- The burst that was being sent has been sent: CONS passes its packets, unless a status bit is 1 (R331, R332). -/
def burstSent (s : State) (c : Nat) : State :=
  let l := s.link c
  match l.sending with
  | none => s
  | some b =>
    let s := s.setLink c { l with sending := none }
    if b.consumed = 0 ∨ txqStopped s c then s else writeCons s c (readCons s c + BitVec.ofNat 32 b.consumed)

/-- The header word of a burst (R311). -/
def headerWord (b : TxBurst) (seq : Nat) : Word :=
  BitVec.ofNat 32 (b2n b.multi * 2 ^ 31 + b.mcs * 2 ^ 27 + b.ncb * 2 ^ 17 + b.blt * 2 ^ 9 + seq % 512)

/-- The signs of the symbols before the payload: preamble, sync word, and the header twice (Table 11.1). -/
def leadSigns (sync header : Word) : List Bool :=
  let h := natBits 32 header.toNat
  let h := h ++ natBits 16 (crcBits 16 0x1021 0xFFFF h)
  (List.range 64).map (fun k => !(0xE6A1 : Nat).testBit (15 - k % 16)) ++
    (List.range 32).map (fun k => !bit sync (31 - k)) ++ h ++ h

/-- Where the records of a stream start, the end record behind the last of them included (R329). -/
def recordStarts (l : List Byte) : Nat → Nat → List Nat
  | 0, _ => []
  | n + 1, p => if l.length ≤ p then [p] else p :: recordStarts l n (p + 4 + field l p 2)

/-- Byte i of a burst's stream of n bytes: its records, an end record where one fits, and bytes that the manual leaves
open. -/
def sentByte (l : List Byte) (n key i : Nat) : Byte :=
  if i < l.length then l.getD i 0
  else if i = l.length + 2 ∧ l.length + 4 ≤ n then 0xFF
  else Config.openPad key i

/-- The 525 bytes of code block cb of a burst of ncb blocks: FIRST and 523 bytes of the stream (R329). -/
def blockData (l : List Byte) (ncb key cb : Nat) : List Byte :=
  let starts := (recordStarts l (l.length + 1) 0).filter fun p => p < l.length || p + 4 ≤ 523 * ncb
  let first := match starts.find? fun p => 523 * cb ≤ p && p < 523 * (cb + 1) with
    | some p => p - 523 * cb
    | none => 0xFFFF
  natLE 2 first ++ (List.range 523).map fun i => sentByte l (523 * ncb) key (523 * cb + i)

/-- The E bits of a code block: 4,200 payload bits and their CRC24B, encoded (R312). -/
def codedBlock (data : List Byte) (e : Nat) : List Bool :=
  let p := bitsMsb data
  linkCoded (p ++ natBits 24 (crc24b p)) e

/-- A block interleaved with Qm: bit i × Qm + j is bit j × E/Qm + i (R312). -/
def interleaved (qm : Nat) (l : List Bool) : List Bool :=
  (List.range l.length).map fun m => l.getD (m % qm * (l.length / qm) + m / qm) false

/-- Bits shared out in groups of the given sizes, 0 behind the last of them. -/
def shareBits : List Nat → List Bool → List (List Bool)
  | [], _ => []
  | b :: r, l => (List.range b).map (fun i => l.getD i false) :: shareBits r (l.drop b)

/-- The payload of a burst: NCB × E / Qm symbols, or OFDM symbols with the bits of the table's subcarriers (R312, R313).
-/
def burstPayload (b : TxBurst) (table : List Nat) (key : Nat) : List (List (List Bool)) :=
  let e := mcsE b.multi b.mcs
  let blocks := (List.range b.ncb).map fun cb => codedBlock (blockData b.bytes b.ncb key cb) e
  if b.multi then
    let sum := tableSum table
    let l := blocks.flatten
    (List.range ((l.length + sum - 1) / sum)).map fun i => shareBits table (l.drop (i * sum))
  else
    let qm := mcsQm b.mcs
    let l := (blocks.map (interleaved qm)).flatten
    (List.range (l.length / qm)).map fun i => [(l.drop (i * qm)).take qm]

/-! ### The waveform (R310, R312, R313) -/

/-- The value of a constellation point by its bits; none of them carry 0. -/
def pointOf (l : List Bool) : Cx := (((constellation l.length).find? (·.bits = l)).map (·.val)).getD .zero

/-- Sample n of single-carrier symbols, each shaped by the pulse about the second of its two samples (log entry 56). -/
def pulseSample (syms : List Cx) (n : Nat) : Cx :=
  csum (syms.mapIdx fun k x => x.scale (pulse ((n : Int) - (2 * k + 1))))

/-- Sample m of an OFDM symbol with these data values, its prefix included (R313). -/
def ofdmSample (vals : List Cx) (m : Nat) : Cx :=
  let n := (m + 4096 - 256) % 4096
  csum (vals.mapIdx fun i x => x.mul (turn (binOf i * n % 4096 * 2 ^ 20)).conj)

/-- The samples of a burst, from the signs and bits that its symbols carry. -/
def burstWave (multi : Bool) (lead training : List Bool) (payload : List (List (List Bool))) : List (Int × Int) :=
  let out (ofdm : Bool) (v : Cx) : Int × Int :=
    let x := Config.txSample ofdm v.words
    (clampInt (-32768) 32767 x.1, clampInt (-32768) 32767 x.2)
  let head := lead.map diag
  let single (syms : List Cx) := (List.range (2 * syms.length)).map fun n => out false (pulseSample syms n)
  let symbol (vals : List Cx) := (List.range 4352).map fun m => out true (ofdmSample vals m)
  if multi then
    let t := symbol (training.map fun neg => ⟨vint (if neg then -1 else 1), vzero⟩)
    single head ++ t ++ t ++ payload.flatMap fun l => symbol (l.map pointOf)
  else single (head ++ payload.map fun l => pointOf l.flatten)

/-- The 12-sample blocks of a burst's samples, the last filled up with zeros, coded with CC_COMP's DL fields (R308). -/
def sampleBlocks (s : State) (c : Nat) (l : List (Int × Int)) : List PrbData :=
  (List.range ((l.length + 11) / 12)).map fun i =>
    codePrb (ccMeth s c 16) (ccWidth s c 16) ((List.range 12).flatMap fun j =>
      let x := l.getD (12 * i + j) (0, 0)
      [x.1, x.2])

/-- Blocks that one message of the context's link holds: what its port's MTU leaves of the eCPRI header and R308's (log
entry 56). -/
def blocksPerMessage (s : State) (c : Nat) : Nat :=
  let mtu := clamp 1500 9216 (s.fld (0x0030_0000 + ccLinkNo s c / 4 * 0x1000) 31 16)
  let w := if ccMeth s c 16 = 1 then ccWidth s c 16 else 16
  max 1 (8 * (mtu - 16) / (24 * w + if ccMeth s c 16 = 1 then 8 else 0))

/-- The messages of blocks that start at OFFSET `off` of frame f, with sequence numbers from q on (R308). -/
def messagesOf (s : State) (c : Nat) (f : Word) : Nat → Nat → Nat → List PrbData → List LinkMessage
  | 0, _, _, _ => []
  | fuel + 1, q, off, l =>
    if l.isEmpty then []
    else
      let n := blocksPerMessage s c
      let air := slotStart s c f + (off * (slotNs (s.ccMu c) * 2 ^ 16) / frameLen s c : Nat)
      { seq := q, frame := f, offset := off, blocks := l.take n,
        due := air - s.fld (carrierBase c + 0x14) 15 0 * windowUnit } ::
          messagesOf s c f fuel ((q + 1) % 256) (off + 12 * n) (l.drop n)

/-- A burst as it is sent in burst slot k of frame f, TXOFF samples after the slot's start: number `n` of its context, its
first message with sequence number q. -/
def sentBurst (s : State) (c : Nat) (f : Word) (k : Nat) (b : TxBurst) (n q : Nat) : Sent :=
  let table := (tableOf (s.link c).txTables b.blt).getD []
  let lead := leadSigns (lkSync s c) (headerWord b n)
  let training := if b.multi then trainingSigns 3300 0x7FFF else []
  let payload := burstPayload b table (burstKey c f k)
  let blocks := sampleBlocks s c (burstWave b.multi lead training payload)
  .burst c f k b.multi lead training payload
    (messagesOf s c f blocks.length q (k * burstLen s c + s.fld (carrierBase c + 0x404) 27 16) blocks)

/-- The messages of a burst that leaves. -/
def Sent.messages : Sent → List LinkMessage
  | .burst _ _ _ _ _ _ _ l => l
  | _ => []

/-- A burst sent: each of its messages is a frame of the context's link and takes a sequence number of its eAxC. -/
def sendBurst (s : State) (c : Nat) (f : Word) (k : Nat) (b : TxBurst) : State :=
  let x := s.carrier c
  let q := tget (fun _ => 0) x.seqTx (eaxcOf s c 0)
  let y := sentBurst s c f k b (s.link c).txCount q
  let s := (s.setCarrier c { x with
    seqTx := tset (fun _ => 0) x.seqTx (eaxcOf s c 0) ((q + y.messages.length) % 256) }).send y
  if s.portDown (fhPort (ccLinkNo s c)) then s else s.bump (fhBase (ccLinkNo s c) + 0x2C) y.messages.length

/-- BURST_SLOT_START of burst slot k: the burst of a transmit slot is sent; a receive slot waits for the burst front,
which follows the air by CC_ULWIN.CLOSE. -/
def burstSlotStart (s : State) (c k : Nat) : State :=
  if !s.ccLink c then s
  else
    let f := s.ccSlot c
    let sends := s.flag (carrierBase c + 0x400) (24 + k)
    let missed (b : TxBurst) : Bool := (b.frame - f).toInt < 0 || b.frame = f && (b.slotK < k || b.slotK = k && !sends)
    let s := dropMissed (burstSent s c) c missed
    let l := s.link c
    if sends then
      match l.txBursts.find? fun b => b.frame = f && b.slotK = k with
      | none => s
      | some b =>
        let s := sendBurst s c f k b
        s.setLink c { l with
          txCount := l.txCount + 1, sending := some b,
          txBursts := l.txBursts.filter fun x => !(x.frame = f && x.slotK = k) }
    else if s.ccEnabled c then s.setLink c { l with rxNext := l.rxNext ++ [(k, f)] }
    else s

/-! ### Link messages and the status bits -/

/-- The first received message with this MSG, and the others. -/
def takeInbox (l : LinkState) (m : Byte) : Option (List Byte × List (List Byte)) :=
  (l.inbox.find? fun x => x.headD 0 = m).map fun x => (x, l.inbox.erase x)

/-- The 550 entries of a BL_TABLE part. -/
def partEntries (m : List Byte) : List Nat := (bytesAt m 3 275).flatMap fun b => [b.toNat % 16, b.toNat / 16]

/-- A valid part: complete, PART 0–5, and no entry above 10. -/
def partOk (m : List Byte) : Bool := m.length = 278 && field m 2 1 ≤ 5 && (partEntries m).all (· ≤ 10)

/-- BL_TABLE: the oldest received part is stored; with six of one BLT the table is stored and acknowledged (R327). -/
def blTable (s : State) (c : Nat) : State :=
  match takeInbox (s.link c) 1 with
  | none => s
  | some (m, rest) =>
    let l := { s.link c with inbox := rest }
    if !partOk m then lkCount (s.setLink c l) c 6 1
    else
      let blt := field m 1 1
      let id := blt / 128
      let old : TableParts := match tget (fun _ => none) l.parts id with
        | some x => if x.blt = blt then x else ⟨blt, []⟩
        | none => ⟨blt, []⟩
      let held := tset (fun _ => []) old.held (field m 2 1) (partEntries m)
      if held.length < 6 then
        s.setLink c { l with parts := tset (fun _ => none) l.parts id (some ⟨blt, held⟩) }
      else
        s.setLink c { l with
          parts := tset (fun _ => none) l.parts id none,
          txTables := tset (fun _ => none) l.txTables id (some (blt % 128, held.flatMap (·.2))),
          outbox := l.outbox ++ [[2, BitVec.ofNat 8 blt]], txNext := some (blt, none) }

/-- BL_ACK: the oldest received acknowledgement ends the proposal it names (R327, R328). -/
def blAck (s : State) (c : Nat) : State :=
  match takeInbox (s.link c) 2 with
  | none => s
  | some (m, rest) =>
    let l := { s.link c with inbox := rest }
    match l.proposal with
    | some p =>
      if p.blt = field m 1 1 then setOutstanding (s.setLink c { l with proposal := none }) c 0 else s.setLink c l
    | none => s.setLink c l

/-- BL_RETRANSMIT: RETX frames have passed without the BL_ACK. -/
def blRetransmit (s : State) (c : Nat) : State :=
  let l := s.link c
  match l.proposal with
  | none => s
  | some p =>
    if s.ccEnabled c ∧ s.fld (carrierBase c + 0x414) 31 28 ≤ p.frames then
      lkCount (s.setLink c { l with
        outbox := l.outbox ++ tableParts p.blt p.table, proposal := some { p with frames := 0 } }) c 8 1
    else s

/-- LK_TXQ_STATUS written: ones clear its bits, and when the set bits are all cleared the queue resumes (R331). -/
def txqClear (s : State) (c : Nat) (v : Word) : State :=
  let o := carrierBase c + 0x46C
  let was := txqStopped s c
  let s := s.setReg o (s.reg o &&& ~~~(v &&& 3))
  if was && !txqStopped s c then s.setLink c { s.link c with resync := true } else s

def execBurstSlotStart (c : Carrier) (k : Fin 8) (s : State) : Host.Outcome State Fault Refusal :=
  .next (s.act fun s => burstSlotStart s c k)

def execBlTable (c : Carrier) (s : State) : Host.Outcome State Fault Refusal := .next (s.act fun s => blTable s c)

def execBlAck (c : Carrier) (s : State) : Host.Outcome State Fault Refusal := .next (s.act fun s => blAck s c)

def execBlRetransmit (c : Carrier) (s : State) : Host.Outcome State Fault Refusal :=
  .next (s.act fun s => blRetransmit s c)

def execLkTxqStatusClear (c : Carrier) (val : Word) (s : State) : Host.Outcome State Fault Refusal :=
  .next (s.written .pcie fun s => txqClear s c val)

end Sys2Proof.Machine
end

