-- ==== Sys2Proof/Machine/Ticks.lean ====
section
/-! DEFINITION. Ticks.lean: commit of staged registers and the slot ticks (R10–R13, R17, R18, R133, R354–R356). -/

namespace Sys2Proof.Machine

/-! ### Commit (R10, R11) -/

/-- The staged words of the registers that `p` picks. -/
def stagedOf (s : State) (p : Nat → Bool) : List (Nat × Word) :=
  s.shadows.filterMap fun (o, w) => if p o then w.map fun w => (o, w) else none

/-- Whether a value of PT_ROW_MAP names a row that its half may retire, or none (Table 4.12). -/
def rowMapOk (lower : Bool) (v : Nat) : Bool :=
  if lower then 17 ≤ v && v ≤ 32 || v = 0x3F else v ≤ 15 || v = 0x1F

/-- A reserved value committed to a half of PT_ROW_MAP leaves the half as it was (Table 4.12). -/
def keepRowMap (old s : State) (p : Nat) : State :=
  let o := physBase p
  let s := if rowMapOk true (s.fld o 13 8) then s else s.setFld o 13 8 (old.fld o 13 8)
  if rowMapOk false (s.fld o 4 0) then s else s.setFld o 4 0 (old.fld o 4 0)

/-- A committed row map of physical tile p latched as pending, half by half (R133). -/
def latchRowMap (s : State) (p : Nat) : State :=
  [false, true].foldl (fun s lower =>
    let v := if lower then s.fld (physBase p) 13 8 else s.fld (physBase p) 4 0
    let now := if lower then s.fld (physBase p + 4) 13 8 else s.fld (physBase p + 4) 4 0
    let want := if v ≠ now then some v else none
    (s.onInteg fun g => { g with rowPending := tset (fun _ => none) g.rowPending (2 * p + b2n lower) want })) s

/-- Whether a handle is none or lies in the namespace of the job in resident slot k. -/
def handleOk (s : State) (k h : Nat) : Bool := h = 0xFFF || h < (s.job k).image.nsLen

/-- A committed CC_TALLYs word: HANDLE_ERR for a handle outside the namespace, and E_s at the count of a new READY handle
(R285). `old` is the word before. A LINK context ignores both words (R306). -/
def handlesCommitted (s : State) (c k : Nat) (ready : Bool) (o : Nat) (old : Word) : State :=
  if s.ccLink c then s else
  let s := if handleOk s k (s.fld o 11 0) && handleOk s k (s.fld o 27 16) then s else s.orReg (carrierBase c + 4) 4
  if ready && s.fld o 27 16 ≠ bits old 27 16 then
    match readyTally s c k with
    | some n => setExpected s c k (s.tally n).count
    | none => s
  else s

/-- What a committed register starts. -/
def commitHook (old s : State) (o : Nat) : State :=
  match blockOf o with
  | (.phys p, 0) => latchRowMap (keepRowMap old s p) p
  | (.carrier c, x) =>
    if 0x40 ≤ x ∧ x < 0x60 then handlesCommitted s c ((x - 0x40) / 8) ((x - 0x40) % 8 = 4) o (old.reg o) else s
  | _ => s

/-- The carriers whose proof-set registers are among these offsets. -/
def proofsIn (l : List Nat) : List Nat :=
  (List.range 24).filter fun c => l.any fun o => igBase + 0x200 + 0x10 * c ≤ o && o < igBase + 0x20C + 0x10 * c

/-- Every shadow of the registers that `p` picks copied to its active value, in one beat. -/
def commitWhere (s : State) (p : Nat → Bool) : State :=
  let l := stagedOf s p
  let s' := l.foldl (fun s x => s.setReg x.1 (blend (stagedMask x.1) (s.reg x.1) x.2)) s
  let s' := { s' with shadows := s'.shadows.filter fun x => !p x.1 }
  let s' := l.foldl (fun s' x => commitHook s s' x.1) s'
  (proofsIn (l.map (·.1))).foldl installProof s'

/-- A write of 1 to the COMMIT register at offset o. -/
def commitBlock (s : State) (o : Nat) : State := commitWhere s fun x => commitOf x = some o

/-- PENDING of the COMMIT register at offset o (Table 0.4). -/
def commitPending (s : State) (o : Nat) : Bool := !(stagedOf s fun x => commitOf x = some o).isEmpty

/-! ### Slot ticks (R18) -/

/-- TICK_MU of base n; 4–7 act as 3. -/
def tickMu (s : State) (n : Nat) : Nat := min 3 (s.fld (tbBase n) 6 4)

/-- The carrier context a register belongs to, if one. -/
def carrierOf (o : Nat) : Option Nat := match blockOf o with
  | (.carrier c, _) => some c
  | _ => none

/-- Whether the register at an offset commits at a tick of base n whose lowest numerology is mu. -/
def commitsAt (s : State) (n mu o : Nat) : Bool :=
  match carrierOf o with
  | some c => tickOf s n mu c
  | none => n = 0 && mu ≤ tickMu s 0

/-- A tick of TB0 at TICK_MU: the integrity system counts it (R376), and while checkpoints are on and a job runs every
tile has a slot checkpoint to take, if none is due already (R377). -/
def countTicks (s : State) : State :=
  let due := s.flag igBase 2 && s.anyRunning
  let old (t : Nat) : Option Nat := tget (fun _ => none) s.integ.ckptDue t
  s.onInteg fun g => { g with
    ticks := g.ticks + 1,
    ckptDue := if due then (List.range 16).foldl (fun m t =>
      tset (fun _ => none) m t (some ((old t).getD s.counter.toNat))) [] else [] }

/-- The slot number of carrier c, and the slots since its last proof. -/
def nextSlot (s : State) (c : Nat) : State :=
  let s := s.setReg (carrierBase c + 8) (s.ccSlot c + 1)
  s.setProof c { s.proof c with slotsSince := (s.proof c).slotsSince + 1 }

/-- T_n at counter value c by the record in force at that beat, in units of 2^−16 ns (R347). -/
def timeThen (s : State) (n c : Nat) : Nat :=
  match ((s.tbase n).before.filter fun r => c < r.ended).getLast? with
  | some r => timeAt r.base r.anchor r.rate c
  | none => s.timeOfAt n c

/-- The slot count of base n at numerology mu is greater at this beat than it was at the last one (R354, R355). -/
def slotGrew (s : State) (n mu : Nat) : Bool :=
  let count (t : Nat) : Int := ((t : Int) - toff s n * 2 ^ 16) / ((slotNs mu : Int) * 2 ^ 16)
  count (timeThen s n (s.counter.toNat - 1)) < count (s.timeOf n)

/-- A tick of base n is due at this beat with mu as its lowest numerology: not twice, and not for a change of slot count
that a step or a write of TOFF causes (R355, R356). -/
def tickDue (s : State) (n mu : Nat) : Bool :=
  slotGrew s n mu && (mu = 0 || !slotGrew s n (mu - 1)) && (s.tbase n).ticked ≠ some s.counter.toNat

/-- No further tick of base n in this beat. -/
def noTick (s : State) (n : Nat) : State := s.setTbase n { s.tbase n with ticked := some s.counter.toNat }

/-- What a tick of base n at numerology mu and every larger one does (R355), in the order of Table 1.1; the scan of the
submission area is the event SUBMISSION_SCAN. Whether it is a tick of the base's own TICK_MU stands before the commit. -/
def tickActs (s : State) (n mu : Nat) : State :=
  let own : Bool := mu ≤ tickMu s n
  let mine := (List.range 24).filter (tickOf s n mu)
  let s := dispatchAll (mine.foldl (fun s c => deadlineCheck s c (s.ccSlot c + 1)) s)
  let s := commitWhere s (commitsAt s n mu)
  let s := if own && n = 0 then countTicks s else s
  let s := mine.foldl frameTick (mine.foldl nextSlot s)
  if own then signalTick s n else s

/-- SLOT_TICK: a tick of base n whose lowest numerology is mu, at the beat at which it is due. -/
def slotTick (s : State) (n mu : Nat) : State := if tickDue s n mu then tickActs (noTick s n) n mu else s

def execSlotTick (n : BaseNo) (mu : Fin 4) (s : State) : Host.Outcome State Fault Refusal :=
  .next (s.actTogether fun s => slotTick s n mu)

end Sys2Proof.Machine
end

