-- ==== Sys2Proof/Machine/Time.lean ====
section
/-! DEFINITION. Time.lean: the time bases, their sources and servo, PTP, SyncE and 1PPS (R335–R356). -/

namespace Sys2Proof.Machine

/-! ### The bases (R336–R341) -/

/-- MODE, SEL and STATE of base n (Tables 12.5, 12.6). -/
def tbMode (s : State) (n : Nat) : Nat := s.fld (tbBase n + 4) 2 0
def tbSel (s : State) (n : Nat) : Nat := s.fld (tbBase n + 4) 6 4
def tbState (s : State) (n : Nat) : Nat := s.fld (tbBase n + 8) 2 0
def setTbState (s : State) (n v : Nat) (valid : Bool) : State :=
  (s.setFld (tbBase n + 8) 2 0 v).setFld (tbBase n + 8) 3 3 (b2n valid)

/-- ARMED of base n. -/
def tbArmed (s : State) (n : Nat) : Bool := s.flag (tbBase n) 1

/-- The record of base n is replaced at this beat: timestamps of earlier beats still use it (R347). -/
def keepRecord (s : State) (n : Nat) : State :=
  let b := s.tbase n
  s.setTbase n { b with before := ⟨s.counter.toNat, b.base, b.anchor.toNat, s.rate n⟩ :: b.before }

/-- The base re-anchored at this beat under its old rate, then the new rate (R338). -/
def setRate (s : State) (n : Nat) (rate : Word) : State :=
  let t := s.timeOf n
  let s := keepRecord s n
  let s := s.setTbase n { s.tbase n with base := BitVec.ofNat 80 t, anchor := s.counter }
  s.setReg (tbBase n + 0xC) rate

/-- Whether a writer may write RATE and STEP of base n: outside MANUAL the servo alone, which runs on Ledger (R343). -/
def mayWriteTime (s : State) (src : Writer) (n : Nat) : Bool := tbMode s n = 0 || src = .ledger

/-- TB_RATE_WRITE. -/
def rateWrite (s : State) (src : Writer) (n : Nat) (val : Word) : State :=
  if mayWriteTime s src n then setRate s n val else s

def execTbRateWrite (src : Writer) (n : BaseNo) (val : Word) (s : State) : Host.Outcome State Fault Refusal :=
  .next (s.written src fun s => rateWrite s src n val)

/-- Slot numbers of the contexts that base n governs follow its new time, with no tick (R356). -/
def resyncBase (s : State) (n : Nat) : State := noTick (resyncSlots s fun c => s.ccBase c = n) n

/-- A step of base n by v ns, where R339 permits it. -/
def requestStep (s : State) (n : Nat) (v : Int) : State :=
  if !tbArmed s n then raise s eStepRefused 9 n 1 (pattern 32 v)
  else if s.baseBusy n then raise s eStepRefused 9 n 2 (pattern 32 v)
  else
    let s := keepRecord s n
    let b := s.tbase n
    let s := s.setTbase n { b with base := BitVec.ofInt 80 (b.base.toNat + v * 2 ^ 16) }
    resyncBase (s.setFld (tbBase n) 1 1 0) n

/-- TB_STEP_REQUEST: TBn_STEP_LO written, with TBn_STEP_HI as it stands. -/
def stepRequest (s : State) (src : Writer) (n : Nat) (lo : Word) : State :=
  if mayWriteTime s src n then
    requestStep (s.setReg (tbBase n + 0x10) lo) n (signed 64 (dword lo (s.reg (tbBase n + 0x14))))
  else s

def execTbStepRequest (src : Writer) (n : BaseNo) (lo : Word) (s : State) : Host.Outcome State Fault Refusal :=
  .next (s.written src fun s => stepRequest s src n lo)

/-- TB_ARM (R340). -/
def armBase (s : State) (n : Nat) : State := s.setFld (tbBase n) 1 1 1

def execTbArm (n : BaseNo) (s : State) : Host.Outcome State Fault Refusal := .next (s.written .pcie fun s => armBase s n)

/-- TM_SNAP: C and the four times at one beat (R341). -/
def timeSnap (s : State) : State :=
  let s := s.setReg64 0x0020_0010 s.counter.toNat
  s.forEach 4 fun s n =>
    (s.setReg64 (tbBase n + 0x38) (s.nsOf n)).setReg (tbBase n + 0x40) (BitVec.ofNat 32 (s.timeOf n % 2 ^ 16))

def execTmSnap (s : State) : Host.Outcome State Fault Refusal := .next (s.written .pcie timeSnap)

/-- A read of TBn_TIME_LO latches the high word and the fraction (R341). -/
def timeLatch (s : State) (n : Nat) : State :=
  (s.setReg (tbBase n + 0x1C) (hiWord (s.nsOf n))).setReg (tbBase n + 0x20) (BitVec.ofNat 32 (s.timeOf n % 2 ^ 16))

/-- TB_TOFF_WRITE: class K, idle while no context that the base governs has ENABLE or ACTIVE at 1 (R356). -/
def toffWrite (s : State) (n : Nat) (hi : Bool) (val : Word) : State :=
  let o := tbBase n + 0x24 + 4 * b2n hi
  if s.reg o = val then s
  else if s.baseBusy n then raise s eLockedWrite 9 n o val.toNat
  else resyncBase (s.setReg o val) n

def execTbToffWrite (n : BaseNo) (hi : Bool) (val : Word) (s : State) : Host.Outcome State Fault Refusal :=
  .next (s.written .pcie fun s => toffWrite s n hi val)

/-! ### Sources (R343, R346) -/

/-- Whether following SEL from base m through bases in mode 4 reaches base n within `fuel` steps. A SEL of 4 or more names
no base and leads nowhere. -/
def leadsTo (s : State) (n : Nat) : Nat → Nat → Bool
  | 0, _ => false
  | fuel + 1, m => m = n || m < 4 && tbMode s m = 4 && leadsTo s n fuel (tbSel s m)

/-- The leader of base n is valid: one of the other bases, from which SEL does not lead back (R346). -/
def leaderValid (s : State) (n : Nat) : Bool := tbSel s n < 4 && !leadsTo s n 5 (tbSel s n)

/-- Base n is in mode 4 and has no valid leader. -/
def leaderless (s : State) (n : Nat) : Bool := tbMode s n = 4 && !leaderValid s n

/-- A source is selected afresh for base n: its measurements and runs begin anew. -/
def restartServo (s : State) (n : Nat) : State :=
  s.setTbase n { s.tbase n with inRun := 0, outRun := 0, meas := [], ptp := {}, lastMeas := s.counter.toNat }

/-- What the write of base n's source does to base m: HOLDOVER when it loses its leader, ACQUIRING when it gains one. -/
def leaderChange (old s : State) (m : Nat) : State :=
  if leaderless s m && !leaderless old m then raise (setTbState s m 3 false) eTimeRefLost 9 m 4 0
  else if leaderless old m && tbMode s m = 4 && leaderValid s m then setTbState (restartServo s m) m 1 true
  else s

/-- TB_SRC_WRITE: MODE 5–7 leaves MODE as it is. A new MODE or SEL begins to acquire (log entry 53). -/
def srcWrite (s : State) (n : Nat) (val : Word) : State :=
  let old := s
  let o := tbBase n + 4
  let m := fldMask (fieldsAt o) fun _ => true
  let m := if 5 ≤ bits val 2 0 then m &&& ~~~(mask 2 0) else m
  let s := s.setReg o (blend m (s.reg o) val)
  let moved := tbMode s n ≠ tbMode old n || tbSel s n ≠ tbSel old n && (tbMode s n = 1 || tbMode s n = 4)
  let s := if moved then
      setTbState (restartServo s n) n (if tbMode s n = 0 then 0 else if leaderless s n then 3 else 1)
        (tbMode s n = 4 && leaderValid s n)
    else s
  s.forEach 4 (leaderChange old)

def execTbSrcWrite (n : BaseNo) (val : Word) (s : State) : Host.Outcome State Fault Refusal :=
  .next (s.written .pcie fun s => srcWrite s n val)

/-! ### The servo (R344, R345) -/

/-- 50 ppm in RATE units. -/
def ppm50 : Int := 54975581
/-- 100 ns, 1 µs and 1 s in units of 2^−16 ns. -/
def ns100 : Nat := 6553600
def us1 : Nat := 65536000
def sec1 : Nat := 65536000000000

/-- The last rate written in LOCKED operation, or the present one. -/
def lockedRate (s : State) (n : Nat) : Int :=
  match (s.tbase n).lockedRates with
  | (_, r) :: _ => r
  | [] => s.rate n

/-- Base n takes its frequency from SyncE: SYNCE, LOCK and a source of its own (Table 12.1, R351). -/
def takesSynce (s : State) (n : Nat) : Bool :=
  s.flag (tbBase n) 2 && s.flag 0x0020_0604 0 && (1 ≤ tbMode s n && tbMode s n ≤ 3) && tbState s n ≠ 4

/-- The rate the servo asks for on an offset: the manual gives no control law, so it is free (log entry 3); on SyncE the
measured frequency, with a free correction of the phase where the base is off (log entry 102). -/
def wantedRate (s : State) (n : Nat) (off : Int) : Int :=
  if takesSynce s n then (s.reg 0x0020_0608).toInt + if off = 0 then 0 else s.freeWord.toInt else s.freeWord.toInt

/-- The servo's rate correction on an offset, within ±50 ppm of the last locked rate, at most 16 times in a second. -/
def servoRate (s : State) (n : Nat) (off : Int) : State :=
  let b := s.tbase n
  let now := s.counter.toNat
  let w := b.rateWrites.filter fun t => now < t + beatsPerSecond
  if 16 ≤ w.length then s
  else
    let l := lockedRate s n
    let r := clampInt (-2 ^ 31) (2 ^ 31 - 1) (clampInt (l - ppm50) (l + ppm50) (wantedRate s n off))
    let s := setRate s.drawFree n (BitVec.ofInt 32 r)
    let b := s.tbase n
    let rates := if tbState s n = 2 then (now, r) :: b.lockedRates.filter (fun e => now < e.1 + 60 * beatsPerSecond)
      else b.lockedRates
    s.setTbase n { b with rateWrites := now :: w, lockedRates := rates }

/-- LOCKED after 16 measurements in a row within ±100 ns, ACQUIRING after 4 in a row outside ±1 µs, or when
measurements resume after a loss. -/
def servoState (s : State) (n : Nat) (off : Int) : State :=
  let b := s.tbase n
  let i := if off.natAbs ≤ ns100 then b.inRun + 1 else 0
  let o := if us1 < off.natAbs then b.outRun + 1 else 0
  let st := tbState s n
  let st := if st = 3 ∨ st = 4 ∨ st = 0 then 1 else st
  let st := if 16 ≤ i then 2 else if st = 2 ∧ 4 ≤ o then 1 else st
  setTbState (s.setTbase n { b with inRun := i, outRun := o }) n st true

/-- TBn_OFFSET: the offset in units of 1/16 ns, saturating. -/
def storeOffset (s : State) (n : Nat) (off : Int) : State :=
  let (v, s) := s.openRound off 4096
  s.setReg (tbBase n + 0x2C) (BitVec.ofInt 32 (clampInt (-2 ^ 31) (2 ^ 31 - 1) v))

/-- One measurement processed: the offset stored, then a step by whole ns where it is armed, permitted and more than 1 µs
off, and otherwise a rate. A base in FOLLOW never steps (R345). -/
def servoProcess (s : State) (n : Nat) (off : Int) : State :=
  let s := servoState (storeOffset s n off) n off
  if tbArmed s n && us1 < off.natAbs && !s.baseBusy n && tbMode s n ≠ 4 then
    let (v, s) := s.openRound (-off) 65536
    requestStep s n v
  else servoRate s n off

/-- FALLBACK of base n: the base it names (Table 12.5). -/
def fallbackOf (s : State) (n : Nat) : Option Nat :=
  let b := s.fld (tbBase n + 4) 10 8
  if b < 4 ∧ b ≠ n then some b else none

/-- SERVO_MEASUREMENT of base n: the oldest measurement that waits; in mode 4 the offset from the leader; in FALLBACK,
towards the base named there, by rate alone. -/
def servoMeasurement (s : State) (n : Nat) : State :=
  let m := tbMode s n
  match (s.tbase n).meas with
  | off :: r =>
    if m = 0 then s else servoProcess (s.setTbase n { s.tbase n with meas := r }) n off
  | [] =>
    if m = 4 ∧ leaderValid s n then servoProcess s n ((s.timeOf n : Int) - s.timeOf (tbSel s n))
    else if tbState s n = 4 then
      match fallbackOf s n with
      | some b => servoRate s n ((s.timeOf n : Int) - s.timeOf b)
      | none => s
    else s

def execServoMeasurement (n : BaseNo) (s : State) : Host.Outcome State Fault Refusal :=
  .next (s.act fun s => servoMeasurement s n)

/-- A valid measurement of base n arrives. -/
def measured (s : State) (n : Nat) (off : Int) : State :=
  let b := s.tbase n
  s.setTbase n { b with meas := b.meas ++ [off], lastMeas := s.counter.toNat }

/-- TB_MEAS_HI_WRITE (R350). -/
def measHiWrite (s : State) (n : Nat) (hi : Word) : State :=
  let s := s.setReg (tbBase n + 0x34) hi
  if tbMode s n = 3 then measured s n (signed 64 (dword (s.reg (tbBase n + 0x30)) hi)) else s

def execTbMeasHiWrite (n : BaseNo) (hi : Word) (s : State) : Host.Outcome State Fault Refusal :=
  .next (s.written .pcie fun s => measHiWrite s n hi)

/-- The mean of the rates written in the last 60 s of LOCKED operation; the present rate where there was none. -/
def holdoverRate (s : State) (n : Nat) : State :=
  match (s.tbase n).lockedRates with
  | [] => s
  | l =>
    let (v, s) := s.openRound (l.foldl (fun a e => a + e.2) 0) l.length
    setRate s n (BitVec.ofInt 32 v)

/-- TIME_REF_LOST of base n: FALLBACK or HOLDOVER when its source has been silent for TIMEOUT (R345). The runs of
measurements begin anew when they resume. -/
def timeRefLost (s : State) (n : Nat) : State :=
  let m := tbMode s n
  let limit := max 1 (s.fld (tbBase n + 4) 31 24) * (beatsPerSecond / 10)
  if m = 0 ∨ 4 ≤ m ∨ tbState s n = 3 ∨ tbState s n = 4 ∨ s.counter.toNat < (s.tbase n).lastMeas + limit then s
  else
    let s := raise s eTimeRefLost 9 n m 0
    let s := s.setTbase n { s.tbase n with inRun := 0, outRun := 0 }
    match fallbackOf s n with
    | some b => if tbState s b = 2 || s.flag (tbBase b + 8) 3 then setTbState s n 4 false
      else holdoverRate (setTbState s n 3 false) n
    | none => holdoverRate (setTbState s n 3 false) n

def execTimeRefLost (n : BaseNo) (s : State) : Host.Outcome State Fault Refusal :=
  .next (s.act fun s => timeRefLost s n)

/-! ### PTP (R347, R349; IEEE 1588, log entry 54) -/

/-- ING and EGR of a link in units of 0.1 ns (Table 12.2). -/
def macConst (s : State) (l : Nat) (egress : Bool) : Nat :=
  match s.fld (0x0030_0000 + l / 4 * 0x1000) 1 0, egress with
  | 0, false => 928
  | 0, true => 600
  | 1, false => 1040
  | 1, true => 688
  | _, false => 1312
  | _, true => 840

/-- The timestamp of a frame at link l captured at counter value c, in units of 2^−16 × 0.1 ns. -/
def frameStamp (s : State) (l c : Nat) (egress : Bool) : Int :=
  let t : Int := timeThen s (s.fld (0x0020_0500 + l * 0x10) 1 0) c
  let trace := if egress then s.fld (0x0020_0504 + l * 0x10) 31 16 else s.fld (0x0020_0504 + l * 0x10) 15 0
  let k : Int := (macConst s l egress + trace) * 65536
  if egress then 10 * t + k else 10 * t - k

/-- The master-to-slave difference of a Sync of the selected master is known. -/
def syncDone (p : PtpPort) (t2 t1 : Int) : PtpPort := { p with sync := none, msOffset := some (t2 - t1) }

/-- The master of a port at counter value c: one that has been silent for too long is given up. -/
def PtpPort.masterAt (p : PtpPort) (c : Nat) : Option (Nat × Nat) :=
  p.best.filter fun _ => c < p.heard + Config.announceTimeout

/-- A message of base n's domain at its slave port on link l. -/
def ptpMessage (s : State) (n l : Nat) (m : PtpMsg) : State :=
  let b := s.tbase n
  let p := b.ptp
  let now := s.counter.toNat
  let set (p : PtpPort) : State := s.setTbase n { b with ptp := p }
  let mine := (p.masterAt now).map (·.1) = some m.master
  match m.kind with
  | .announce =>
    let fresh : PtpPort := { best := some (m.master, m.rank), heard := now, delaySeq := p.delaySeq }
    match p.masterAt now with
    | none => set fresh
    | some (x, r) =>
      if x = m.master then set { p with best := some (x, m.rank), heard := now }
      else if m.rank < r then set fresh else s
  | .sync =>
    if !mine then s
    else
      let t2 := frameStamp s l m.sfd false - 10 * m.correction
      if m.twoStep then set { p with sync := some (m.seq, t2) } else set (syncDone p t2 (10 * m.stamp))
  | .followUp =>
    match p.sync with
    | some (q, t2) => if mine && q = m.seq then set (syncDone p t2 (10 * (m.stamp + m.correction))) else s
    | none => s
  | .delayResp =>
    match p.t3, p.msOffset with
    | some (q, t3), some d =>
      if mine && q = m.seq then
        let sm := 10 * (m.stamp - m.correction) - t3
        let (off, s) := s.openRound (d - sm) 20
        measured (s.setTbase n { s.tbase n with ptp := { p with t3 := none } }) n off
      else s
    | _, _ => s
  | .other => s

/-- A PTP frame received on link l, for each base whose slave port stands there. -/
def ptpReceive (s : State) (l : Nat) (m : PtpMsg) : State :=
  s.forEach 4 fun s n =>
    if tbMode s n = 1 && tbSel s n = l && s.fld (tbBase n + 4) 23 16 = m.domain then ptpMessage s n l m else s

/-- The destination address of sent PTP messages (Table 12.3). -/
def ptpAddress : BitVec 48 := 0x011B_1900_0000

/-- PTP_DELAY_REQ_SEND of base n's port, once it has heard a master. -/
def delayReqSend (s : State) (n : Nat) : State :=
  let b := s.tbase n
  if tbMode s n ≠ 1 || (b.ptp.masterAt s.counter.toNat).isNone then s
  else
    let l := tbSel s n
    let q := b.ptp.delaySeq
    let t3 := frameStamp s l s.counter.toNat true
    let s := s.setTbase n { b with ptp := { b.ptp with delaySeq := (q + 1) % 2 ^ 16, t3 := some (q, t3) } }
    (s.send (.delayReq n ptpAddress (s.fld (tbBase n + 4) 23 16) q)).bump (fhBase l + 0x2C) 1

def execPtpDelayReqSend (n : BaseNo) (s : State) : Host.Outcome State Fault Refusal :=
  .next (s.act fun s => delayReqSend s n)

/-! ### SyncE and 1PPS (R351–R353) -/

/-- Link TM_SYNCE_CFG.LINK has a receive clock to recover: the link exists and its port is up. -/
def synceLink (s : State) : Bool :=
  let l := s.fld 0x0020_0600 3 1
  linkExists s l && !s.portDown (fhPort l)

/-- RCLK_OUT: the recovered clock divided to 25 MHz, by its offset from nominal in RATE units, while one is measured. -/
def rclkOut (s : State) : Option Int :=
  if s.flag 0x0020_0600 0 && synceLink s then some (s.reg 0x0020_0608).toInt else none

/-- SYNCE_GATE: the recovered clock's frequency in RATE units, when it is present; ±4.6 ppm is ±5,057,753. -/
def synceGate (s : State) (present : Bool) (freq : Int) : State :=
  if !s.flag 0x0020_0600 0 then s
  else
    let present := present && synceLink s
    let s := if present then s.setReg 0x0020_0608 (BitVec.ofInt 32 freq) else s
    s.setFld 0x0020_0604 0 0 (b2n (present && freq.natAbs ≤ 5057753))

def execSynceGate (present : Bool) (freq : Int) (s : State) : Host.Outcome State Fault Refusal :=
  .next (s.act fun s => synceGate s present freq)

/-- The offset of a time from its nearest whole second; the manual does not say which of two equally near. -/
def secondOffset (s : State) (t : Nat) : Int × State :=
  let r := t % sec1
  if 2 * r < sec1 then (r, s)
  else if 2 * r = sec1 then (if s.freeChoice then (r, s.drawFree) else ((r : Int) - sec1, s.drawFree))
  else ((r : Int) - sec1, s)

/-- PPS_IN_EDGE: captured, and a measurement of every base in mode 2 (R352). -/
def ppsIn (s : State) : State :=
  let s := (s.setReg64 0x0020_0408 s.counter.toNat).bump 0x0020_0410 1
  s.forEach 4 fun s n =>
    if tbMode s n = 2 then
      let (off, s) := secondOffset s (s.timeOf n)
      measured s n off
    else s

def execPpsInEdge (s : State) : Host.Outcome State Fault Refusal := .next (s.act ppsIn)

/-- No step of base n is applied at this beat: its time goes on from the last one. -/
def runsOn (s : State) (n : Nat) : Bool :=
  (s.tbase n).before.all fun r => r.ended ≠ s.counter.toNat || timeAt r.base r.anchor r.rate r.ended = s.timeOf n

/-- Base OUT_TB reaches a whole second plus TM_PPS_OFFSET ns at this beat (R353). -/
def ppsDue (s : State) : Bool :=
  let n := s.fld 0x0020_0400 2 1
  let second (t : Nat) : Int := ((t : Int) - (s.reg 0x0020_0404).toInt * 2 ^ 16) / sec1
  runsOn s n && second (timeThen s n (s.counter.toNat - 1)) < second (s.timeOf n)

/-- The beats for which PPS_OUT stays high: WIDTH × 10 µs. -/
def ppsBeats (s : State) : Nat := max 1 (s.fld 0x0020_0400 31 16) * 12500

/-- PPS_OUT_EDGE: with OUT_EN = 1 the output rises where it is due (R353). -/
def ppsOut (s : State) : State :=
  if s.flag 0x0020_0400 0 && ppsDue s then s.onDbg fun d => { d with pps := true, ppsAt := s.counter.toNat } else s

/-- PPS_OUT_FALL: the output falls when it has been high for its width. -/
def ppsFall (s : State) : State :=
  if s.dbg.ppsAt + ppsBeats s ≤ s.counter.toNat then s.onDbg fun d => { d with pps := false } else s

def execPpsOutEdge (s : State) : Host.Outcome State Fault Refusal := .next (s.act ppsOut)
def execPpsOutFall (s : State) : Host.Outcome State Fault Refusal := .next (s.act ppsFall)

end Sys2Proof.Machine
end

