-- ==== Sys2Proof/Machine/Ethernet.lean ====
section
/-! DEFINITION. Ethernet.lean: frames received at a fronthaul link (R270–R273, R308). -/

namespace Sys2Proof.Machine

/-- FH_LINKl_MAC. -/
def linkMac (s : State) (l : Nat) : BitVec 48 := BitVec.ofNat 48 (s.reg64 (fhBase l))

/-- MTU of the port of link l (Table 10.9). -/
def linkMtu (s : State) (l : Nat) : Nat := clamp 1500 9216 (s.fld (0x0030_0000 + l / 4 * 0x1000) 31 16)

/-- Whether link l accepts a frame (R271). -/
def frameOk (s : State) (l : Nat) (f : EthFrame) : Bool :=
  f.dst = linkMac s l && f.vlanTags ≤ 1 && f.fcsOk && f.payloadLen ≤ linkMtu s l

/-- Whether an eCPRI header is of Table 10.2. -/
def ecpriOk (m : EcpriMsg) : Bool := m.revision = 1 && !m.cBit && m.msgType = 0 && m.eBit

/-- Whether the burst front has already passed sample `off` of frame f (R308). -/
def samplePassed (s : State) (c : Nat) (f : Word) (off : Nat) : Bool :=
  let d := (s.link c).done
  let past := (f - BitVec.ofNat 32 (d / frameLen s c)).toInt
  past < 0 || past = 0 && off < d % frameLen s c

/-- The 12 samples of a block. -/
def blockSamples (s : State) (c : Nat) (d : PrbData) : List (Int × Int) :=
  (List.range 12).map fun i =>
    let v (k : Nat) := partValue (ccMeth s c 0) (ccWidth s c 0) d.exp (d.mant.getD k 0)
    (v (2 * i), v (2 * i + 1))

/-- Link samples stored until the burst front takes them; those it has passed are dropped under cause 4. A block that
does not decompress drops the message (R274); its FH_DECOMP_ERR has no symbol, and DETAIL1 is free. -/
def linkSamples (s : State) (l c : Nat) (f : Word) (off : Nat) (blocks : List PrbData) : State :=
  let meth := ccMeth s c 0
  let w := if meth = 1 then ccWidth s c 0 else 16
  if !compressionOk meth (ccWidth s c 0) || frameLen s c < off + 12 * blocks.length then linkDrop s l 5 1
  else if !prbsOk meth w blocks.length blocks then
    raise ((s.bump (carrierBase c + 0xC4) 1).drawFree) eDecomp 6 c f.toNat s.freeWord.toNat
  else
    let xs := (blocks.flatMap (blockSamples s c)).mapIdx fun i x => (off + i, x)
    let late := xs.any fun x => samplePassed s c f x.1
    let keep := xs.filter fun x => !samplePassed s c f x.1
    let y := s.link c
    let at' := f.toNat * frameLen s c
    let s := s.setLink c { y with
      arrived := keep.foldl (fun t x => tset (fun _ => none) t (at' + x.1) (some x.2)) y.arrived }
    if late then linkDrop s l 4 1 else s

/-- An eCPRI message: O-RAN sections to an ACCESS carrier, or link samples to a LINK context (R273, R308). -/
def ecpriReceive (s : State) (l : Nat) (m : EcpriMsg) : State :=
  if !ecpriOk m then linkDrop s l 1 1
  else match m.payload with
    | .oran frame sub slot k xs => rxOran (if xs.isEmpty then s else injectYield s l) l m frame sub slot k xs
    | .link f off blocks =>
      match eaxcCarrier s l m.eaxc true with
      | some c =>
        let y := s.carrier c
        let s := s.setCarrier c { y with seqRx := tset (fun _ => 0) y.seqRx m.eaxc.toNat (m.seq % 256) }
        linkSamples s l c f off.toNat blocks
      | none => linkDrop s l 2 1

/-- ETHERNET_FRAME_RX at link l, when the port is up and its mode provides the link (R418, Table 10.1). -/
def frameReceive (s : State) (l : Nat) (f : EthFrame) : State :=
  if !linkExists s l || s.portDown (fhPort l) then s
  else if !frameOk s l f then linkDrop s l 0 1
  else
    let s := s.bump (fhBase l + 8) 1
    match f.body with
    | .ecpri m => ecpriReceive s l m
    | .ptp m => ptpReceive s l m
    | .other _ => linkDrop s l 0 1

def execEthernetFrameRx (l : Fin 8) (f : EthFrame) (s : State) : Host.Outcome State Fault Refusal :=
  .next (s.actTogether fun s => frameReceive s l f)

end Sys2Proof.Machine
end

