-- ==== Sys2Proof/Machine/Bridge.lean ====
section
/-! DEFINITION. Bridge.lean: the receiving side of the bridge port, loss of the link, pairing, and the start of lock-step
(R398–R411). -/

namespace Sys2Proof.Machine

/-! ### Link state (R398, R399, R409) -/

def setBridgeState (s : State) (st : Nat) : State := s.setFld (brBase + 4) 2 0 st

/-- A resident job that is paired (R404). -/
def isPaired (s : State) (k : Nat) : Bool := (s.job k).state ≠ .empty && (s.job k).paired

/-- The pools of a slot granted, in both directions (R404). -/
def grantSlot (s : State) (k : Nat) : State :=
  [FlitClass.req, .rsp, .sig].foldl (fun s c => (setCredits s c k (poolSize c)).onBridge fun b => { b with
    free := tset (fun _ => 0) b.free (poolKey c k) 0 }) s

/-- Traffic that waited for credits, for the link or for a recall goes on. -/
def resumeTraffic (s : State) : State :=
  flushSignals (flushFlits s)

/-- BRIDGE_LINK_UP: training, or retraining, has ended and the ranks have been exchanged; equal ranks keep the link out of
UP. A link that comes up from training grants the CTL pool and those of paired slots; one that comes back from retraining
keeps its pools. -/
def linkUp (s : State) (peerRank : Bool) : State :=
  if !s.flag brBase 31 || bridgeUp s || s.portDown .bridge then s
  else if peerRank = s.flag brBase 30 then setBridgeState (s.orReg (brBase + 4) 0x10) 1
  else if s.bridge.leftUp.isSome then
    resumeTraffic ((setBridgeState s 2).onBridge fun b => { b with leftUp := none })
  else
    let s := setCredits ((setBridgeState s 2).onBridge fun b => { b with rxSeq := 0 }) .ctl 0 (poolSize .ctl)
    resumeTraffic (s.forEach 4 fun s k => if isPaired s k then grantSlot s k else s)

/-- The link leaves UP for RETRAIN or DOWN: lock-step breaks (R415). -/
def leaveUp (s : State) (st : Nat) : State :=
  if bridgeUp s then
    setBridgeState ((lsStop s).onBridge fun b => { b with leftUp := if st = 0 then none else some s.counter.toNat }) st
  else setBridgeState s st

/-- Every outstanding peer transaction answered as failed. -/
def failPeer (s : State) : State := s.bridge.outstanding.foldl (fun s x => peerAnswered s x.id false []) s

/-- The link enters DOWN (R409). -/
def bridgeDown (s : State) : State :=
  if bridgeState s = 0 then s
  else
    let job := s.runningNo
    let s := failPeer (leaveUp s 0)
    let s := s.onBridge fun b => { b with credits := [], free := [], suspect := [], replays := [], txQ := [], leftUp := none }
    let s := raise s eCreditLost 7 0 job 0xFFFF_FFFF
    match s.runningSlot with
    | some k => if (s.job k).image.chipCount = 2 then jobError s eCreditLost else s
    | none => s

/-- Beats in 1 ms (R335). -/
def msBeats : Nat := 1250000

/-- BRIDGE_LINK_DOWN: the link has not returned to UP 1 ms after leaving it (R399). -/
def linkDown (s : State) : State := match s.bridge.leftUp with
  | some c => if bridgeUp s || s.counter.toNat < c + msBeats then s else bridgeDown s
  | none => s

/-! ### Flits (R399, R402, R403, R407) -/

/-- A flit failed its CRC: it is replayed, and every later one with it; the sixteenth replay within 1 ms starts
retraining (R399). -/
def flitReplay (s : State) : State :=
  let now := s.counter.toNat
  let l := now :: s.bridge.replays.filter fun c => now < c + msBeats
  let s := s.bump (brBase + 0x48) 1
  if l.length < 16 then s.onBridge fun b => { b with replays := l }
  else leaveUp ((s.bump (brBase + 0x4C) 1).onBridge fun b => { b with replays := [] }) 3

/-- A resident job by the identifier and message hash of its image (R404). -/
def jobOfImage (s : State) (imageId hash : List Byte) : Option Nat :=
  (List.range 4).find? fun k =>
    let j := s.job k
    let rd := imageOf s k
    let h := imgHeader rd
    j.state ≠ .empty && h.chipCount = 2 && rdBytes rd 0x40 16 = imageId &&
      signedMessage rd (imgParts rd).sigOff = hash

/-- What a CTL flit does. -/
def ctlReceive (s : State) (m : CtlMessage) : State :=
  match m with
  | .none => s
  | .credits cls slot n =>
    -- A REQ credit that comes back after the recall of its pool goes back to the peer (R407).
    if cls = .req && s.bridge.recalled.contains slot.val then sendFlit s .ctl 0 (.peerCtl (.handBack .req slot n))
    else resumeTraffic (setCredits s cls slot (min (poolSize cls) (creditsOf s cls slot + n)))
  | .grant slot n =>
    let away := (s.job slot).state = .preempted
    let s := if away then s else grantAgain s slot (tget (fun _ => 0) s.bridge.free (poolKey .req slot))
    resumeTraffic (setCredits (s.onBridge fun b => { b with
      recalled := b.recalled.filter fun k => away || k ≠ slot.val }) .req slot
        (min (poolSize .req) (creditsOf s .req slot + n)))
  | .resetPool cls slot n => setCredits s cls slot (min (poolSize cls) n)
  | .handBack cls slot n =>
    let back := min (poolSize cls) (tget (fun _ => 0) s.bridge.free (poolKey cls slot) + n)
    let s := s.onBridge fun b => { b with free := tset (fun _ => 0) b.free (poolKey cls slot) back }
    -- What comes back once the job runs again is granted again.
    if cls = .req && !s.bridge.recalled.contains slot.val then grantAgain s slot back else s
  | .recall slot =>
    -- The peer recalls its REQ credits: they go back, and the channels wait (R407).
    let held := creditsOf s .req slot
    let s := setCredits s .req slot 0
    let s := sendFlit (sendFlit s .ctl 0 (.peerCtl (.handBack .req slot held))) .ctl 0 (.peerCtl (.recallAck slot))
    s.onBridge fun b => { b with recalled := slot.val :: b.recalled.filter (· ≠ slot.val) }
  | .recallAck slot =>
    if s.bridge.recallPending.contains slot.val then
      resumeTraffic (s.onBridge fun b => { b with
        recallPending := b.recallPending.filter (· ≠ slot.val),
        recallSince := tset (fun _ => 0) b.recallSince slot 0,
        free := tset (fun _ => 0) b.free (poolKey .req slot) (poolSize .req) })
    else s
  | .pair imageId hash =>
    -- A partner that begins later than this chip gets the placements again (log entry 99).
    match jobOfImage s imageId hash with
    | some k => if (s.job k).pairingSince.isSome || (s.job k).state ≠ .loaded then sendPlaced s k else s
    | none => s
  | .lockstepEnd fault => lsStop (if fault && lsBegun s then lsFault s else s)
  | .placed imageId hash ranges =>
    match jobOfImage s imageId hash with
    | some k =>
      let was := (s.job k).paired
      let s := s.setJob k { s.job k with paired := true }
      let s := s.onBridge fun b => { b with partner := tset (fun _ => []) b.partner k ranges }
      if bridgeUp s && !was then resumeTraffic (grantSlot s k) else s
    | none => s

/-- A received flit's buffer is freed: its credit goes back in a CTL flit, that of a CTL flit with the next one sent. -/
def freeFlit (s : State) (cls : FlitClass) (slot : Nat) : State :=
  let key := poolKey cls slot
  let s := s.onBridge fun b => { b with free := tset (fun _ => 0) b.free key (tget (fun _ => 0) b.free key + 1) }
  if cls = .ctl then s else sendFlit s .ctl 0 (.creditReturn cls slot 1)

/-- What a flit carries: a message of CTL, or an answer of RSP. -/
def flitContent (s : State) (f : Flit) : State := match f.cls, f.answer with
  | .ctl, _ => ctlReceive s f.message
  | .rsp, some a => peerAnswered s a.id a.ok a.data
  | _, _ => s

/-- BRIDGE_FLIT_RX while the link is UP. Flits are taken in the order of their numbers, so those that follow a failed
one wait for their replay (R399). A good flit's buffer is freed at once (R403). -/
def flitReceive (s : State) (f : Flit) : State :=
  if !bridgeUp s then s
  else if !f.crcOk then flitReplay s
  else if f.seq ≠ s.bridge.rxSeq then s
  else
    let s := s.onBridge fun b => { b with rxSeq := b.rxSeq + 1 }
    flitContent (freeFlit (s.bump (brBase + 0x44) 1) f.cls f.slot) f

/-- The pools in the order in which their counts are exchanged: CTL, then REQ, RSP and SIG by slot. -/
def poolOrder : List (FlitClass × Nat) :=
  (.ctl, 0) :: [FlitClass.req, .rsp, .sig].flatMap fun c => (List.range 4).map fun k => (c, k)

/-- One pool of an exchange: the peer holds `held` credits of it. -/
def checkPool (s : State) (cls : FlitClass) (k held : Nat) : State :=
  let key := poolKey cls k
  let sum := held + tget (fun _ => 0) s.bridge.free key
  let was := tget (fun _ => false) s.bridge.suspect key
  let bad := (cls = .ctl || isPaired s k) && sum ≠ poolSize cls
  let s := s.onBridge fun b => { b with suspect := tset (fun _ => false) b.suspect key (bad && !was) }
  if bad && was then
    let job := if cls = .ctl then s.runningNo else (s.job k).number
    -- The reset goes to the peer, which holds the pool's credits.
    let n := poolSize cls - tget (fun _ => 0) s.bridge.free key
    sendFlit (raise s eCreditLost 7 0 job ((poolSize cls : Int) - sum).natAbs) .ctl 0
      (.peerCtl (.resetPool cls (slotNo k) n))
  else s

/-- BRIDGE_CREDIT_EXCHANGE: the own counts sent, and the peer's checked, in the order of `poolOrder` (R403). -/
def creditExchange (s : State) (held : List Nat) : State :=
  if bridgeUp s then
    let s := sendFlit s .ctl 0 (.creditCounts (poolOrder.map fun x => creditsOf s x.1 x.2))
    (poolOrder.zip held).foldl (fun s (x, n) => checkPool s x.1 x.2 n) s
  else s

/-! ### Accesses and signals of the peer (R400, R401, R406–R408) -/

/-- Whether ranges together hold every byte of [a, a+n), in at most as many steps as there are ranges. -/
def covered (l : List (Nat × Nat)) : Nat → Nat → Nat → Bool
  | _, _, 0 => true
  | 0, _, _ => false
  | fuel + 1, a, n => match l.find? fun r => r.1 ≤ a && a < r.1 + r.2 with
    | some r => covered l fuel (r.1 + r.2) (n - (r.1 + r.2 - a))
    | none => false

/-- Whether an access lies wholly within the placements of the job in slot k, which is the partner of the issuing job. -/
def withinPartner (s : State) (k a n : Nat) : Bool :=
  let l := (s.job k).image.places.map placeRange
  isPaired s k && covered l l.length a n

/-- The store address of a peer's access of n bytes: only HBM, the common board and the tile boards are reached. -/
def peerStore (s : State) (a n : Nat) : Option Nat :=
  match targetOf a, targetOf (a + n - 1) with
  | .hbm x, .hbm _ => some x
  | .common o, .common _ => some (commonStore o)
  | .board t o, .board u _ => if t = u then some (s.boardStore t o) else none
  | _, _ => none

/-- Flits of 64 bytes that data fills, one at least (R402). -/
def flitParts (data : List Byte) : List (List Byte) :=
  (List.range (max 1 ((data.length + 63) / 64))).map fun i => (data.drop (64 * i)).take 64

/-- An answer on RSP. -/
def answerRequest (s : State) (r : PeerRequest) (ok : Bool) (data : List Byte) : State :=
  (flitParts data).foldl (fun s l => sendFlit s .rsp r.slot (.peerReply r.id ok l)) s

/-- Bytes from a request's address on, up to the last that it reads or writes. -/
def requestLen (r : PeerRequest) : Nat := if r.write then r.bytes.foldl (fun n x => max n (x.1 + 1)) 0 else r.len

/-- BRIDGE_PEER_ACCESS. -/
def peerAccess (s : State) (r : PeerRequest) : State :=
  if !bridgeUp s then s
  else
    let n := requestLen r
    let ok := (r.priv || withinPartner s r.slot r.addr n) && !s.bridge.writtenOff.contains r.slot.val && n ≠ 0
    match if ok then peerStore s r.addr n else none with
    | none => answerRequest (s.bump (brBase + 0x54) 1) r false []
    | some a =>
      if r.write then answerRequest (memWriteMasked s (r.bytes.map fun x => (a + x.1, x.2)) .ledger) r true []
      else
        let (l, s) := dataRead s a n .ledger
        answerRequest s r true l

/-- BRIDGE_SIGNAL_RX: the operation applied to the tally of that handle of the paired job in the slot, and not repeated
back. -/
def signalReceive (s : State) (k h : Nat) (sub : Bool) (a : Word) : State :=
  let b := (s.job k).image
  let shared := match b.tallies[h]? with
    | some d => d.kind = 3
    | none => false
  if !isPaired s k || !shared then s.bump (brBase + 0x50) 1
  else if sub then tallySub s (b.nsBase + h) a.toNat 7 0
  else tallyAdd s (b.nsBase + h) a.toNat 7 0

/-- BR_CFG.TIMEOUT in beats: units of 10 µs, 0 acting as 1 (Table 14.4). -/
def peerTimeout (s : State) : Nat := 12500 * max 1 (s.fld brBase 15 0)

/-- BRIDGE_TIMEOUT of a transaction that has been outstanding for BR_CFG.TIMEOUT. -/
def bridgeTimeout (s : State) (id : Nat) : State :=
  match s.bridge.outstanding.find? (·.id = id) with
  | none => s
  | some x =>
    if s.counter.toNat < x.since + peerTimeout s then s
    else peerAnswered (raise s eBridgeTimeout 7 0 s.runningNo ((0x4000_0000_0000 + x.addr) % 2 ^ 32)) id false []

/-! ### Lock-step (R411) -/

/-- BA_CTRL.TEQ is 1 on every active tile. -/
def teqAll (s : State) : Bool := (List.range 16).all fun t => s.flag (baBase t) 2

/-- The first 8 bytes of SHAKE256 of a seed. -/
def seedHash (seed : DWord) : List Byte := Config.shake256 (natLE 8 seed.toNat) 8

/-- The condition of R411 that fails, 0 none (Table 14.7). -/
def lsCause (s : State) (k : Nat) (p : PeerLockstep) : Nat :=
  let j := s.job k
  if !bridgeUp s then 1
  else if j.image.hash ≠ p.imageHash then 2
  else if seedHash j.seed ≠ p.seedHash then 3
  else if j.image.chipCount ≠ 1 ∨ p.chipCount ≠ 1 then 4
  else if !(teqAll s && p.teqAll) && j.image.repair ≠ p.repair then 5
  else 0

/-- LOCKSTEP_START: a job runs on both chips, and lock-step is requested on both. -/
def lockstepStart (s : State) (p : PeerLockstep) : State :=
  match s.runningSlot with
  | none => s
  | some k =>
    if !s.flag (brBase + 0x10) 0 || !p.enabled || !p.running || lsBegun s then s
    else if lsCause s k p ≠ 0 then setLsState s 5 (lsCause s k p)
    else
      let base := (List.range 16).foldl (fun b t => tset (fun _ => 0) b t (s.core t).arrIssued) []
      let s := s.onBridge fun b => { b with
        lsSlot := some k, records := [], peerRecords := [], peerSeq := [], diverged := [], seqBase := base }
      setLsState (s.setReg64 (brBase + 0x58) 0) 2 0

def execBridgeLinkUp (peerRank : Bool) (s : State) : Host.Outcome State Fault Refusal :=
  .next (s.act fun s => linkUp s peerRank)

def execBridgeLinkDown (s : State) : Host.Outcome State Fault Refusal := .next (s.act linkDown)

def execBridgeFlitRx (f : Flit) (s : State) : Host.Outcome State Fault Refusal := .next (s.act fun s => flitReceive s f)

def execBridgeCreditExchange (held : List Nat) (s : State) : Host.Outcome State Fault Refusal :=
  .next (s.act fun s => creditExchange s held)

def execBridgePeerAccess (r : PeerRequest) (s : State) : Host.Outcome State Fault Refusal :=
  .next (s.act fun s => peerAccess s r)

def execBridgeSignalRx (slot : Fin 4) (handle : Nat) (sub : Bool) (amount : Word) (s : State) :
    Host.Outcome State Fault Refusal :=
  .next (s.act fun s => signalReceive s slot handle sub amount)

def execBridgeTimeout (id : Nat) (s : State) : Host.Outcome State Fault Refusal :=
  .next (s.act fun s => bridgeTimeout s id)

def execLockstepStart (peer : PeerLockstep) (s : State) : Host.Outcome State Fault Refusal :=
  .next (s.act fun s => lockstepStart s peer)

end Sys2Proof.Machine
end

