-- ==== Sys2Proof/Machine/Resets.lean ====
section
/-! DEFINITION. Resets.lean: the resets of the device, what each keeps, leaving reset, lock of the root PLL, and PCIe
configuration requests (R385, R417, R418, R435, R436, R452, R468, R493). -/

namespace Sys2Proof.Machine

/-! ### What a reset keeps (Table 16.6) -/

/-- Registers that a hard reset keeps: the causes and the wear bases. -/
def keptByHard (o : Nat) : Bool := [0x4_0080, 0x1_001C, 0x4_0204, 0x4_020C].contains o

/-- Registers that a warm reset keeps: also the error log and ERR_CNTn, the lock of the root PLL, and the MSI-X table and
PBA, which belong to the PCIe configuration (log entry 11). -/
def keptByWarm (o : Nat) : Bool :=
  keptByHard o || 0x1000 ≤ o && o < 0x3400 || o = 0x5_0000 || 0xD_0000 ≤ o && o < 0xD_1000

/-- Registers that an FLR keeps: as a warm reset, without the function's MSI-X registers. -/
def keptByFlr (o : Nat) : Bool := keptByWarm o && !(0xD_0000 ≤ o && o < 0xD_1000)

/-- Host memory and boot flash are not the device's to reset. -/
def outsideMem (m : List Host.Cell) : List Host.Cell := tclear (tclear m 0 (2 ^ 47)) (2 ^ 48) (2 ^ 50)

/-- The integrity state of a part with a tile quarantined at manufacture (R384). -/
def fusedIntegrity (f : Option Nat) : Integrity :=
  match f with
  | none => {}
  | some p =>
    { fusedOut := f
      physOf := if p < 16 then [(p, 16)] else []
      role := tset (fun p => if p = 16 then 1 else 0) (tset (fun p => if p = 16 then 1 else 0) [] 16 (if p = 16 then 2 else 0)) p 2 }

/-- The device after a reset that keeps the registers `keep` picks: flash and fuses, what lies outside the device, and the
commands waiting stay as they are. -/
def resetState (s : State) (keep : Nat → Bool) : State :=
  { State.reset with
    regs := s.regs.filter fun e => keep e.1
    mem := outsideMem s.mem
    free := s.free
    sent := s.sent
    pending := s.pending
    host := { reply := s.host.reply, downPorts := s.host.downPorts }
    integ := fusedIntegrity s.integ.fusedOut
    sec := { owner := s.sec.owner, keys := s.sec.keys, storeSeq := s.sec.storeSeq, secMin := s.sec.secMin }
    dbg := { pin := s.dbg.pin } }

/-- What a warm reset keeps beside registers: the held log entries, the quarantine with the tiles that logical numbers
name, and the PCIe link. A freeze pin that still holds freezes the device again, since its clocks run (R466, R468). -/
def warmState (s : State) (keep : Nat → Bool) : State :=
  let r := resetState s keep
  { r with
    host := { r.host with inReset := false, linkTraining := s.host.linkTraining }
    integ := { r.integ with
      overflow := s.integ.overflow, physOf := s.integ.physOf, role := s.integ.role, lastLogical := s.integ.lastLogical }
    dbg := { r.dbg with frozen := s.dbg.pin } }

/-! ### Resets (R452) -/

/-- Whether the device is in a thermal trip, which ends only with the power (R432). -/
def State.tripped (s : State) : Bool := s.power.tripped

/-- PWR_RESET_CAUSE and HOST_RESET_CAUSE of a reset: OTHER is set by every hard or warm reset. -/
def noteCause (s : State) (pwr host : Word) : State := (s.orReg 0x4_0080 (8 ||| pwr)).orReg 0x1_001C host

/-- A power-on reset. -/
def powerOnReset (s : State) : State := resetState s fun _ => false

/-- A hard reset. -/
def hardReset (s : State) (c : HardCause) : State :=
  if s.tripped then s
  else
    let r := resetState s keptByHard
    match c with
    | .resetN => noteCause r 0 1
    | .perstN => noteCause r 0 2
    | .clock => noteCause r 4 0
    | .supply => noteCause r 2 0

/-- A warm reset with its bit of HOST_RESET_CAUSE. -/
def warmReset (s : State) (hostCause : Word) : State := noteCause (warmState s keptByWarm) 0 hostCause

/-- Level 4 resets the device (R385). -/
def level4Reset (s : State) : State := if s.integ.resetWanted then warmReset s 8 else s

/-- Whether a request of the host reaches the endpoint. -/
def hostReaches (s : State) : Bool := !s.host.inReset && s.host.linkTraining && !s.portDown .pcie

/-- The FLR of a host that reaches the device; a frozen one does not serve it (Table 17.1). -/
def functionReset (s : State) : State :=
  if hostReaches s && !s.dbg.frozen && s.locked then noteCause (warmState s keptByFlr) 0 16 else s

def execPowerOnReset (s : State) : Host.Outcome State Fault Refusal := .next (powerOnReset s)

def execHardReset (cause : HardCause) (s : State) : Host.Outcome State Fault Refusal := .next (hardReset s cause)

/-- CLOCK_FAULT (R418). -/
def execClockFault (s : State) : Host.Outcome State Fault Refusal := .next (hardReset s .clock)

/-- WARM_RESET: a write of 1 to HOST_RESET.WARM, or level 4. -/
def execWarmReset (level4 : Bool) (s : State) : Host.Outcome State Fault Refusal :=
  .next (if level4 then s.act level4Reset else s.written .pcie fun s => warmReset s 4)

def execFlr (s : State) : Host.Outcome State Fault Refusal := .next (functionReset s)

/-- DEVICE_RESET_LEVEL4 (R385). -/
def execDeviceResetLevel4 (s : State) : Host.Outcome State Fault Refusal := .next (s.act level4Reset)

/-! ### Leaving reset (R493, R417, R468) -/

/-- RESET_RELEASE: the device leaves reset, and PCIe link training begins. At the release of a power-on reset the causes
show POR alone. -/
def resetRelease (s : State) (por : Bool) : State :=
  if s.tripped || !s.host.inReset then s
  else
    let s := s.onHost fun h => { h with inReset := false, linkTraining := true }
    if por then (s.setReg 0x4_0080 1).setReg 0x1_001C 0 else s

def execResetRelease (por : Bool) (s : State) : Host.Outcome State Fault Refusal := .next (resetRelease s por)

/-- PLL_LOCK: the derived clocks and the device counter start together; a freeze source that already holds takes effect
at this edge. -/
def pllLock (s : State) : State :=
  if s.host.inReset || s.locked then s
  else
    let s := { s.setFld 0x5_0000 0 0 1 with counter := 0 }
    if s.dbg.pin || s.flag dbgBase 0 then freezeNow s else s

def execPllLock (s : State) : Host.Outcome State Fault Refusal := .next (pllLock s)

/-! ### Ports and configuration requests -/

/-- PORT_REFERENCE_CLOCK_LOSS takes down only its port, which stays down (R418). -/
def portLoss (s : State) (p : SerdesPort) : State :=
  let s := if s.portDown p then s else s.onHost fun h => { h with downPorts := h.downPorts ++ [p] }
  if p = .bridge && s.live then bridgeDown s else s

def execPortReferenceClockLoss (p : SerdesPort) (s : State) : Host.Outcome State Fault Refusal := .next (portLoss s p)

/-- A word of configuration space (Table 16.1): Device ID and Vendor ID, Class code and Revision ID, and BAR4, which is
not implemented. The other words are the PCIe base specification's (log entry 9). -/
def configWord (i : Nat) : Word :=
  match i with
  | 0 => 0x2416_1DA7
  | 2 => 0x1200_0010
  | 8 => 0
  | i => Config.pcieConfig i

/-- CONFIGURATION_REQUEST, a read of word `i` of configuration space (R417, R493, Table 17.1). -/
def configRequest (s : State) (i : Nat) : State :=
  if !hostReaches s then s
  else if s.dbg.frozen then s.answer .abort []
  else if !s.locked || bootStage s = 0 then s.answer .retry []
  else s.answer .success (natLE 4 (configWord i).toNat)

def execConfigurationRequest (idx : BitVec 10) (s : State) : Host.Outcome State Fault Refusal :=
  .next (configRequest s idx.toNat)

end Sys2Proof.Machine
end

