-- ==== Sys2Proof/Machine/Security.lean ====
section
/-! DEFINITION. Security.lean: boot, recovery, the key store, attestation, firmware update and the Ledger pairs
(R453–R464). -/

namespace Sys2Proof.Machine

/-! ### The boot record (R453, Table 16.7) -/

/-- Store address of copy k of the boot record. -/
def bootRecordAt (k : Nat) : Nat := flashStore (0x1000 * k)

/-- A copy is valid: its CRC-32C stands in its last 4 bytes. -/
def recordValid (s : State) (k : Nat) : Bool := crc32c (s.readBytes (bootRecordAt k) 4092) = s.readLE (bootRecordAt k + 4092) 4

/-- The copy that wins; none when neither is valid. -/
def recordCopy (s : State) : Option Nat :=
  match recordValid s 0, recordValid s 1 with
  | true, true => some (if s.readLE (bootRecordAt 0) 4 < s.readLE (bootRecordAt 1) 4 then 1 else 0)
  | true, false => some 0
  | false, true => some 1
  | false, false => none

/-- The bytes of a boot record. -/
def recordBytes (seq : Nat) (sel pend : Bool) : List Byte :=
  let l := natLE 4 seq ++ natLE 4 (b2n sel + 2 * b2n pend) ++ List.replicate 4084 0
  l ++ natLE 4 (crc32c l)

/-- A boot record written to both copies with the next sequence number. -/
def writeRecord (s : State) (sel pend : Bool) : State :=
  let q := s.sec.bootSeq + 1
  let s := (s.writeBytes (bootRecordAt 0) (recordBytes q sel pend)).writeBytes (bootRecordAt 1) (recordBytes q sel pend)
  let s := s.onSec fun k => { k with bootSeq := q, bootSel := sel, pendingBit := pend }
  s.setFld 0x0010_0020 2 2 (b2n pend)

/-! ### Firmware images (R453, R454) -/

/-- Store address of a firmware slot: false A, true B. -/
def slotAt (b : Bool) : Nat := flashStore (if b then 0x0A0_0000 else 0x020_0000)

/-- The largest firmware image. -/
def fwMax : Nat := 0x80_0000

/-- Bytes of an image that stands in the store. -/
def fwBytes (s : State) (a : Nat) : Nat → Byte := fun o => s.byte (a + o)

/-- The header fields; the manual lists them in this order without offsets (log entry 57). -/
def fwVersion (rd : Nat → Byte) : Nat := rdN rd 4 4
def fwSec (rd : Nat → Byte) : Nat := rdN rd 8 2
def fwStateVer (rd : Nat → Byte) : Nat := rdN rd 10 2
def fwStateMin (rd : Nat → Byte) : Nat := rdN rd 12 2
def fwSize (rd : Nat → Byte) : Nat := rdN rd 14 4

/-- The header is well formed: the image holds at least header, key and SIG section. -/
def fwHeaderOk (rd : Nat → Byte) : Bool :=
  rdBytes rd 0 4 = [0x4D, 0x51, 0x46, 0x57] && 0x1001 ≤ fwSize rd && fwSize rd ≤ fwMax && rdZero rd 18 238

/-- The image's public key. -/
def fwKey (rd : Nat → Byte) : List Byte := rdBytes rd 0x100 1793

/-- Offset of the SIG section, the last of the image. -/
def fwSig (rd : Nat → Byte) : Nat := fwSize rd - 2048

/-- Why an image is not valid, as FAIL_CAUSE codes it; 0 valid (R454, Table 16.14). -/
def fwFault (s : State) (rd : Nat → Byte) : Nat :=
  if !fwHeaderOk rd then 1
  else if keyId (fwKey rd) ≠ Config.fwRootId || rdBytes rd (fwSig rd + 8) 32 ≠ Config.fwRootId then 2
  else if !(sigTagOk rd (fwSig rd) && sigFormOk rd (fwSig rd) &&
      sigVerifies rd (fwSig rd) (fwKey rd) (signedMessage rd (fwSig rd))) then 3
  else if fwSec rd < s.sec.secMin then 4
  else 0

/-- What Mequel keeps of an image. -/
def fwImage (rd : Nat → Byte) (slot : Bool) : FwImage :=
  { version := fwVersion rd, sec := fwSec rd, stateVer := fwStateVer rd, stateMin := fwStateMin rd,
    hash := signedMessage rd (fwSig rd), slot := slot }

/-! ### Boot (R454, Table 16.8) -/

def setStage (s : State) (k : Nat) : State := s.setFld 0x1_0010 2 0 k

/-- HOST_BOOT_STATUS.ALT. -/
def bootAlt (s : State) : Bool := s.flag 0x1_0010 5

/-- The slot that boot copies and checks: the one of BOOT_SEL, or with ALT the other. -/
def bootSlot (s : State) : Bool := s.sec.bootSel != bootAlt s

/-- The boot record read. With no valid copy the slot is open (log entry 4). An activation that was pending is not any
more (R464). -/
def readRecord (s : State) : State :=
  match recordCopy s with
  | some k =>
    s.onSec fun kk => { kk with
      bootSel := (s.byte (bootRecordAt k + 4)).getLsbD 0, bootSeq := s.readLE (bootRecordAt k) 4, pendingBit := false }
  | none => s.drawFree.onSec fun k => { k with bootSel := s.freeChoice, bootSeq := 0, pendingBit := false }

/-- The outcome of verification: FAIL_CAUSE of a slot, 5 when its flash was not readable. -/
def bootFault (s : State) (readable : Bool) : Nat :=
  if readable then fwFault s (fwBytes s (slotAt (bootSlot s))) else 5

/-- Verification done: INIT, a second copy from the other slot, or RECOVERY with the reason of the last failure. -/
def bootVerify (s : State) (readable : Bool) : State :=
  let f := bootFault s readable
  let s := s.onSec fun k => { k with copied := none }
  if f = 0 then setStage (s.setFld 0x1_0010 4 4 (b2n (bootSlot s))) 4
  else if bootAlt s then setStage (s.setFld 0x1_0010 15 8 f) 6
  else s.setFld 0x1_0010 5 5 1

/-- INIT done: pair 0 is active, both hold the image of the slot, and the device is READY. -/
def bootReady (s : State) : State :=
  let x := fwImage (fwBytes s (slotAt (bootSlot s))) (bootSlot s)
  let s := s.onSec fun k => { k with active := x, standby := x, updated := none, handover := none }
  let s := (s.setFld 0x0010_0020 1 0 2).setReg 0x0010_0024 (BitVec.ofNat 32 x.version)
  signalEvent (setStage s 5) 0

/-- BOOT. HBM_STATUS.STATE is TRAINING from the beginning of stage 1 (Table 7.6). -/
def bootStep (s : State) (e : BootEvent) : State :=
  match e with
  | .recordRead => if bootStage s = 0 then setStage ((readRecord s).setFld (hbmBase + 4) 1 0 1) 1 else s
  | .hbmTrained => if bootStage s = 1 then setStage (s.setFld (hbmBase + 4) 1 0 2) 2 else s
  | .copied ok =>
    if bootStage s = 2 || bootStage s = 3 && s.sec.copied.isNone then
      setStage (s.onSec fun k => { k with copied := some ok }) 3
    else s
  | .verified =>
    match s.sec.copied with
    | some ok => if bootStage s = 3 then bootVerify s ok else s
    | none => s
  | .initDone => if bootStage s = 4 then bootReady s else s

def execBoot (e : BootEvent) (s : State) : Host.Outcome State Fault Refusal := .next (s.act fun s => bootStep s e)

/-! ### Recovery (R455) -/

/-- The recovery staging area. -/
def stagingAt : Nat := 0x5_8100_0000

/-- HOST_RECOVERY: the staged image of `n` bytes validated; installed in slot A with a warm reset, or refused. -/
def hostRecovery (s : State) (n : Nat) : State :=
  if bootStage s ≠ 6 then s
  else
    let rd := fwBytes s stagingAt
    let f := if fwSize rd = n then fwFault s rd else 1
    let s := (memRead s stagingAt n .ledger).2
    if f = 0 then
      warmReset (writeRecord (s.writeBytes (slotAt false) (rdBytes rd 0 n)) false false) 0
    else s.setFld 0x1_0010 15 8 f

def execHostRecovery (size : Word) (s : State) : Host.Outcome State Fault Refusal :=
  .next (s.written .pcie fun s => hostRecovery s size.toNat)

/-! ### Security commands (R447, R457, R458) -/

/-- A security completion on ring 0 (Table 16.10). -/
def secReply (s : State) (code htag status detail : Nat) : State :=
  cplPost s { ring := 0, code := code, htag := htag, body := [BitVec.ofNat 32 status, BitVec.ofNat 32 detail] }

/-- A security command at the head of the queue: f of its entry. -/
def secCommand (s : State) (code : Nat) (f : State → List Byte → State) : State :=
  match headCommand s code with
  | some (c, s) => f s c
  | none => s

/-- Size of a key object (Table 16.9). -/
def keyObject : Nat := 3904

/-- The parts of a key object that its command fixes. -/
def keyFieldsOk (code : Nat) (rd : Nat → Byte) : Bool :=
  rdN rd 0 1 = (if code = 0x40 then 0 else 1) && (if code = 0x40 then rdN rd 1 1 = 0 else rdN rd 1 1 ≤ 15) &&
    rdZero rd 2 2 && rdZero rd 0x709 55 && (code ≠ 0x42 || rdZero rd 8 1793)

/-- The signature of a key object under the owner key, as a STATUS of Table 16.10. Without an owner key an OWNER_CLAIM
needs none, and its SIG section is zero (R457). -/
def keySignature (s : State) (rd : Nat → Byte) : Nat :=
  match s.sec.owner with
  | none => if rdZero rd 0x740 2048 then 0 else 0x10
  | some k =>
    if rdBytes rd 0x748 32 ≠ keyId k then 0x11
    else if sigTagOk rd 0x740 && sigFormOk rd 0x740 && sigVerifies rd 0x740 k (signedMessage rd 0x740) then 0
    else 0x10

/-- STATUS of a key command: 0x00 DONE. The order of the checks is the model's (log entry 57). -/
def keyStatus (s : State) (code : Nat) (rd : Nat → Byte) : Nat :=
  if !keyFieldsOk code rd then 0x03
  else if code ≠ 0x40 && s.sec.owner.isNone then 0x01
  else if rdN rd 4 4 ≤ s.sec.storeSeq then 0x13
  else keySignature s rd

/-- A key object applied to the key store, and HOST_EVT.KEYS. -/
def applyKey (s : State) (code : Nat) (rd : Nat → Byte) : State :=
  let key := rdBytes rd 8 1793
  let sec := { s.sec with storeSeq := rdN rd 4 4 }
  let sec := if code = 0x40 then { sec with owner := some key }
    else { sec with keys := tset (fun _ => none) sec.keys (rdN rd 1 1) (if code = 0x41 then some key else none) }
  signalEvent (s.setSec sec) 2

/-- OWNER_CLAIM, KEY_ENROLL and KEY_REVOKE. -/
def keyCommand (s : State) (code : Nat) : State :=
  secCommand s code fun s c =>
    let a := field c 8 8
    if field c 0x10 4 ≠ keyObject || !inUserHbm a keyObject then secReply s code (entryTag c) 0x03 0
    else
      let (l, s) := memRead s a keyObject .ledger
      let rd := fun o => l.getD o 0
      let st := keyStatus s code rd
      secReply (if st = 0 then applyKey s code rd else s) code (entryTag c) st 0

def execOwnerClaim (s : State) : Host.Outcome State Fault Refusal := .next (s.act fun s => keyCommand s 0x40)
def execKeyEnroll (s : State) : Host.Outcome State Fault Refusal := .next (s.act fun s => keyCommand s 0x41)
def execKeyRevoke (s : State) : Host.Outcome State Fault Refusal := .next (s.act fun s => keyCommand s 0x42)

/-! ### Attestation (R459, R460) -/

/-- IG_QUARANTINE: the physical tiles quarantined. -/
def quarantineWord (s : State) : Word :=
  BitVec.ofNat 32 ((List.range 17).foldl (fun a p => a + b2n (s.roleOf p = 2) * 2 ^ p) 0)

/-- The 72 bytes of a resident slot. -/
def attestSlot (s : State) (k : Nat) : List Byte :=
  let j := s.job k
  natLE 2 j.number ++ natLE 1 (jobStateCode j.state) ++ natLE 1 k ++ bytesAt j.image.hash 0 64 ++ natLE 4 0

/-- Bytes 0x000–0x1FF of the report (Table 16.11); `store` is the hash of the key store, whose layout the manual does not
give (log entry 3). -/
def attestBody (s : State) (nonce store : List Byte) : List Byte :=
  [0x41, 0x51, 0x41, 0x54] ++ natLE 4 1 ++ nonce ++ bytesAt Config.serial 0 16 ++
    natLE 4 s.sec.active.version ++ natLE 2 s.sec.active.sec ++ natLE 2 s.sec.secMin ++
    bytesAt s.sec.active.hash 0 64 ++ bytesAt store 0 64 ++
    attestSlot s 0 ++ attestSlot s 1 ++ attestSlot s 2 ++ attestSlot s 3 ++
    natLE 4 (quarantineWord s).toNat ++ natLE 4 (s.spare.getD 0x1F) ++ natLE 8 (s.nsOf 0) ++ List.replicate 16 0

/-- A SIG section signed by the identity key (Table 2.5). -/
def identitySig (message : List Byte) : List Byte :=
  [0x41, 0x51, 0x46, 0x44, 0x53, 0x49, 0x47, 0x31] ++ bytesAt (keyId Config.identityKey) 0 32 ++ natLE 2 1280 ++
    bytesAt (Config.identitySign message) 0 1280 ++ List.replicate 726 0

/-- Size of the report. -/
def attestSize : Nat := 0xA00

/-- ATTEST. -/
def attest (s : State) : State :=
  secCommand s 0x50 fun s c =>
    let a := field c 0x28 8
    if a % 4096 ≠ 0 || !inUserHbm a attestSize then secReply s 0x50 (entryTag c) 0x03 0
    else
      let body := attestBody s (bytesAt c 8 32) (s.freeBytes 64)
      let s := memWrite (s.drawFree 64) a (body ++ identitySig (Config.shake256 body 64)) .ledger
      secReply s 0x50 (entryTag c) 0 attestSize

def execAttest (s : State) : Host.Outcome State Fault Refusal := .next (s.act attest)

/-! ### Firmware (R461–R464) -/

/-- The active and the standby pair change roles; LEDGER_STATUS and LEDGER_FW follow. -/
def swapPairs (s : State) : State :=
  let s := s.onSec fun k => { k with active := k.standby, standby := k.active }
  (s.setFld 0x0010_0020 0 0 (1 - s.fld 0x0010_0020 0 0)).setReg 0x0010_0024 (BitVec.ofNat 32 s.sec.active.version)

/-- FW_UPDATE: `flashOk` is whether the slot reads back as written; what it holds otherwise is unknown. -/
def fwUpdate (s : State) (flashOk : Bool) : State :=
  secCommand s 0x48 fun s c =>
    let a := field c 8 8
    let n := field c 0x10 4
    let rd := fwBytes s a
    let slot := !s.sec.bootSel
    if !inUserHbm a n then secReply s 0x48 (entryTag c) 0x03 0
    else
      let f := if fwSize rd = n then fwFault s rd else 1
      let s := (memRead s a n .ledger).2
      if f = 4 then secReply s 0x48 (entryTag c) 0x12 (fwVersion rd)
      else if f ≠ 0 then secReply s 0x48 (entryTag c) 0x10 (fwVersion rd)
      else if flashOk then
        let x := fwImage rd slot
        let s := s.writeBytes (slotAt slot) (rdBytes rd 0 n)
        secReply (s.onSec fun k => { k with updated := some x }) 0x48 (entryTag c) 0 x.version
      else
        let v := fwVersion rd
        let s := (s.writeBytes (slotAt slot) (s.freeBytes n)).drawFree n
        secReply (s.onSec fun k => { k with updated := none }) 0x48 (entryTag c) 0x14 v

def execFwUpdate (flashOk : Bool) (s : State) : Host.Outcome State Fault Refusal :=
  .next (s.act fun s => fwUpdate s flashOk)

/-- FW_ACTIVATE: when the check passes, PENDING is set and the handover awaited; its completion follows that. -/
def fwActivate (s : State) : State :=
  secCommand s 0x49 fun s c =>
    match s.sec.updated with
    | none => secReply s 0x49 (entryTag c) 0x01 0
    | some x =>
      if s.sec.pendingBit then secReply s 0x49 (entryTag c) 0x01 x.version
      else if x.stateMin ≤ s.sec.active.stateVer && s.sec.active.stateVer ≤ x.stateVer then
        let s := writeRecord s s.sec.bootSel true
        s.onSec fun k => { k with standby := x, handover := some (entryTag c) }
      else secReply s 0x49 (entryTag c) 0x15 x.version

def execFwActivate (s : State) : Host.Outcome State Fault Refusal := .next (s.act fwActivate)

/-- FW_HANDOVER: the new pair takes over, and the old one is standby with the old image (R463). -/
def fwHandover (s : State) : State :=
  match s.sec.handover with
  | none => s
  | some tag =>
    let s := swapPairs (s.onSec fun k => { k with handover := none })
    secReply s 0x49 tag 0 s.sec.active.version

def execFwHandover (s : State) : Host.Outcome State Fault Refusal := .next (s.act fwHandover)

/-- FW_COMMIT (R464). -/
def fwCommit (s : State) : State :=
  secCommand s 0x4A fun s c =>
    if !s.sec.pendingBit then secReply s 0x4A (entryTag c) 0x01 0
    else
      let x := s.sec.active
      let s := writeRecord s x.slot false
      let s := s.onSec fun k => { k with standby := x, updated := none, secMin := max k.secMin x.sec }
      secReply s 0x4A (entryTag c) 0 x.version

def execFwCommit (s : State) : Host.Outcome State Fault Refusal := .next (s.act fwCommit)

/-- Handover back to the old pair, with PENDING 0 (R464). -/
def fwBack (s : State) : State := writeRecord (swapPairs s) s.sec.bootSel false

/-- FW_REVERT. -/
def fwRevert (s : State) : State :=
  secCommand s 0x4B fun s c =>
    if !s.sec.pendingBit then secReply s 0x4B (entryTag c) 0x01 0
    else secReply (fwBack s) 0x4B (entryTag c) 0 s.sec.active.version

def execFwRevert (s : State) : Host.Outcome State Fault Refusal := .next (s.act fwRevert)

end Sys2Proof.Machine
end

