-- ==== Sys2Proof/Machine/Power.lean ====
section
/-! DEFINITION. Power.lean: power measurement, the budgets and limiter steps, the fast limiter, the supply and thermal
monitors (R203, R268, R419–R434). -/

namespace Sys2Proof.Machine

/-! ### Energy division (R268, R423) -/

/-- v nanojoules added to ENERGY of record r, the remainder carried. -/
def chargeEnergy (s : State) (r v : Nat) : State :=
  let n := tget (fun _ => 0) s.power.recordNj r + v
  (s.charge r acEnergy (n / 1000)).onPower fun p => { p with recordNj := tset (fun _ => 0) p.recordNj r (n % 1000) }

/-- e nanojoules divided among records in proportion to their shares; what the division leaves over, and all of it where
nothing was charged, goes to the device record (log entry 59). -/
def divideEnergy (s : State) (e : Nat) (shares : List (Nat × Nat)) : State :=
  let total := (shares.map (·.2)).sum
  let parts := shares.map fun x => (x.1, e * x.2 / total)
  chargeEnergy (parts.foldl (fun s x => chargeEnergy s x.1 x.2) s) deviceRecord (e - (parts.map (·.2)).sum)

/-- Tile-beats charged on physical tile p since the last reading, by record. -/
def beatShares (s : State) (p : Nat) : List (Nat × Nat) :=
  (s.power.beatsNow.filter fun x => x.1 / 256 = p).map fun x => (x.1 % 256, x.2)

/-- Bytes of field k charged since the last reading, by record. -/
def byteShares (s : State) (k : Nat) : List (Nat × Nat) :=
  (List.range 133).map fun r => (r, (s.acctOf r k - tget (fun _ => 0) s.power.bytesThen (8 * r + k)).toNat)

/-- The energy of one interval divided. One milliwatt over 10 µs is 10 nJ. -/
def divideReading (s : State) (r : PowerReading) : State :=
  let s := s.forEach 17 fun s p => divideEnergy s (10 * r.tiles.getD p 0) (beatShares s p)
  let s := divideEnergy s (10 * r.common) s.power.commonNow
  let s := divideEnergy s (10 * r.hbm) (byteShares s acHbm)
  let s := divideEnergy s (10 * r.fronthaul) (byteShares s acFh)
  let s := divideEnergy s (10 * r.pcie) (byteShares s acPcie)
  let s := divideEnergy s (10 * r.bridge) (byteShares s acBridge)
  let s := chargeEnergy s deviceRecord (10 * (r.ledger + r.decode + r.fabric))
  s.onPower fun p => { p with beatsNow := [], commonNow := [], bytesThen := s.acct }

/-! ### Limiter steps (Table 15.3) -/

/-- The rest number of a step. -/
def stepRest (k : Nat) : Nat := [0, 69, 69, 69, 69, 69, 96, 112, 128].getD k 128

/-- The limiter step. -/
def limiterStep (s : State) : Nat := s.fld 0x4_0024 3 0

/-- The rest number of the fast limiter when it is active (R428). -/
def fastRest (s : State) : Nat := if s.power.fastLeft = 0 then 0 else min 128 (s.fld 0x4_0010 23 16)

/-- The rest number that step and fast limiter ask for. -/
def applyRest (s : State) : State :=
  s.onPower fun p => { p with rest := max (stepRest (limiterStep s)) (fastRest s) }

/-- PWR_STATUS.SHED of a step. -/
def shedBits (k : Nat) : Nat := b2n (2 ≤ k) + 2 * b2n (3 ≤ k) + 4 * b2n (4 ≤ k) + 8 * b2n (5 ≤ k)

/-- TCTL_SHED of a step (Table 15.4). -/
def tileShed (k : Nat) : Word := BitVec.ofNat 32 (16 * b2n (2 ≤ k) + 8 * b2n (4 ≤ k) + 4 * b2n (5 ≤ k))

/-- The limiter at step k: its rest number and its sheds (R427). Proofs that run when they are shed are abandoned. -/
def setStep (s : State) (k : Nat) : State :=
  let old := limiterStep s
  let s := (s.setFld 0x4_0024 3 0 k).setFld 0x4_0020 23 16 (stepRest k)
  let s := s.setFld 0x4_0020 11 8 (shedBits k)
  let s := s.forEach 16 fun s t => s.setReg (tileBase t + 0x14) (tileShed k)
  let s := if 3 ≤ k ∧ old < 3 then s.forEach 24 abandonProof else s
  applyRest (s.onPower fun p => { p with lastChange := s.counter.toNat })

/-! ### Budgets (R424) -/

/-- SUST and HYST in mW, and PEAK_MS, as they act. -/
def sustMw (s : State) : Nat := 1000 * clamp 100 350 (s.fld 0x4_0000 9 0)
def hystMw (s : State) : Nat := 1000 * s.fld 0x4_0004 15 8
def peakMs (s : State) : Nat := min 200 (s.fld 0x4_0004 7 0)

/-- The device power of a reading. -/
def readingSum (r : PowerReading) : Nat :=
  (r.tiles.take 17).sum + r.common + r.ledger + r.decode + r.fabric + r.fronthaul + r.pcie + r.bridge + r.hbm

/-- EXHAUSTED. -/
def exhausted (s : State) : Bool := s.flag 0x4_0020 3

/-- EXHAUSTED entered or cleared at A intervals above SUST. -/
def judgeBudget (s : State) (a : Nat) : State :=
  if !exhausted s then
    if max 1 (100 * peakMs s) ≤ a then
      let s := s.setFld 0x4_0020 3 3 1
      let s := if limiterStep s = 0 then setStep s 1 else s
      raise s ePeakBudget 0 0 (a / 100) s.power.rest
    else s
  else if a ≤ 50 * peakMs s then s.setFld 0x4_0020 3 3 0
  else s

/-- POWER_READING: the reading of one 10 µs interval. -/
def powerReading (s : State) (r : PowerReading) : State :=
  let p := readingSum r
  let e := s.power.energyNj + 10 * p
  let s := divideReading s r
  let s := (s.setReg64 0x4_0030 (s.reg64 0x4_0030 + e / 1000)).setReg 0x4_0028 (BitVec.ofNat 32 p)
  let i := s.power.interval + 1
  let kept := s.power.overs.filter fun n => i < n + 200000
  let overs := if sustMw s < p then i :: kept else kept
  let s := s.onPower fun pp => { pp with
    energyNj := e % 1000, interval := i, overs := overs, recent := (p :: pp.recent).take 1000 }
  judgeBudget (s.setReg 0x4_002C (BitVec.ofNat 32 (overs.length / 100))) overs.length

def execPowerReading (r : PowerReading) (s : State) : Host.Outcome State Fault Refusal :=
  .next (s.act fun s => powerReading s r)

/-! ### The control period (R425, R426) -/

/-- Beats in 10 ms. -/
def tenMs : Nat := 10 * msBeats

/-- The mean of readings compared with a level: sum and count. -/
def meanAbove (l : List Nat) (mw : Nat) : Bool := mw * l.length < l.sum

/-- Peak, thermal and supply demands. -/
def peakDemand (s : State) : Bool := exhausted s && meanAbove (s.power.recent.take 100) (sustMw s)
def thermalDemand (s : State) : Bool := s.flag 0x4_0020 6
def supplyDemand (s : State) : Bool := s.flag 0x4_0020 7

/-- Whether the step may fall: no demand and no change for 10 ms, and the power is down where the budget is exhausted. -/
def mayFall (s : State) : Bool :=
  let now := s.counter.toNat
  s.power.lastDemand + tenMs ≤ now && s.power.lastChange + tenMs ≤ now &&
    (!exhausted s || s.power.recent.sum + hystMw s * s.power.recent.length ≤ sustMw s * s.power.recent.length) &&
    (if exhausted s then 1 else 0) < limiterStep s

/-- LIMITER_CONTROL_PERIOD. -/
def controlPeriod (s : State) : State :=
  let peak := peakDemand s
  let s := s.setFld 0x4_0020 5 5 (b2n peak)
  if peak || thermalDemand s || supplyDemand s then
    let s := s.onPower fun p => { p with lastDemand := s.counter.toNat }
    if limiterStep s < 8 then (setStep s (limiterStep s + 1)).bump 0x4_0048 1 else s
  else if mayFall s then (setStep s (limiterStep s - 1)).bump 0x4_0048 1
  else s

def execLimiterControlPeriod (s : State) : Host.Outcome State Fault Refusal := .next (s.act controlPeriod)

/-! ### The fast limiter (R428) -/

/-- FAST_LIMITER_PERIOD: the mean current of one 256-beat period. -/
def fastPeriod (s : State) (milliAmps : Nat) : State :=
  let trigger := 1000 * min 640 (s.fld 0x4_0010 9 0) < milliAmps || s.power.vddWarned
  let s := if s.power.fastLeft = 0 then s else s.bump 0x4_0044 1
  let left := if trigger then 64 else s.power.fastLeft - 1
  let s := s.setFld 0x4_0020 4 4 (b2n (left ≠ 0))
  applyRest (s.onPower fun p => { p with fastLeft := left, vddWarned := false })

def execFastLimiterPeriod (milliAmps : Nat) (s : State) : Host.Outcome State Fault Refusal :=
  .next (s.act fun s => fastPeriod s milliAmps)

/-! ### The supply monitor (R420–R422) -/

/-- The thresholds of a PWR_VMON value, in mV. -/
def warnMv (w : Word) : Int := 698 + 5 * signed 4 (bits w 3 0)
def resetMv (w : Word) : Int := 660 + 5 * signed 4 (bits w 7 4)

/-- PWR_VMON_WRITE. -/
def vmonWrite (s : State) (v : Word) : State :=
  if resetMv v ≤ warnMv v - 20 then s.setReg 0x4_000C (v &&& mask 7 0) else s.orReg 0x4_0020 0x0100_0000

def execPwrVmonWrite (src : Writer) (val : Word) (s : State) : Host.Outcome State Fault Refusal :=
  .next (s.written src fun s => vmonWrite s val)

/-- The lowest of some readings. -/
def lowest (l : List Nat) : Nat := l.foldl min 0xFFFF

/-- The supply episode: it begins with an average below the warning threshold, and ends when every monitor has read at
least 10 mV above it for 1 ms. -/
def supplyEpisode (s : State) (mv : List Nat) : State :=
  let low : Int := lowest mv
  let w := warnMv (s.reg 0x4_000C)
  let now := s.counter.toNat
  let since (c : Option Nat) (s : State) : State := s.onPower fun p => { p with supplySince := c }
  if low < w then
    let new := !supplyDemand s
    let s := since (some now) ((s.setFld 0x4_0020 7 7 1).onPower fun p => { p with vddWarned := true })
    if new then raise s eSupplyWarn 0 0 (lowest mv) w.toNat else s
  else match s.power.supplySince with
    | none => s
    | some c =>
      if low < w + 10 then since (some now) s
      else if now < c + msBeats then s
      else
        let s := since none (s.setFld 0x4_0020 7 7 0)
        s.onPower fun p => { p with lastDemand := now }

/-- Averages of the four monitors stored and counted. -/
def vddReadings (s : State) (mv : List Nat) : State :=
  let low := lowest mv
  let s := s.setReg 0x4_0038 (BitVec.ofNat 32 low)
  let least := if s.power.vddRead then low else min low (s.reg 0x4_003C).toNat
  let s := (s.setReg 0x4_003C (BitVec.ofNat 32 least)).onPower fun p => { p with vddRead := false }
  s.bump 0x4_0040 (mv.countP fun (v : Nat) => (v : Int) < warnMv (s.reg 0x4_000C))

/-- VDD_MONITOR_PERIOD: the four averages of one 64-beat period. The reset of R422 acts while the device is frozen too
(Table 17.1). -/
def vddPeriod (s : State) (mv : List Nat) : State :=
  if !s.locked then s
  else
    let mv := mv.take 4
    let low := mv.map fun (v : Nat) => decide ((v : Int) < resetMv (s.reg 0x4_000C))
    if (low.zip s.power.vddLow).any fun x => x.1 && x.2 then hardReset s .supply
    else
      let s := s.onPower fun p => { p with vddLow := low }
      s.act fun s => supplyEpisode (vddReadings s mv) mv

def execVddMonitorPeriod (mv : List Nat) (s : State) : Host.Outcome State Fault Refusal := .next (vddPeriod s mv)

/-! ### Temperature (R430–R434) -/

/-- The last reading of sensor n. -/
def tempOf (s : State) (n : Nat) : Int := signed 8 (s.fld (0x4_0100 + 4 * n) 7 0)

/-- The throttle point of sensor n, and HYST_T. -/
def throttleOf (s : State) (n : Nat) : Int := if n = 24 then 95 else clamp 60 95 (s.fld 0x4_0008 7 0)
def hystT (s : State) : Int := s.fld 0x4_0008 11 8

/-- The thermal demand after new readings: it begins with the first sensor at its throttle point, and ends when every
sensor reads below its point less the hysteresis. -/
def judgeThermal (s : State) : State :=
  if !thermalDemand s then
    match (List.range 25).find? fun n => throttleOf s n ≤ tempOf s n with
    | some n => raise (s.setFld 0x4_0020 6 6 1) eThermalWarn 0 0 n (pattern 32 (tempOf s n))
    | none => s
  else if (List.range 25).all fun n => tempOf s n < throttleOf s n - hystT s then
    let s := s.setFld 0x4_0020 6 6 0
    s.onPower fun p => { p with lastDemand := s.counter.toNat }
  else s

/-- A thermal trip: the device holds itself in reset until power is removed. -/
def thermalTrip (s : State) : State :=
  let r := resetState s keptByHard
  r.onPower fun p => { p with tripped := true }

/-- Readings at or above 105 °C twice running trip the device (R432). -/
def tripTemp : Int := 105

/-- The hottest of the junction readings. -/
def hottest (temps : List Int) : Int := temps.foldl max (-128)

/-- PWR_WEAR and PWR_WEAR_HOT accrue 100 µs for a reading above 95 and 100 °C (R434). -/
def wearAccrue (s : State) (h : Int) : State :=
  s.onPower fun p => { p with
    wear100us := p.wear100us + b2n (95 < h), wearHot100us := p.wearHot100us + b2n (100 < h) }

/-- A signed reading as a register field. -/
def tempBits (v : Int) : Word := BitVec.ofNat 32 (pattern 8 v)

/-- The junction readings stored. -/
def storeTemps (s : State) (temps : List Int) : State :=
  let s := s.forEach 24 fun s n => s.setReg (0x4_0100 + 4 * n) (tempBits (temps.getD n (tempOf s n)))
  let most := if s.power.tempRead then hottest temps else max (hottest temps) (signed 8 (s.fld 0x4_0180 7 0))
  (s.setReg 0x4_0180 (tempBits most)).onPower fun p => { p with tempRead := false }

/-- THERMAL_READING of sensors 0 to 23; the trip acts while the device is frozen too (Table 17.1). -/
def thermalReading (s : State) (temps : List Int) : State :=
  let temps := temps.take 24
  let hot := decide (tripTemp ≤ hottest temps)
  if s.host.inReset then s
  else if hot && s.power.hotJunction then thermalTrip s
  else
    let s := s.onPower fun p => { p with hotJunction := hot }
    s.act fun s => judgeThermal (wearAccrue (storeTemps s temps) (hottest temps))

def execThermalReading (temps : List Int) (s : State) : Host.Outcome State Fault Refusal :=
  .next (thermalReading s temps)

/-- HBM_TEMP_READ: the stack temperature, which is sensor 24. -/
def hbmTempRead (s : State) (temp : Int) : State :=
  let hot := decide (tripTemp ≤ temp)
  if s.host.inReset then s
  else if hot && s.power.hotStack then thermalTrip s
  else
    let s := s.onPower fun p => { p with hotStack := hot }
    s.act fun s =>
      judgeThermal ((s.setReg 0x4_0160 (tempBits temp)).setFld (hbmBase + 4) 23 16 (pattern 8 temp))

def execHbmTempRead (temp : BitVec 8) (s : State) : Host.Outcome State Fault Refusal := .next (hbmTempRead s temp.toInt)

end Sys2Proof.Machine
end

