-- ==== Sys2Proof/Machine/RegView.lean ====
section
/-! DEFINITION. RegView.lean: what a read of a register returns, and what the read does (Tables 0.3 and 0.4, R5, R6, R12,
R16, R34, R269, R341, R501).

A register that shows live state of a unit is computed from that state; every other register reads as stored. -/

namespace Sys2Proof.Machine

/-! ### Latched high words -/

/-- Where the latched high word of a 64-bit quantity is held: past the end of BAR0, by the offset it is read at. -/
def latchOff (o : Nat) : Nat := 0x0400_0000 + o

/-- The latched word that a read at offset `o` returns. -/
def State.latched (s : State) (o : Nat) : Word := s.reg (latchOff o)

/-- Record and field of an accounting offset, in the Ledger block. -/
def acctAt (x : Nat) : Nat × Nat :=
  if 0xC000 ≤ x then (deviceRecord, (x - 0xC000) / 8)
  else (33 * ((x - 0x8000) / 0x1000) + x % 0x1000 / 0x40, x % 0x40 / 8)

/-! ### Live words by block -/

/-- PWR_ON_TIME and the wear counters (R434). -/
def globalWord (s : State) (x : Nat) : Word :=
  if x = 0x4_0034 then s.latched x
  else if x = 0x4_0200 then s.reg 0x4_0204 + at' 0 (s.power.wear100us / 10000)
  else if x = 0x4_0208 then s.reg 0x4_020C + at' 0 (s.power.wearHot100us / 10000)
  else if x = 0x4_0210 then at' 0 (s.counter.toNat / beatsPerSecond)
  else s.reg x

/-- The words of a tally (Tables 9.2–9.5). -/
def tallyWord (s : State) (x : Nat) : Word :=
  if x % 16 = 0 then at' 0 (s.tally (x / 16)).count
  else if x % 16 = 12 then tallyStatusWord s (x / 16)
  else 0

/-- JOB_RUNNING, the slot registers, LEASE_STATUS and the accounting records (Tables 9.12–9.18, R269). -/
def ledgerWord (s : State) (x : Nat) : Word :=
  if x = 0x4000 then
    match s.runningSlot with
    | some n => at' 16 (s.job n).number ||| at' 0 n
    | none => 7
  else if 0x4010 ≤ x ∧ x < 0x4050 then
    let j := s.job ((x - 0x4010) / 16)
    match x % 16 with
    | 0 => at' 16 j.number ||| at' 0 (jobStateCode j.state)
    | 4 => at' 16 j.image.nsLen ||| at' 0 j.image.nsBase
    | _ => j.endDetail
  else if x = 0x4050 then at' 0 (leasesInUse s)
  else if 0x8000 ≤ x then
    if x % 8 = 4 then s.latched (0x0010_0000 + x)
    else loWord (s.acctOf (acctAt x).1 (acctAt x).2).toNat
  else s.reg (0x0010_0000 + x)

/-- TM_COUNT, TBn_TIME_LO and TM_SYNCE_STATUS (R341, R351). -/
def timeWord (s : State) (x : Nat) : Word :=
  if x = 0x8 then loWord s.counter.toNat
  else if x = 0xC then s.latched (0x0020_0000 + x)
  else if 0x100 ≤ x ∧ x < 0x300 ∧ (x - 0x100) % 0x80 = 0x18 then loWord (s.nsOf ((x - 0x100) / 0x80))
  else if x = 0x604 ∧ !s.flag 0x0020_0600 0 then 0
  else s.reg (0x0020_0000 + x)

/-- BR_CREDITs and BR_LS_COMPARED (Table 14.7). -/
def bridgeWord (s : State) (x : Nat) : Word :=
  if 0x20 ≤ x ∧ x < 0x30 then
    let k := (x - 0x20) / 4
    at' 0 (creditsOf s .req k) ||| at' 8 (creditsOf s .rsp k) ||| at' 16 (creditsOf s .sig k)
      ||| at' 24 (b2n (s.bridge.recalled.contains k))
  else if x = 0x5C then s.latched (brBase + x)
  else s.reg (brBase + x)

/-- HBM_STATUS.HOT: refresh is doubled from 85 °C on, or by HBM_CTRL (R203). -/
def hbmWord (s : State) (x : Nat) : Word :=
  if x = 4 then
    s.reg (hbmBase + 4) ||| at' 8 (b2n (85 ≤ signed 8 (s.fld (hbmBase + 4) 23 16) || s.flag hbmBase 24))
  else s.reg (hbmBase + x)

/-- SLIDE_STATUS of engine e (Table 8.7). -/
def slideStatus (s : State) (e : Nat) : Word :=
  let used := (List.range 32).foldl (fun n ch => n + heldBlocks (s.chan e ch)) 0
  at' 16 (poolSizeOf s e - poolUsed s e) ||| at' 8 (128 - used)
    ||| at' 0 ((List.range 32).countP fun ch => (s.chan e ch).status ≠ .idle)

/-- SLIDE_CHn_STATUS (Table 8.10); CFG_ERR is stored. A channel that a save stops shows HELD (R216, R238). -/
def channelStatus (s : State) (e ch : Nat) : Word :=
  let c := s.chan e ch
  let st := if c.status = .active && !chActive s e ch then .held else c.status
  at' 16 c.q.length ||| at' 8 (heldBlocks c) ||| at' 6 c.haltCause ||| (s.reg (chBase e ch + 8) &&& 0x20)
    ||| at' 4 (b2n (c.status = .halted)) ||| at' 3 (b2n (!c.slots.isEmpty)) ||| at' 0 (channelCode st)

/-- The registers of slide engine e. -/
def slideWord (s : State) (e x : Nat) : Word :=
  if x = 4 then slideStatus s e
  else if 0x1000 ≤ x ∧ x < 0x1800 ∧ x % 0x40 = 8 then channelStatus s e ((x - 0x1000) / 0x40)
  else if 0x1000 ≤ x ∧ x < 0x1800 ∧ x % 0x40 = 0x18 then at' 0 (ringPos s e ((x - 0x1000) / 0x40))
  else s.reg (slideBase e + x)

/-- IG_STATUS, IG_QUARANTINE and IG_TILEt (Tables 13.11 and beside it). -/
def integrityWord (s : State) (x : Nat) : Word :=
  if x = 4 then
    let busy := (List.range 24).any fun c => match (s.proof c).running with
      | some (p, _) => some p = s.spare
      | none => false
    at' 8 (s.integ.recoveries.foldl (fun m r => max m r.level) 0) ||| at' 5 (b2n busy) ||| at' 0 (s.spare.getD 0x1F)
  else if x = 0x14 then quarantineWord s
  else if 0x100 ≤ x ∧ x < 0x140 then
    let t := (x - 0x100) / 4
    (s.reg (igBase + x) &&& 0x1F) ||| at' 8 (min 15 (recentMismatches s (s.physOf t)).length)
      ||| at' 16 (s.physOf t) ||| at' 24 (b2n (tget (fun _ => none) s.integ.checkpoints t).isSome)
  else s.reg (igBase + x)

/-- CC_STATUS.ACTIVE (Table 10.11). -/
def carrierWord (s : State) (c x : Nat) : Word :=
  if x = 4 then s.reg (carrierBase c + 4) ||| at' 0 (b2n (s.ccActive c)) else s.reg (carrierBase c + x)

/-- A half of a row map of physical tile p waits for its switch (R133). -/
def switchPending (s : State) (p : Nat) : Bool :=
  (tget (fun _ => none) s.integ.rowPending (2 * p)).isSome || (tget (fun _ => none) s.integ.rowPending (2 * p + 1)).isSome

/-- BA_STATUS (Table 4.10); FROZEN as the state of the array tells it for the current beat (R124). -/
def arrayStatus (s : State) (t : Nat) : Word :=
  let busy := at' 0 ((List.range 4).foldl (fun a p => a + b2n ((s.array t).passes.any (·.part = p)) * 2 ^ p) 0)
  at' 16 (fillerLevel s t 0) ||| at' 15 (b2n (switchPending s (s.physOf t))) ||| at' 12 (partMode s t)
    ||| at' 4 ((List.range (partCount s t)).foldl (fun a p => a + b2n (frozenNow s t p) * 2 ^ p) 0) ||| busy

/-- BA_DEPTH (R109). -/
def depthWord (s : State) (t : Nat) : Word :=
  (List.range (partCount s t)).foldl (fun w p => w ||| at' (8 * p) (depthOf s t p)) 0

def arrayWord (s : State) (t x : Nat) : Word :=
  if x = 4 then arrayStatus s t else if x = 8 then depthWord s t else s.reg (baBase t + x)

/-- QS_STATUS; a MATVEC stands frozen in a rest beat (R130, R139). -/
def quickSumWord (s : State) (t x : Nat) : Word :=
  if x = 4 then
    let busy := !(s.array t).quickSum.isEmpty
    at' 0 (b2n busy) ||| at' 1 (b2n (qsFrozen s t))
  else s.reg (qsBase t + x)

/-- ROD_STATUS (Table 6.9). A cause that the queues do not tell is free while the engine runs (log entry 4). -/
def rodStatus (s : State) (t : Nat) : Word :=
  let n := (s.core t).rodQ.length
  let st := if rodHeld s t then 3 else if rodFaulted s t then 2 else if n = 0 then 0 else 1
  at' 8 n ||| at' 3 (if st = 1 then (rodStallCause s t).getD (s.freeWord.toNat % 5) else 0) ||| at' 0 st

def rodWord (s : State) (t x : Nat) : Word := if x = 4 then rodStatus s t else s.reg (rodBase t + x)

/-- STATE of a digit core (Table 3.11). -/
def coreCode : CoreStatus → Nat
  | .idle => 0 | .run => 1 | .stall => 2 | .held => 3 | .halted => 4

/-- DC_STATUS (Table 3.11, R501). -/
def coreStatus (s : State) (t : Nat) : Word :=
  let c := s.core t
  let live := c.status ≠ .idle
  at' 26 c.sumQ.length ||| at' 21 (rodOutstanding s t) ||| at' 16 (arrayOutstanding s t) ||| at' 10 c.rrb.toNat
    ||| at' 9 (b2n (live && c.rep.isSome)) ||| at' 8 (b2n (live && c.irq ≠ 0 && heldOff c))
    ||| at' 4 (if c.status = .stall then c.stallCause else 0) ||| at' 0 (coreCode c.status)

def coreWord (s : State) (t x : Nat) : Word :=
  if x = 4 then coreStatus s t
  else if x = 8 then at' 0 (s.core t).pc.toNat
  else s.reg (dcBase t + x)

/-- PT_ROW_STATUS.SWITCH_PENDING and PT_ROLE (Tables 4.13 and 13.13). -/
def physWord (s : State) (p x : Nat) : Word :=
  if x = 4 then s.reg (physBase p + 4) ||| at' 16 (b2n (switchPending s p))
  else if x = 0xC then
    let l := if s.roleOf p = 0 then (logicalOf s p).getD 0 else tget (fun _ => 0) s.integ.lastLogical p
    at' 8 l ||| at' 0 (s.roleOf p)
  else s.reg (physBase p + x)

/-- DBG_STATUS and DBG_HALTED (Table 17.7, R477). -/
def debugWord (s : State) (x : Nat) : Word :=
  if x = 4 then (s.reg (dbgBase + 4) &&& 0x3C) ||| at' 6 (b2n s.dbg.stream.isSome) ||| at' 1 (b2n s.dbg.pin) ||| at' 0 (b2n s.dbg.frozen)
  else if x = 0x10 then
    at' 0 ((List.range 16).foldl (fun a t => a + b2n ((s.core t).heldBy = some 0) * 2 ^ t) 0)
  else if x = 0x40 then s.latched (dbgBase + x)
  else s.reg (dbgBase + x)

/-- The word at an offset before its unreadable bits are removed. -/
def rawWord (s : State) (o : Nat) : Word :=
  match blockOf o with
  | (.global, x) => globalWord s x
  | (.tally, x) => tallyWord s x
  | (.ledger, x) => ledgerWord s x
  | (.time, x) => timeWord s x
  | (.bridge, x) => bridgeWord s x
  | (.hbm, x) => hbmWord s x
  | (.central e, x) => slideWord s (16 + e) x
  | (.integrity, x) => integrityWord s x
  | (.carrier c, x) => carrierWord s c x
  | (.tile t .array, x) => arrayWord s t x
  | (.tile t .rod, x) => rodWord s t x
  | (.tile t .core, x) => coreWord s t x
  | (.tile t .slide, x) => slideWord s t x
  | (.tile t .quickSum, x) => quickSumWord s t x
  | (.phys p, x) => physWord s p x
  | (.debug, x) => debugWord s x
  | _ => s.reg o

/-- The bits that a read returns: those of fields that are not WO (R5, Table 0.3); none at a reserved address (R34). -/
def readable (o : Nat) : Word := fldMask (fieldsAt o) fun f => f.acc ≠ .wo

/-- What a read of the register at an offset returns; a COMMIT register shows PENDING (Table 0.4). -/
def regView (s : State) (o : Nat) : Word :=
  if commitOf o = some o then at' 1 (b2n (commitPending s o)) else readable o &&& rawWord s o

/-- The members of a broadcast or group window, and the offset of a member's register (R440). -/
def windowOf (s : State) (o : Nat) : Option (List Nat × (Nat → Nat)) :=
  match blockOf o with
  | (.carrierAll, x) => some (List.range 24, fun c => carrierBase c + x)
  | (.carrierGroup g, x) =>
    some ((List.range 24).filter fun c => s.flag (0x1_0140 + 4 * g) c, fun c => carrierBase c + x)
  | (.tileAll, x) => some (List.range 16, fun t => tileBase t + x)
  | (.tileGroup g, x) => some ((List.range 16).filter fun t => s.flag (0x1_0100 + 4 * g) t, fun t => tileBase t + x)
  | _ => none

/-- What a readout of the register space shows at an offset: through a window the lowest member's word, as R442 reads it,
with none of the effects of a read (R472). -/
def viewAt (s : State) (o : Nat) : Word := match windowOf s o with
  | some (m :: _, f) => regView s (f m)
  | some ([], _) => 0
  | none => regView s o

/-! ### What a read does -/

/-- The high word that a read of a low word latches (R269, and the register lists of Device Time, Power and the debug
unit). -/
def latchedBy (s : State) (o : Nat) : Option Word :=
  match blockOf o with
  | (.global, 0x4_0030) => some (s.reg 0x4_0034)
  | (.ledger, x) =>
    if 0x8000 ≤ x ∧ x % 8 = 0 then some (hiWord (s.acctOf (acctAt x).1 (acctAt x).2).toNat) else none
  | (.time, 8) => some (hiWord s.counter.toNat)
  | (.bridge, 0x58) => some (s.reg (brBase + 0x5C))
  | (.debug, 0x3C) => some (s.reg (dbgBase + 0x40))
  | _ => none

/-- RC fields back at 0; the two extremes start again at the next reading (Table 0.3). -/
def clearRc (s : State) (o : Nat) : State :=
  let m := fldMask (fieldsAt o) fun f => f.acc = .rc
  let s := if m = 0 then s else s.setReg o (s.reg o &&& ~~~m)
  if o = 0x4_003C then s.onPower fun p => { p with vddRead := true }
  else if o = 0x4_0180 then s.onPower fun p => { p with tempRead := true }
  else s

/-- The base whose TBn_TIME_LO stands at an offset. -/
def timeLoAt (o : Nat) : Option Nat := (List.range 4).find? fun n => o = tbBase n + 0x18

/-- The effects of a read. -/
def readEffect (s : State) (o : Nat) : State :=
  let s := match latchedBy s o with
    | some w => if (regAt o).isSome then s.setReg (latchOff (o + 4)) w else s
    | none => s
  match timeLoAt o with
  | some n => timeLatch s n
  | none => clearRc s o

/-- A register read: the word, and the state after. -/
def readReg (s : State) (o : Nat) : Word × State := (regView s o, (readEffect s o).drawFree)

end Sys2Proof.Machine
end

