-- ==== Sys2Proof/Machine/Debug.lean ====
section
/-! DEFINITION. Debug.lean: freezing and thawing, the readout engine and its spaces, the counter snapshot, tile halts,
and the TAP (R465–R477, Tables 17.1–17.7). -/

namespace Sys2Proof.Machine

/-- An action of the debug unit, which every reset of Table 16.6 holds in reset (R465). -/
def State.debugUnit (s : State) (f : State → State) : State := if s.host.inReset then s else f s

/-! ### Freeze and thaw (R466–R468, R471) -/

/-- The clocks stop when a freeze source holds and they run (R467, R468). -/
def freezeCheck (s : State) : State := if (s.dbg.pin || s.flag dbgBase 0) && s.locked then freezeNow s else s

/-- An error detected at the freeze edge enters the log (R475). -/
def enterDeferred (s : State) : State :=
  (beatOrder s.integ.deferred).foldl admitError (s.onInteg fun g => { g with deferred := [] })

/-- The thaw ends the frame of a space that is read only while the device is frozen, without its CRC (R474). -/
def cutStream (s : State) : State := match s.dbg.stream with
  | some x =>
    if x.space = 0 then s else (s.send (.debugFrame x.bytes)).onDbg fun d => { d with stream := none }
  | none => s

/-- The clocks restart when no freeze source is left (R471). A bridge port whose reference clock went meanwhile leaves UP
now. -/
def thawCheck (s : State) : State :=
  if !s.dbg.frozen || s.dbg.pin || s.flag dbgBase 0 then s
  else
    let s := s.setReg64 (dbgBase + 0x3C) (s.dbg.frozenFor / 8)
    let s := cutStream (s.onDbg fun d => { d with frozen := false, frozenFor := 0 })
    let s := enterDeferred (s.forEach 4 armBase)
    if s.portDown .bridge then bridgeDown s else s

/-- A request of the host that was pending at the freeze edge completes with Completer Abort; a write that waits is no
request to complete (Table 17.1). -/
def abortHeld (s : State) : State :=
  if s.host.held.all (·.write) then s
  else (s.answer .abort []).onHost fun h => { h with held := h.held.filter (·.write) }

/-- FREEZE: FREEZE_N falls, or REQ becomes 1. -/
def freeze (s : State) (pin : Bool) : State :=
  if pin then freezeCheck (s.onDbg fun d => { d with pin := true })
  else s.debugUnit fun s => freezeCheck (s.orReg dbgBase 1)

def execFreeze (pin : Bool) (s : State) : Host.Outcome State Fault Refusal := .next (freeze s pin)

/-- THAW: every freeze source ends. -/
def thaw (s : State) : State := thawCheck ((s.onDbg fun d => { d with pin := false }).setFld dbgBase 0 0 0)

def execThaw (s : State) : Host.Outcome State Fault Refusal := .next (thaw s)

/-! ### Readout (R472–R474) -/

/-- The descriptors of logical tile t in resident slot k: those of the tile's channels while the job runs, and the saved
ones after a pre-emption (R238, Table 17.3). -/
def listedDescs (s : State) (t k : Nat) : List Nat :=
  let chans := if s.runningSlot = some k then (List.range 32).map fun ch => s.chan t ch
    else match tget (fun _ => none) (s.job k).contexts t with
      | some c => c.chans
      | none => []
  chans.flatMap fun c => c.q.map (·.addr)

/-- An entry of the tile slide descriptor store. -/
def storeEntry (s : State) (p k n : Nat) : Word :=
  match logicalOf s p with
  | none => s.freeWord &&& 0x1FF_FFFF
  | some t => match (listedDescs s t k)[n]? with
    | some a => at' 0 (a % 2 ^ 25)
    | none => s.freeWord &&& 0x1FF_FFFF

/-- DBG_STATUS and DBG_ECC_ADDR after a readout of an ECC-protected word (R473). -/
def readoutEcc (s : State) (space a st : Nat) : State :=
  match s.eccOf (st / 8) with
  | 0 => s
  | 1 => s.orReg (dbgBase + 4) 0x10
  | _ =>
    if s.flag (dbgBase + 4) 5 then s
    else (s.setReg64 (dbgBase + 0x34) (if space = 2 ∨ space = 3 then a else 0)).orReg (dbgBase + 4) 0x20

/-- Where a memory space holds an address, if it does. -/
def readoutStore (space a : Nat) : Option Nat :=
  match space with
  | 2 => if a / 0x200_0000 < 17 ∧ a % 0x200_0000 < 0x124_0000 then some (physStore (a / 0x200_0000) (a % 0x200_0000)) else none
  | 3 => if a < commonSize then some (commonStore a) else none
  | 4 => if a < 0x40_0000 then some (sramStore a) else none
  | _ => none

/-- The aligned word at an address of a space (Table 17.2), and the state after. -/
def readoutWord (s : State) (space a : Nat) : Word × State :=
  let a := a / 4 * 4
  let s' := s.drawFree
  if space = 0 then (if a < 0x400_0000 then viewAt s a else 0, s')
  else if space = 7 then (0, s)
  else if !s.dbg.frozen then (0, s.orReg (dbgBase + 4) 8)
  else match space with
    | 1 => (if a / 0x1_8000 < 17 then tileWord s (a / 0x1_8000) (a % 0x1_8000) s.freeWord else 0, s')
    | 5 => (if a / 0x1_0000 < 17 then storeEntry s (a / 0x1_0000) (a % 0x1_0000 / 0x4000) (a % 0x4000 / 4) else 0, s')
    | 6 => (tget (fun _ => 0) s.dbg.snapshot a, s)
    | _ => match readoutStore space a with
      | some st => (BitVec.ofNat 32 (s.readLE st 4), readoutEcc s space a st)
      | none => (0, s)

/-- A read of DBG_DATA (R474). -/
def debugData (s : State) : Word × State :=
  let a := s.reg64 (dbgBase + 0x24)
  let (w, s) := readoutWord s (s.fld (dbgBase + 0x20) 2 0) a
  (w, s.setReg64 (dbgBase + 0x24) (a + 4))

/-- A read of the debug block. -/
def debugRead (s : State) (x : Nat) : Word × State := if x = 0x2C then debugData s else readReg s (dbgBase + x)

/-- The header of a frame. -/
def streamHeader (x : DebugStream) : List Byte :=
  [0xA5, BitVec.ofNat 8 x.space] ++ natLE 6 x.addr ++ natLE 4 x.len ++ natLE 4 0

/-- The next four bytes of a frame leave: of its header, of the data or of the CRC, which ends it. -/
def frameWord (s : State) (x : DebugStream) : State :=
  let n := x.bytes.length
  let add (s : State) (l : List Byte) : State := s.onDbg fun d => { d with stream := some { x with bytes := x.bytes ++ l, age := 0 } }
  if n < 16 then add s (bytesAt (streamHeader x) n 4)
  else if n < 16 + x.len then
    let (w, s) := readoutWord s x.space (x.addr + (n - 16))
    add s (natLE 4 w.toNat)
  else (s.send (.debugFrame (x.bytes ++ natLE 4 (crc32c x.bytes)))).onDbg fun d => { d with stream := none }

/-- One beat of the readout port, which sends a word in 16 beats, 312.5 MB/s, whether or not the device is frozen (R465,
R474). -/
def streamBeat (s : State) : State := match s.dbg.stream with
  | none => s
  | some x =>
    if x.age < 15 then s.onDbg fun d => { d with stream := some { x with age := x.age + 1 } } else frameWord s x

/-- A write of DBG_STREAM_LEN (R474); one while a frame is being sent starts none (log entry 77). -/
def streamStart (s : State) (len : Word) : State :=
  let space := s.fld (dbgBase + 0x20) 2 0
  if len = 0 ∨ len.toNat % 4 ≠ 0 then s
  else if 1 ≤ space ∧ space ≤ 6 ∧ !s.dbg.frozen then s.orReg (dbgBase + 4) 8
  else if s.dbg.stream.isSome then s
  else s.onDbg fun d => { d with
    stream := some { space := space, addr := s.reg64 (dbgBase + 0x24), len := len.toNat } }

def execDbgStreamLen (len : Word) (s : State) : Host.Outcome State Fault Refusal :=
  .next (s.debugUnit fun s => streamStart s len)

/-! ### Counter snapshot (R476) -/

/-- Offsets of n registers from o on. -/
def span (o n : Nat) : List Nat := (List.range n).map fun i => o + 4 * i

/-- The counters of a tile (Table 17.4). -/
def tileCounters (t : Nat) : List Nat :=
  span (dcBase t + 0x40) 8 ++ [dcBase t + 0x10] ++ span (baBase t + 0x100) 32 ++ span (baBase t + 0x180) 4 ++
    [baBase t + 0x190, baBase t + 0x194] ++ span (qsBase t + 0x40) 4 ++ [qsBase t + 0x60] ++
    span (rodBase t + 0x40) 5 ++ [rodBase t + 0x60, rodBase t + 0x64] ++ span (brdBase t + 0x40) 11 ++
    [brdBase t + 0xC, brdBase t + 0x10]

/-- The counters of a slide engine. -/
def engineCounters (e : Nat) : List Nat :=
  [slideBase e + 0x10, slideBase e + 0x14] ++ (List.range 32).flatMap fun ch =>
    [chBase e ch + 0x14, chBase e ch + 0x1C] ++ span (chBase e ch + 0x20) 6

/-- Every counter of Table 17.4. -/
def snapOffsets : List Nat :=
  span 0x3000 256 ++ [cbBase + 0xC, cbBase + 0x10] ++ span (cbBase + 0x40) 25 ++
    (List.range 133).flatMap (fun r => span (acctOff r 0) 16) ++ [hbmBase + 0x14, hbmBase + 0x18] ++
    (List.range 20).flatMap engineCounters ++ (List.range 16).flatMap tileCounters

/-- The value of a counter at an offset: as read, and the live high word of an accounting field. -/
def counterWord (s : State) (o : Nat) : Word :=
  match blockOf o with
  | (.ledger, x) => if x % 8 = 4 then hiWord (s.acctOf (acctAt x).1 (acctAt x).2).toNat else regView s o
  | _ => regView s o

/-- A write of 1 to DBG_CSNAP.TAKE. -/
def snapTake (s : State) : State :=
  s.onDbg fun d => { d with snapshot := snapOffsets.foldl (fun m o => tset (fun _ => 0) m o (counterWord s o)) [] }

def execDbgCsnapTake (s : State) : Host.Outcome State Fault Refusal := .next (s.debugUnit snapTake)

/-! ### Tile halts (R477) -/

/-- The halt of logical tile t begins or ends. A held core resumes once its units act. -/
def haltTile (s : State) (t : Nat) (on : Bool) : State :=
  if on then raiseIrq s t 0
  else
    let s := s.setCore t (dropIrq (s.core t) 0)
    if (s.core t).heldBy = some 0 && s.live then coreResume s t else s

/-- A write of DBG_HALT. -/
def haltWrite (s : State) (v : Word) : State :=
  let o := dbgBase + 0xC
  let old := s.reg o
  (s.setReg o (v &&& 0xFFFF)).forEach 16 fun s t => if bit old t = bit v t then s else haltTile s t (bit v t)

def execDbgHaltWrite (val : Word) (s : State) : Host.Outcome State Fault Refusal :=
  .next (s.debugUnit fun s => haltWrite s val)

/-! ### Writes of the debug block -/

/-- A write of DBG_FREEZE. -/
def freezeWrite (s : State) (v : Word) : State := thawCheck (freezeCheck (s.setReg dbgBase (v &&& 3)))

/-- The word that a write of v leaves in a register: L fields take the value, the ones of W1C fields clear (Table 0.3,
R9). -/
def plainWord (o : Nat) (old v : Word) : Word :=
  let fs := fieldsAt o
  let w := blend (fldMask fs fun f => f.acc = .rw && f.cls = .live) old v
  w &&& ~~~(v &&& fldMask fs fun f => f.acc = .w1c)

/-- A write of the debug block at offset x. -/
def debugWrite (s : State) (x : Nat) (v : Word) : State :=
  s.debugUnit fun s =>
    match x with
    | 0x00 => freezeWrite s v
    | 0x0C => haltWrite s v
    | 0x30 => streamStart s v
    | 0x48 => if bit v 0 then snapTake s else s
    | x => s.setReg (dbgBase + x) (plainWord (dbgBase + x) (s.reg (dbgBase + x)) v)

/-! ### JTAG (Table 17.5) -/

/-- The low n bits of a number, bit 0 first. -/
def bitList (n v : Nat) : List Bool := (List.range n).map fun i => v.testBit i

/-- n free bits, the levels of balls that a boundary scan captures (log entry 3). -/
def freeBits (s : State) (n : Nat) : List Bool := (List.range n).map fun i => Config.freeChoice (s.free + i)

/-- The instruction register, and the bits a scan shifts out. -/
def tapScan (s : State) (ir : Byte) (out : List Bool) : State :=
  s.onDbg fun d => { d with ir := ir, scanOut := out, extest := ir = 0 }

/-- JTAG_DBG_REG: the scan shifts out the result of the previous read, and performs a write or a read. What the other
bits of the scan show is free. -/
def dbgReg (s : State) (write : Bool) (idx : BitVec 16) (val : Word) : State :=
  let s := (tapScan s 0x10 (bitList 32 s.dbg.jtagResult.toNat ++ freeBits s 17)).drawFree 17
  let x := 4 * idx.toNat
  s.debugUnit fun s =>
    if write then debugWrite s x val
    else
      let (w, s) := debugRead s x
      s.onDbg fun d => { d with jtagResult := w }

def execJtagDbgReg (write : Bool) (idx : BitVec 16) (val : Word) (s : State) : Host.Outcome State Fault Refusal :=
  .next (dbgReg s write idx val)

/-- IDCODE of stepping B0 (Table 17.5). -/
def idcode : Nat := 0x124165C7

def execJtagIdcode (s : State) : Host.Outcome State Fault Refusal := .next (tapScan s 2 (bitList 32 idcode))

/-- A scan of the boundary register: what it captures is shifted out, and `chain` is shifted in. -/
def boundaryScan (s : State) (ir : Byte) (chain : List Bool) : State :=
  let s := (tapScan s ir (freeBits s chain.length)).drawFree chain.length
  s.onDbg fun d => { d with boundary := chain }

/-- JTAG_EXTEST: the balls are driven from the boundary register. -/
def execJtagExtest (chain : List Bool) (s : State) : Host.Outcome State Fault Refusal := .next (boundaryScan s 0 chain)

/-- JTAG_SAMPLE_PRELOAD: the boundary register is loaded and the balls are the device's. -/
def execJtagSamplePreload (chain : List Bool) (s : State) : Host.Outcome State Fault Refusal :=
  .next (boundaryScan s 1 chain)

/-- JTAG_BYPASS: one register bit, captured as 0, stands between input and output. -/
def execJtagBypass (tdi : Bool) (s : State) : Host.Outcome State Fault Refusal := .next (tapScan s 0xFF [false, tdi])

/-- TAP_RESET: the TAP alone, at IDCODE (R481). -/
def execTapReset (s : State) : Host.Outcome State Fault Refusal := .next (tapScan s 2 [])

end Sys2Proof.Machine
end

