-- ==== Sys2Proof/Machine/Access.lean ====
section
/-! DEFINITION. Access.lean: writes of registers by class and block, broadcast and group windows, accesses held by a swap,
BAR2, the host's requests, Ledger's and the board controller's accesses (R4–R15, R31–R35, R128, R217, R220, R249, R270,
R278, R356, R398, R411, R438–R442, R488, Table 17.1). -/

namespace Sys2Proof.Machine

/-! ### Class K (R14) -/

/-- A port names an enabled carrier's link (R270). -/
def portInUse (s : State) (p : Nat) : Bool :=
  (List.range 24).any fun c => s.ccEnabled c && ccLinkNo s c / 4 = p

/-- Slide channel ch of engine e counts as idle (R217). -/
def channelIdle (s : State) (e ch : Nat) : Bool := (s.chan e ch).status = .idle || (s.chan e ch).status = .halted

/-- Slide engine e counts as idle (R217). -/
def engineIdle (s : State) (e : Nat) : Bool := (List.range 32).all (channelIdle s e)

/-- The bead-array block of tile t counts as idle (R128). -/
def arrayIdle (s : State) (t : Nat) : Bool :=
  !s.anyRunning && (s.core t).arrayQ.all (·.quickSum) && (s.array t).passes.isEmpty

/-- Whether the block of a register with K fields is idle, as its chapter defines it. -/
def kIdle (s : State) (o : Nat) : Bool :=
  match blockOf o with
  | (.ledger, x) => if x = 4 then !subOn s else !s.flag (cplBase ((x - 0x200) / 0x20) + 0x14) 0
  | (.fronthaul, x) => !portInUse s (if x < 0x2000 then x / 0x1000 else (x - 0x2000) / 0x400)
  | (.central e, _) => engineIdle s (16 + e)
  | (.tile t .slide, _) => engineIdle s t
  | (.tile t .array, _) => arrayIdle s t
  | (.tile t .core, _) => (s.core t).status = .idle || (s.core t).status = .halted
  | (.carrier c, _) => !s.ccLive c
  | _ => !s.anyRunning

/-- The K fields of a register. -/
def lockedMask (o : Nat) : Word := fldMask (fieldsAt o) fun f => f.cls = .locked && f.acc = .rw

/-- CFG_LOCKED_WRITE for a write of v at an offset (R14). -/
def lockedWrite (s : State) (o : Nat) (v : Word) : State :=
  raise s eLockedWrite (lockUnit o).1 (lockUnit o).2 o v.toNat

/-- K fields under mask m written with v, in a block that is idle or not: the word they leave, and whether a field of a
running block would have changed. -/
def lockedBlend (idle : Bool) (m old v : Word) : Word × Bool :=
  if idle then (blend m old v, false) else (old, m &&& (old ^^^ v) ≠ 0)

/-- A write by the classes and access types of the fields alone (R9, R10, R14, Table 0.3). However many K fields of a
running block the word would change, it logs one CFG_LOCKED_WRITE (R14; log entry 91). -/
def fieldWrite (s : State) (o : Nat) (v : Word) : State :=
  let old := s.reg o
  let (w, clash) := lockedBlend (kIdle s o) (lockedMask o) (plainWord o old v) v
  let m := stagedMask o
  let s := s.setReg o w
  let s := if m = 0 then s else s.setShadow o (some (blend m ((s.shadow o).getD old) v))
  if clash then lockedWrite s o v else s

/-! ### Blocks whose writes do more -/

/-- HOST_BAR2_BASE_HI installs the base (R438). -/
def bar2Install (s : State) (v : Word) : State :=
  let s := s.setReg 0x1_0004 (v &&& 0xFFFF)
  s.onHost fun h => { h with bar2Base := s.reg64 0x1_0000 }

def globalWrite (s : State) (o : Nat) (v : Word) : State :=
  match o with
  | 0x1004 => consWrite s v
  | 0x1_0004 => bar2Install s v
  | 0x1_0014 => hostRecovery s v.toNat
  | 0x1_0018 => if bit v 0 then warmReset s 4 else s
  | 0x4_000C => vmonWrite s v
  | o => fieldWrite s o v

/-- TALLYn_COUNT written (R249). -/
def tallyCountWrite (s : State) (n : Nat) (v : Word) : State :=
  s.setTally n { s.tally n with count := v.toNat % 2 ^ 31 }

/-- A word of tally x / 16: only Ledger writes COUNT, ADD and SUB (R249). -/
def tallyWrite (s : State) (src : Writer) (x : Nat) (v : Word) : State :=
  let n := x / 16
  match x % 16, src with
  | 0, .ledger => tallyCountWrite s n v
  | 4, .ledger => tallyAdd s n v.toNat 0 0
  | 8, .ledger => tallySub s n v.toNat 0 0
  | 12, _ => tallyStatusWrite s n v
  | _, _ => s

/-- The MSI-X vector whose control word stands at an offset. -/
def msixControlAt (o : Nat) : Option Nat := (List.range 64).find? fun v => o = msixOff v + 12

def commonWrite (s : State) (o : Nat) (v : Word) : State :=
  match msixControlAt o with
  | some n => if bit v 0 then fieldWrite s o v else vectorUnmask s n
  | none => fieldWrite s o v

def ledgerWrite (s : State) (o : Nat) (v : Word) : State :=
  if o = 0x0010_0000 then (if bit v 0 then subEnable s else s.setFld o 0 0 0) else fieldWrite s o v

/-- Registers of time base n at offset y of its own (Tables 12.4–12.7). -/
def baseWrite (s : State) (src : Writer) (n y : Nat) (v : Word) : State :=
  let o := tbBase n + y
  match y with
  | 0x00 =>
    let s := fieldWrite s o v
    if bit v 0 then armBase s n else s
  | 0x04 => srcWrite s n v
  | 0x0C => rateWrite s src n v
  | 0x10 => stepRequest s src n v
  | 0x14 => if mayWriteTime s src n then s.setReg o v else s
  | 0x24 => toffWrite s n false v
  | 0x28 => toffWrite s n true v
  | 0x30 => s.setReg o v
  | 0x34 => measHiWrite s n v
  | _ => fieldWrite s o v

def timeWrite (s : State) (src : Writer) (x : Nat) (v : Word) : State :=
  if x = 0 then (if bit v 0 then timeSnap s else s)
  else if 0x100 ≤ x ∧ x < 0x300 then baseWrite s src ((x - 0x100) / 0x80) ((x - 0x100) % 0x80) v
  else fieldWrite s (0x0020_0000 + x) v

/-- A write whose two low bits, when 3, leave that field as it is; a running block refuses and logs the word as it was
written (R14). -/
def modeWrite (s : State) (o : Nat) (v : Word) : State :=
  if kIdle s o && bits v 1 0 = 3 then fieldWrite s o (setBits v 1 0 (s.fld o 1 0)) else fieldWrite s o v

/-- A MODE of 3 leaves a port's mode unchanged (Table 10.9). -/
def fronthaulWrite (s : State) (x : Nat) (v : Word) : State :=
  let o := 0x0030_0000 + x
  if x = 0 ∨ x = 0x1000 then modeWrite s o v else fieldWrite s o v

/-- BR_CFG (Table 14.4): ENABLE and RANK are of class K, and the block is idle while the link is DOWN (Registers of the
bridge port); an ENABLE that becomes 1 begins training, and one that is 0 leaves the link DOWN. -/
def bridgeConfig (s : State) (v : Word) : State :=
  let old := s.reg brBase
  let (w, clash) := lockedBlend (bridgeState s = 0) (mask 31 30) (blend (mask 15 0) old v) v
  let s := s.setReg brBase w
  let s := if bit w 31 && !bit old 31 && !s.portDown .bridge then setBridgeState s 1 else s
  if clash then lockedWrite s brBase v else s

/-- BR_LS_CTRL (Table 14.6): EN is written while lock-step is OFF, REFUSED or BROKEN, and its 1 waits for lock-step to
begin. -/
def lsControl (s : State) (v : Word) : State :=
  let o := brBase + 0x10
  let idle := lsState s = 0 || lsState s = 4 || lsState s = 5
  let old := s.reg o
  let (w, clash) := lockedBlend idle (mask 0 0) (blend (mask 2 1) old v) v
  let s := s.setReg o w
  let s := if idle && bit v 0 ≠ bit old 0 then setLsState s (b2n (bit v 0)) 0 else s
  if clash then lockedWrite s o v else s

def bridgeWrite (s : State) (x : Nat) (v : Word) : State :=
  if x = 0 then bridgeConfig s v
  else if x = 0x10 then lsControl s v
  else fieldWrite s (brBase + x) v

/-- HBM_TRAIN_FAIL: a cleared bit starts the second of R381. -/
def trainClear (s : State) (v : Word) : State :=
  let o := hbmBase + 0x1C
  let gone := s.reg o &&& v
  (s.setReg o (s.reg o &&& ~~~v)).forEach 32 fun s p =>
    if bit gone p then
      s.onInteg fun g => { g with trainCleared := tset (fun _ => none) g.trainCleared p (some s.counter.toNat) }
    else s

def hbmWrite (s : State) (x : Nat) (v : Word) : State :=
  if x = 0x1C then trainClear s v else fieldWrite s (hbmBase + x) v

/-- The bits of SLIDE_CHn_CFG that a writer reaches; only Ledger writes PRIV (Table 8.8). -/
def channelMask (src : Writer) : Word := if src = .ledger then 0xE7FF_FF00 else 0xA7FF_FF00

/-- SLIDE_CHn_CFG, class K of its own channel (R217, R220). -/
def channelWrite (s : State) (src : Writer) (e ch : Nat) (v : Word) : State :=
  let o := chBase e ch
  if channelIdle s e ch then channelConfig s src e ch v
  else if (lockedBlend false (channelMask src) (s.reg o) v).2 then lockedWrite s o v
  else s

/-- SLIDE_CHn_STATUS: HALT resumes the channel, CFG_ERR clears. -/
def channelStatusWrite (s : State) (e ch : Nat) (v : Word) : State :=
  let s := if bit v 5 then s.setFld (chBase e ch + 8) 5 5 0 else s
  if bit v 4 then haltClear s e ch else s

def slideWriteReg (s : State) (src : Writer) (e x : Nat) (v : Word) : State :=
  if x = 0x18 then (if 16 ≤ e then slideSubmit s src (e - 16) v else s)
  else if 0x1000 ≤ x ∧ x < 0x1800 ∧ x % 0x40 = 0 then channelWrite s src e ((x - 0x1000) / 0x40) v
  else if 0x1000 ≤ x ∧ x < 0x1800 ∧ x % 0x40 = 4 then setTokenWord s e ((x - 0x1000) / 0x40) v
  else if 0x1000 ≤ x ∧ x < 0x1800 ∧ x % 0x40 = 8 then channelStatusWrite s e ((x - 0x1000) / 0x40) v
  else fieldWrite s (slideBase e + x) v

/-- ENABLE refused: CFG_ERR and CFG_CAUSE (R278, Table 10.11). -/
def enableRefused (s : State) (c cause : Nat) : State :=
  (s.orReg (carrierBase c + 4) 2).setFld (carrierBase c + 4) 11 8 cause

/-- Contexts of TYPE LINK, of which there are at most 8 (R277). -/
def linkContexts (s : State) : Nat := (List.range 24).countP fun c => s.ccLink c

/-- ENABLE of carrier c written 1 (R278, R307). -/
def ccEnable (s : State) (c : Nat) : State :=
  let o := carrierBase c
  if s.ccEnabled c then s
  else
    let cause := if s.ccLink c then linkCause s c else accessCause s c
    if cause ≠ 0 then enableRefused s c cause
    else
      let s := s.setFld o 31 31 1
      if s.ccLink c then linkStart s c else enableStart s c

/-- CC_CTRL (Table 10.10): the K fields first, then ENABLE. A TYPE of LINK that would make a ninth LINK context stays
ACCESS and is reported as a refused enable (R277; log entry 90). -/
def ccControl (s : State) (c : Nat) (v : Word) : State :=
  let o := carrierBase c
  let old := s.reg o
  let (w, clash) := lockedBlend (!s.ccLive c) (mask 30 2) old v
  let ninth := bit w 30 && !bit old 30 && 8 ≤ linkContexts s
  let w := if ninth then setBits w 30 30 0 else w
  let s := s.setReg o w
  let s := if ninth then enableRefused s c 3 else s
  let s := if bits w 29 26 ≠ bits old 29 26 then resyncSlots s (· = c) else s
  let s := if !bit v 31 then s.setFld o 31 31 0 else if ninth then s else ccEnable s c
  if clash then lockedWrite s o v else s

def carrierWrite (s : State) (c x : Nat) (v : Word) : State :=
  if x = 0 then ccControl s c v
  else if x = 0x46C then txqClear s c v
  else fieldWrite s (carrierBase c + x) v

/-- BA_CTRL (Table 4.9, R128): a PART_MODE of 3 is left unchanged; an accepted PART_MODE clears the step records. -/
def arrayControl (s : State) (t : Nat) (v : Word) : State :=
  let clear := arrayIdle s t && bits v 1 0 ≠ 3
  let s := modeWrite s (baBase t) v
  if clear then s.setArray t { s.array t with stepRec := [] } else s

def arrayWrite (s : State) (t x : Nat) (v : Word) : State :=
  if x = 0 then arrayControl s t v
  else if x = 0x18 then baFaultClear s t v
  else fieldWrite s (baBase t + x) v

def rodWrite (s : State) (t x : Nat) (v : Word) : State :=
  if x = 0xC then rodFaultClear s t v else fieldWrite s (rodBase t + x) v

/-- DC_CTRL.ICACHE_INV beside its K field (R82). -/
def coreWrite (s : State) (t x : Nat) (v : Word) : State :=
  let s := fieldWrite s (dcBase t + x) v
  if x = 0 ∧ bit v 4 then icacheInv s t else s

def physWrite (s : State) (p x : Nat) (v : Word) : State :=
  if x = 8 then bistStart s p v else fieldWrite s (physBase p + x) v

/-- A write of the register at an offset outside broadcast and group windows; a COMMIT register commits its block
(R13). A reserved address takes nothing (R34). -/
def regWrite (s : State) (src : Writer) (o : Nat) (v : Word) : State :=
  if (regAt o).isNone then s
  else if commitOf o = some o then (if bit v 0 then commitBlock s o else s)
  else match blockOf o with
  | (.global, _) => globalWrite s o v
  | (.tally, x) => tallyWrite s src x v
  | (.common, _) => commonWrite s o v
  | (.ledger, _) => ledgerWrite s o v
  | (.time, x) => timeWrite s src x v
  | (.fronthaul, x) => fronthaulWrite s x v
  | (.bridge, x) => bridgeWrite s x v
  | (.hbm, x) => hbmWrite s x v
  | (.central e, x) => slideWriteReg s src (16 + e) x v
  | (.carrier c, x) => carrierWrite s c x v
  | (.tile t .array, x) => arrayWrite s t x v
  | (.tile t .rod, x) => rodWrite s t x v
  | (.tile t .core, x) => coreWrite s t x v
  | (.tile t .slide, x) => slideWriteReg s src t x v
  | (.phys p, x) => physWrite s p x v
  | (.debug, x) => debugWrite s x v
  | _ => fieldWrite s o v

/-! ### Windows (R35, R440–R442) -/

/-- The logical tile whose window an offset lies in. -/
def windowTile (o : Nat) : Option Nat := if 0x0100_0000 ≤ o ∧ o < 0x0200_0000 then some ((o - 0x0100_0000) / 0x10_0000) else none

/-- Whether an offset lies in the window of a tile that is being swapped (R35). -/
def isHeld (s : State) (o : Nat) : Bool := match windowTile o with
  | some t => s.swapping t
  | none => false

/-- A write performed, or held while the tile of its window is being swapped. -/
def heldWrite (s : State) (src : Writer) (o : Nat) (v : Word) (bcast : Bool) : State :=
  if isHeld s o then
    s.hold { tile := (windowTile o).getD 0, off := o, write := true, src := src, val := v, broadcast := bcast }
  else regWrite s src o v

/-- A write of a register, or of every member of a window (R441). -/
def windowWrite (s : State) (src : Writer) (o : Nat) (v : Word) : State :=
  match windowOf s o with
  | some (l, f) => l.foldl (fun s m => heldWrite s src (f m) v true) s
  | none => heldWrite s src o v false

/-- A read through a window (R442): the bits of BCAST_READ_MASK are set and never cleared (log entry 74). -/
def bcastRead (s : State) (o : Nat) (l : List Nat) (f : Nat → Nat) : Word × State :=
  match l with
  | [] => (0, s)
  | m :: _ =>
    let w := regView s (f m)
    let diff := l.foldl (fun a k => if regView s (f k) = w then a else a + 2 ^ k) 0
    if diff = 0 then (w, s.drawFree)
    else
      let was := s.flag 0x1_0180 0
      let t := ((s.drawFree.orReg 0x1_0184 (BitVec.ofNat 32 diff)).setReg 0x1_0188 (BitVec.ofNat 32 o)).orReg 0x1_0180 1
      (w, if was then t else raise t eBcastMismatch 0 0 o diff)

/-- A read through BAR0 performed. -/
def portRead (s : State) (o : Nat) : Word × State :=
  match windowOf s o with
  | some (l, f) => bcastRead s o l f
  | none => match blockOf o with
    | (.debug, x) => debugRead s x
    | _ => readReg s o

/-- The tile for whose swap a read at an offset waits. -/
def readWaits (s : State) (o : Nat) : Option Nat :=
  match windowOf s o with
  | some (l, f) => (l.find? fun m => isHeld s (f m)).bind fun m => windowTile (f m)
  | none => if isHeld s o then windowTile o else none

/-- A read of the host, held while a tile it names is being swapped. -/
def heldRead (s : State) (o : Nat) : State :=
  match readWaits s o with
  | some t => s.hold { tile := t, off := o, write := false }
  | none =>
    let (w, s) := portRead s o
    s.replyWord w

/-! ### BAR2 (R438, R439) -/

/-- What a BAR2 access of n bytes at a device address reaches: a store address, or nothing. -/
def bar2Store (s : State) (a n : Nat) : Option Nat :=
  let within (lo hi : Nat) : Bool := lo ≤ a && a + n ≤ hi
  match targetOf a with
  | .hbm _ =>
    if s.fld (hbmBase + 4) 1 0 ≠ 2 then none
    else if within 0 mequelLo || within mequelLo (mequelLo + 0x10_1000) then some a
    else if within stagingAt (stagingAt + 0x80_0000) && bootStage s = 6 then some a
    else none
  | .common o => if o + n ≤ commonSize then some (commonStore o) else none
  | .board t o => if o + n ≤ boardSize then some (s.boardStore t o) else none
  | _ => none

/-- A BAR2 access at a device address performed; what it does not reach reads as 0 and takes nothing (R34). -/
def bar2Perform (s : State) (a : Nat) (write : Bool) (data : List Byte) (n : Nat) : State :=
  if write then
    match bar2Store s a data.length with
    | some st => memWrite s st data .ledger
    | none => s
  else
    match bar2Store s a n with
    | some st =>
      let (l, s) := dataRead s st n .ledger
      s.answer .success l
    | none => s.answer .success (List.replicate n 0)

/-- The tile whose board a device address lies on, while it is being swapped. -/
def bar2Waits (s : State) (a : Nat) : Option Nat := match targetOf a with
  | .board t _ => if s.swapping t then some t else none
  | _ => none

/-- A BAR2 request of the host. Before lock it completes as one of BAR0 (R417); a frozen device serves it as Table 17.1
gives. -/
def bar2Access (s : State) (r : Bar2Request) : State :=
  let a := s.host.bar2Base + r.offset.toNat
  if !hostReaches s then s
  else if s.dbg.frozen then (if r.write then s.bump (dbgBase + 0x44) 1 else s.answer .abort [])
  else if !s.locked then (if r.write then s else s.answer .unsupported [])
  else match bar2Waits s a with
    | some t => s.hold { tile := t, off := a, write := r.write, bar2 := true, data := r.data, len := r.len }
    | none => bar2Perform s a r.write r.data r.len

def execBar2Access (r : Bar2Request) (s : State) : Host.Outcome State Fault Refusal := .next (bar2Access s r)

/-! ### Held accesses (R35, R441) -/

/-- A held access applied to the tile that now holds the number. -/
def applyHeld (s : State) (x : HeldAccess) : State :=
  if x.bar2 then bar2Perform s x.off x.write x.data x.len
  else if x.write then regWrite s x.src x.off x.val
  else heldRead s x.off

/-- The held accesses of tile t of one kind applied in order, once its swap is over. -/
def releaseHeld (s : State) (t : Nat) (bcast : Bool) : State :=
  if s.swapping t then s
  else
    let mine (x : HeldAccess) : Bool := x.tile = t && x.broadcast == bcast
    let now := s.host.held.filter mine
    now.foldl applyHeld (s.onHost fun h => { h with held := h.held.filter fun x => !mine x })

/-- TILE_ACCESS_HOLD_RELEASE (R35). -/
def execTileAccessHoldRelease (t : Tile) (s : State) : Host.Outcome State Fault Refusal :=
  .next (s.act fun s => releaseHeld s t false)

/-- BCAST_HELD_WRITE_APPLY (R441). -/
def execBcastHeldWriteApply (t : Tile) (s : State) : Host.Outcome State Fault Refusal :=
  .next (s.act fun s => releaseHeld s t true)

/-! ### The host's register accesses (R417, Table 17.1) -/

/-- A write of the host. -/
def hostWrite (s : State) (o : Nat) (v : Word) : State :=
  if !hostReaches s then s
  else if s.dbg.frozen then
    match blockOf o with
    | (.debug, x) => debugWrite s x v
    | _ => s.bump (dbgBase + 0x44) 1
  else if !s.locked then s
  else windowWrite s .pcie o v

/-- A read of the host. -/
def hostRead (s : State) (o : Nat) : State :=
  if !hostReaches s then s
  else if s.dbg.frozen then
    match blockOf o with
    | (.debug, x) =>
      let (w, s) := debugRead s x
      s.replyWord w
    | _ => s.answer .abort []
  else if !s.locked then
    if o = 0 ∨ o = 0x5_0000 then s.replyWord (regView s o) else s.answer .unsupported []
  else heldRead s o

/-! ### The SMBus target (R488) -/

/-- Whether the target acknowledges its address. -/
def smbusAcks (s : State) : Bool := s.live && !s.host.inReset

/-- The part of BAR0 that the target reaches. -/
def smbusReaches (o : Nat) : Bool := o < 0x10_0000

def smbusWrite (s : State) (o : Nat) (v : Word) : State :=
  if smbusAcks s && smbusReaches o then windowWrite s .smbus o v else s

/-- A write by one of the three writers (R489). -/
def writeBy (s : State) (src : Writer) (o : Nat) (v : Word) : State :=
  match src with
  | .pcie => hostWrite s o v
  | .smbus => smbusWrite s o v
  | .ledger => s.act fun s => windowWrite s .ledger o v

/-- SMBUS_SET_OFFSET. -/
def execSmbusSetOffset (off : Word) (s : State) : Host.Outcome State Fault Refusal :=
  .next (if smbusAcks s then (s.onDbg fun d => { d with smbOffset := off.toNat / 4 * 4 }) else s)

/-- SMBUS_WRITE_WORD. -/
def execSmbusWriteWord (val : Word) (s : State) : Host.Outcome State Fault Refusal :=
  .next (smbusWrite s s.dbg.smbOffset val)

/-- A read by the SMBus target; a NACK returns nothing. -/
def smbusRead (s : State) : State :=
  if !smbusAcks s then s.onDbg fun d => { d with smbReply := none }
  else if !smbusReaches s.dbg.smbOffset then s.onDbg fun d => { d with smbReply := some 0 }
  else
    let (w, s) := portRead s s.dbg.smbOffset
    s.onDbg fun d => { d with smbReply := some w }

/-- SMBUS_READ_WORD. -/
def execSmbusReadWord (s : State) : Host.Outcome State Fault Refusal := .next (smbusRead s)

/-! ### Register commands -/

/-- An access at an offset, which is a multiple of 4 (R4). -/
def aligned (o : BitVec 26) (t : State) : Host.Outcome State Fault Refusal :=
  if o.toNat % 4 = 0 then .next t else .fault .unalignedRegisterAccess

def execRegisterWrite (src : Writer) (off : BitVec 26) (val : Word) (s : State) : Host.Outcome State Fault Refusal :=
  aligned off (writeBy s src off.toNat val)

def execRegisterRead (off : BitVec 26) (s : State) : Host.Outcome State Fault Refusal :=
  aligned off (hostRead s off.toNat)

/-- COMMIT: a write of a COMMIT register; at another offset it is no commit event (R13). -/
def commitWrite (s : State) (src : Writer) (o : Nat) (v : Word) : State :=
  if commitOf o = some o || (windowOf s o).isSome then writeBy s src o v else s

def execCommit (src : Writer) (off : BitVec 26) (val : Word) (s : State) : Host.Outcome State Fault Refusal :=
  aligned off (commitWrite s src off.toNat val)

/-- BCAST_WRITE: a write through a window. -/
def bcastWrite (s : State) (src : Writer) (o : Nat) (v : Word) : State :=
  if (windowOf s o).isSome then writeBy s src o v else s

def execBcastWrite (src : Writer) (off : BitVec 26) (val : Word) (s : State) : Host.Outcome State Fault Refusal :=
  aligned off (bcastWrite s src off.toNat val)

/-- BCAST_READ: a read through a window. -/
def hostBcastRead (s : State) (o : Nat) : State := if (windowOf s o).isSome then hostRead s o else s

def execBcastRead (off : BitVec 26) (s : State) : Host.Outcome State Fault Refusal :=
  aligned off (hostBcastRead s off.toNat)

/-- HOST_BAR2_BASE_HI_WRITE. -/
def execHostBar2BaseHiWrite (src : Writer) (val : Word) (s : State) : Host.Outcome State Fault Refusal :=
  .next (s.written src fun s => bar2Install s val)

/-- TALLY_ADD_WRITE (R249). -/
def execTallyAddWrite (src : Writer) (n : BitVec 14) (amount : Word) (s : State) : Host.Outcome State Fault Refusal :=
  .next (s.written src fun s => tallyWrite s src (16 * n.toNat + 4) amount)

/-- TALLY_SUB_WRITE (R249). -/
def execTallySubWrite (src : Writer) (n : BitVec 14) (amount : Word) (s : State) : Host.Outcome State Fault Refusal :=
  .next (s.written src fun s => tallyWrite s src (16 * n.toNat + 8) amount)

/-- TALLY_COUNT_WRITE (R249). -/
def execTallyCountWrite (src : Writer) (n : BitVec 14) (val : Word) (s : State) : Host.Outcome State Fault Refusal :=
  .next (s.written src fun s => tallyWrite s src (16 * n.toNat) val)

/-- TALLY_STATUS_CLEAR (R249). -/
def execTallyStatusClear (n : BitVec 14) (val : Word) (s : State) : Host.Outcome State Fault Refusal :=
  .next (s.written .pcie fun s => tallyStatusWrite s n.toNat val)

/-- ACCOUNTING_LOW_READ (R269). -/
def execAccountingLowRead (rec : Fin 133) (field : Fin 8) (s : State) : Host.Outcome State Fault Refusal :=
  .next (hostRead s (acctOff rec field))

/-- TB_TIME_LO_READ (R341). -/
def execTbTimeLoRead (n : BaseNo) (s : State) : Host.Outcome State Fault Refusal :=
  .next (hostRead s (tbBase n + 0x18))

/-- PART_MODE_WRITE (R128). -/
def execPartModeWrite (src : Writer) (t : Tile) (val : Word) (s : State) : Host.Outcome State Fault Refusal :=
  .next (s.tileWritten src t (baBase t) val fun s => arrayControl s t val)

/-- SLIDE_CHANNEL_ENABLE (R220). -/
def execSlideChannelEnable (src : Writer) (e : EngineNo) (ch : ChannelNo) (val : Word) (s : State) :
    Host.Outcome State Fault Refusal :=
  .next (s.slideWritten src e (chBase e ch) (setBits val 31 31 1) fun s => channelWrite s src e ch (setBits val 31 31 1))

/-- CC_ENABLE (R278): CC_CTRL with ENABLE = 1. -/
def execCcEnable (src : Writer) (c : Carrier) (val : Word) (s : State) : Host.Outcome State Fault Refusal :=
  .next (s.written src fun s => ccControl s c (setBits val 31 31 1))

/-- CC_DISABLE (R278): CC_CTRL with ENABLE = 0. -/
def execCcDisable (src : Writer) (c : Carrier) (val : Word) (s : State) : Host.Outcome State Fault Refusal :=
  .next (s.written src fun s => ccControl s c (setBits val 31 31 0))

/-- DBG_DATA_READ (R474). -/
def execDbgDataRead (s : State) : Host.Outcome State Fault Refusal := .next (hostRead s (dbgBase + 0x2C))

end Sys2Proof.Machine
end

