-- ==== Sys2Proof/Machine/SlideMove.lean ====
section
/-! DEFINITION. SlideMove.lean: the register space as an endpoint of the slide engines, the commands that report the
progress of a channel, and the peer reads that a pre-emption leaves outstanding (R31, R212, R221, R261). -/

namespace Sys2Proof.Machine

/-! ### Registers as an endpoint (R5, R6, R9–R15, R34, R36) -/

/-- The bytes of a register as a write of only some of them finds the others: what is stored, W1C fields as 0 (R4 gives
registers no narrower access than a word; log entry 27). -/
def standingBytes (s : State) (o : Nat) : List Byte :=
  natLE 4 (s.reg o &&& ~~~(fldMask (fieldsAt o) fun f => f.acc = .w1c)).toNat

/-- Offsets of the words that [o, o+n) touches. -/
def wordsOf (o n : Nat) : List Nat := (List.range ((o % 4 + n + 3) / 4)).map fun i => o / 4 * 4 + 4 * i

/-- The word at offset w as a write of (offset, byte) pairs leaves it. -/
def busWord (s : State) (w : Nat) (l : List (Nat × Byte)) : Word :=
  BitVec.ofNat 32 (leNat ((standingBytes s w).mapIdx fun i b => ((l.find? fun x => x.1 = w + i).map (·.2)).getD b))

/-- The word that (offset, byte) pairs of one destination unit lie in. -/
def unitWord (l : List (Nat × Byte)) : Nat := (l.headD (0, 0)).1 / 4 * 4

/-- A write of an engine's: as Ledger's own register writes, with the classes, actions and windows of the register. -/
def busWrite (s : State) (l : List (Nat × Byte)) : State :=
  windowWrite s .ledger (unitWord l) (busWord s (unitWord l) l)

/-- The words of offsets read in order, with what each read does. -/
def busWords : List Nat → State → List Byte × State
  | [], s => ([], s)
  | w :: r, s =>
    let (v, s) := portRead s w
    let (l, s) := busWords r s
    (natLE 4 v.toNat ++ l, s)

/-- A read of an engine's. -/
def busRead (s : State) (o n : Nat) : List Byte × State :=
  let (l, s) := busWords (wordsOf o n) s
  ((l.drop (o % 4)).take n, s)

/-- How the slide engines reach the registers. -/
def regBus : SlideBus := ⟨busRead, busWrite⟩

/-! ### Register writes in a beat (R8, R9, R11) -/

/-- The register that a write at an offset reaches; of a window, that of its first member. -/
def memberAt (s : State) (o : Nat) : Nat := match windowOf s o with
  | some (m :: _, f) => f m
  | _ => o

/-- Whether the register at an offset has bits that a write of 1 clears. -/
def clearsAt (s : State) (o : Nat) : Bool := (fieldsAt (memberAt s o)).any fun f => f.acc = .w1c

/-- How an engine's write of a beat reaches the registers: bits that a write of 1 clears were cleared before the beat's
events (`clearBeat`), and every other write waits for the beat's end. -/
def laterBus : SlideBus := ⟨busRead, fun s l =>
  if clearsAt s (unitWord l) then s else { s with regWrites := s.regWrites ++ [l] }⟩

/-- The (offset, byte) pairs that engine e's write of a beat takes to a register. -/
def registerUnit (p : SlidePlan) (s : State) (e : Nat) : List (Nat × Byte) := match p.write with
  | some ch => (nextUnit false s e ch).filterMap fun x => (registerOf x.1).map fun o => (o, x.2)
  | none => []

/-- The write of engine e's beat, when it clears bits: an event of the same beat sets them again (R8). -/
def clearBeat (p : SlidePlan) (s : State) (e : Nat) : State :=
  let l := registerUnit p s e
  if !l.isEmpty && clearsAt s (unitWord l) then busWrite s l else s

/-- The register writes of a beat take effect at its end (R9): a commit first, which the other writes of the beat miss
(R11). -/
def applyWrites (s : State) : State :=
  let commits (l : List (Nat × Byte)) : Bool := commitOf (memberAt s (unitWord l)) = some (memberAt s (unitWord l))
  let l := s.regWrites.filter commits ++ s.regWrites.filter fun x => !commits x
  l.foldl busWrite { s with regWrites := [] }

/-! ### Progress of a channel -/

def execSlideCopyComplete (e : EngineNo) (ch : ChannelNo) (s : State) : Host.Outcome State Fault Refusal :=
  .next (s.act fun s => copyComplete regBus s e ch)
def execStreamBlockWritten (e : EngineNo) (ch : ChannelNo) (s : State) : Host.Outcome State Fault Refusal :=
  .next (s.act fun s => streamBlock regBus s e ch)

/-! ### Peer reads of a pre-empted job (R261) -/

/-- The peer-read records of tile t in resident slot k. -/
def peerReads (s : State) (k t : Nat) : List PeerRead := tget (fun _ => []) s.bridge.shadowReads (16 * k + t)
def setPeerReads (s : State) (k t : Nat) (l : List PeerRead) : State :=
  s.onBridge fun b => { b with shadowReads := tset (fun _ => []) b.shadowReads (16 * k + t) l }

/-- The lowest 64-byte place of tile t's shadow region that no record holds. -/
def shadowPlace (s : State) (k t : Nat) : Nat :=
  let place (i : Nat) : Nat := shadowArea k + t * 0x1_0000 + 64 * i
  place (((List.range 1024).find? fun i => (peerReads s k t).all fun r => r.shadow ≠ place i).getD 0)

/-- The destination of byte `pos` of the descriptor that channel c works on. -/
def destOf (c : SlideChannel) (d : SlideDesc) (pos : Nat) : Nat :=
  dstAddr d ((c.ringAt + (pos / 512 - c.pos / 512)) % max 1 d.ringLen) pos

/-- A peer read that channel ch of tile t waits for recorded for slot k's job: its destination, byte position and place
in the shadow area. -/
def recordPeerRead (k t ch : Nat) (s : State) (x : PeerTransaction) : State :=
  match (s.chan t ch).q with
  | d :: _ =>
    setPeerReads (s.onBridge fun b => { b with outstanding := b.outstanding.filter (·.id ≠ x.id) }) k t
      (peerReads s k t ++ [{
        dest := destOf (s.chan t ch) d x.pos, channel := ch, pos := x.pos, len := x.len, shadow := shadowPlace s k t,
        landed := false }])
  | [] => s

/-- The outstanding peer reads of tile t's channels recorded. -/
def recordPeerReads (s : State) (k t : Nat) : State :=
  (List.range 32).foldl (fun s ch => (peerOut s t ch false).foldl (recordPeerRead k t ch) s) s

/-- A landed read moved from the shadow to its destination, or behind the channel's spilled blocks. One that is no
longer the channel's next is made again; one whose destination fails stays in the channel, whose write is made again
(R231). -/
def moveShadow (t : Nat) (s : State) (r : PeerRead) : State :=
  let c := s.chan t r.channel
  match c.q with
  | [] => s
  | d :: _ =>
    if r.pos ≠ c.rd then s
    else
      let (l, s) := memRead s r.shadow r.len (.slide t)
      let c := landBytes (s.chan t r.channel) l
      let s := s.setChan t r.channel { c with taken := max c.taken ((c.rd + 511) / 512) }
      flushUnits regBus t r.channel r.len (chargeAt s t d (srcAddr d r.pos) r.len)

/-- The landed reads of tile t of slot k's job, which is RUNNING, moved in order; the channels go on (R261). -/
def moveLanded (s : State) (k t : Nat) : State :=
  let l := peerReads s k t
  let s := setPeerReads s k t (l.filter (!·.landed))
  (l.filter (·.landed)).foldl (moveShadow t) s

/-- PEER_READ_LANDED: the oldest recorded read of tile t that has not landed is written to the shadow area; that of the
RUNNING job moves on to its destination at once. -/
def peerReadLanded (s : State) (t : Nat) (data : List Byte) : State :=
  match shadowSlot s t with
  | none => s
  | some k =>
    let l := peerReads s k t
    match l.findIdx? (!·.landed) with
    | none => s
    | some i =>
      match l[i]? with
      | none => s
      | some r =>
        let s := memWrite s r.shadow (bytesAt data 0 r.len) .ledger
        let s := setPeerReads s k t (setAt l i fun r => { r with landed := true })
        if s.runningSlot = some k then moveLanded s k t else s

def execPeerReadLanded (t : Tile) (data : List Byte) (s : State) : Host.Outcome State Fault Refusal :=
  .next (s.act fun s => peerReadLanded s t data)

end Sys2Proof.Machine
end

