-- ==== Sys2Proof/Machine/Switch.lean ====
section
/-! DEFINITION. Switch.lean: JOB_RUN and the switch between jobs, and Mequel's leases (R248, R256–R261). -/

namespace Sys2Proof.Machine

/-! ### Stopping the RUNNING job (Table 9.10, steps 1 to 6) -/

/-- The pre-emption request on a tile whose core executes: taken at once at an instruction that is not held off, where no
request of lower number is pending, and pending otherwise (R99, R100). -/
def preemptTile (s : State) (t : Nat) : State :=
  let c := s.core t
  if c.status ≠ .run && c.status ≠ .stall then s
  else
    let s := raiseIrq s t 2
    if !heldOff c && firstIrq (s.core t) = some 2 then takeInterrupt s t 2 else s

/-- A tile that no longer executes for the outgoing job: its core is IDLE or HALTED, or HELD by the pre-emption. -/
def tileStopped (s : State) (t : Nat) : Bool :=
  let c := s.core t
  c.status = .idle || c.status = .halted || c.heldBy = some 2

/-- Steps 3 and 4 on a stopped tile: its peer reads are recorded, its slide channels flush, and its context goes to the
save stage. -/
def stageContext (k : Nat) (s : State) (t : Nat) : State :=
  let s := recordPeerReads s k t
  let s := s.forEach 32 fun s ch => flushChannel regBus s t ch
  memWrite s (saveStage t) (contextBytes s t) .ledger

/-- The RUNNING job of slot k stopped with its contexts saved, its leases released and its bridge credits recalled. -/
def stopRunning (s : State) (k : Nat) : State :=
  let s := (List.range 16).foldl (stageContext k) s
  let ctx := (List.range 16).map fun t => (t, some (saveTile s t))
  let s := s.forEach 16 idleTile
  let s := freeLeases s fun l => l.job = some k
  recallCredits (s.setJob k { s.job k with state := .preempted, contexts := ctx }) k

/-! ### Entering RUNNING (steps 7 to 9) -/

/-- The context of tile t copied from slot k's save area to the checkpoint stage, which holds nothing yet for the job that
comes in, and loaded from there (log entry 31). -/
def resumeTile (k : Nat) (s : State) (x : Nat × Option TileContext) : State :=
  match x.2 with
  | some c =>
    let s := copyIn s (contextPlace k x.1) (checkpointStage x.1)
    chargeContext (loadContext s x.1 c (s.readBytes (checkpointStage x.1) contextSize) (some k)) k
  | none => s

/-- Tiles of a job that has never run start at their native programs. -/
def startTiles (s : State) (b : BoundImage) : State :=
  s.forEach 16 fun s t => if hasTask b t then startTile s t (nativeEntry b t) else s

/-- Steps 7 to 9 for the job of slot k, which enters RUNNING: a BOUND job loads its whole board image and starts, a
PREEMPTED one restores the ranges it saved and its contexts. -/
def enterRunning (s : State) (k : Nat) : State :=
  let j := s.job k
  let fresh := j.state = .bound
  let s := freeLeases s fun l => l.job.isSome
  let s := loadRanges s k (if fresh then boardRanges j.image else j.savedRanges)
  let s := writeChannels (writeModes (dropCheckpoints s) k) k
  let s := if fresh then startTiles s j.image else j.contexts.foldl (resumeTile k) s
  let s := { s with drawSeed := j.seed }
  let s := writeBuffers s k
  let s := s.setJob k { s.job k with state := .running, contexts := [], savedRanges := [] }
  grantCredits ({ s with lastRun := some k }.forEach 16 fun s t => moveLanded s k t) k

/-! ### JOB_RUN -/

/-- Beats of a switch on the 16 active tiles, charged to record 32 of the job that leaves, or that comes when none
leaves; of a switch that waited for its tiles, those since they had stopped, the earlier ones being charged as they
passed (R266; log entry 92). -/
def chargeBeatsOf (s : State) (k beats : Nat) : State := s.forEach 16 fun s t => s.chargeBeats (s.physOf t) (33 * k + 32) beats

/-- Step 10: the save stage copied to slot k's context save area. -/
def storeContexts (s : State) (k : Nat) : State :=
  s.forEach 16 fun s t => chargeContext (copyContext s (saveStage t) (contextPlace k t)) k

/-- The switch to slot n's job from that of slot k, whose tiles have stopped. -/
def switchJobs (s : State) (k n save : Nat) : State :=
  storeContexts (enterRunning (saveOutgoing (stopRunning s k) k n save) n) k

/-- The switch waits for a tile that has not taken the pre-emption request; Mequel holds a lease for it meanwhile
(R248). -/
def awaitTiles (s : State) (k : Nat) : State :=
  let s := if s.sub.switchAt.isSome then s else s.onSub fun q => { q with switchAt := some s.counter.toNat }
  if leased s fun l => l.job = some k then s else takeLease s { deadline := 0, job := some k }

/-- A copy of a board image or of a context that a central engine made for slot k's job failed: logged, the halt cleared
by cancelling the descriptor, and the job FAULTED (R370; the engine and channel are those of log entry 46). -/
def copyFailed (s : State) (k addr : Nat) : State :=
  absentError (logBusErr s 16 0 0 addr) k eSlideBus

/-- The switch to slot n's job with the copy that fails in it, if one does: a save ends the job that leaves in FAULTED,
a load the one that was to come. -/
def switchWith (s : State) (k n save : Nat) : SwitchFault → State
  | .none => switchJobs s k n save
  | .saving a => copyFailed (switchJobs s k n save) k a
  | .loading a => copyFailed (storeContexts (saveOutgoing (stopRunning s k) k n save) k) n a

/-- Slot n's job enters RUNNING where no job runs, or the load of its boards fails. -/
def enterWith (s : State) (n : Nat) : SwitchFault → State
  | .loading a => copyFailed s n a
  | _ => enterRunning s n

/-- JOB_RUN's completion, with the time that the switch takes. -/
def replyRun (s : State) (tag n beats : Nat) : State :=
  replyJob (s.setReg 0x0010_4008 (BitVec.ofNat 32 beats)) 0x11 tag 0 n beats

/-- JOB_RUN: `beats` is the time the switch takes, which Table 9.9 reports, and `f` the copy that fails in it, if one
does. A switch away from a job waits for a recovery in progress (R260), and until every tile has taken the pre-emption
request: the command stays at the head meanwhile, and a tile that the host has halted keeps it there (R477). -/
def jobRun (s : State) (beats : Nat) (f : SwitchFault) : State :=
  match headCommand s 0x11 with
  | none => s
  | some (c, s') =>
    let tag := entryTag c
    let save := field c 0xA 1
    match slotOfJob s (field c 8 2) with
    | none => if 1 < save then replyNoJob s' 0x11 tag 3 else replyNoJob s' 0x11 tag 2
    | some n =>
      let st := (s.job n).state
      if 1 < save then replyJob s' 0x11 tag 3 n
      else if st ≠ .bound && st ≠ .preempted then replyJob s' 0x11 tag 1 n
      else match s.runningSlot with
        | some k =>
          if !s.integ.recoveries.isEmpty then s
          else
            let t := s.forEach 16 preemptTile
            if (List.range 16).all (tileStopped t) then
              let rest := beats - (t.counter.toNat - t.sub.switchAt.getD t.counter.toNat)
              let t := t.onSub fun q => { q with commands := q.commands.drop 1, switchAt := none }
              replyRun (chargeBeatsOf (switchWith t k n save f) k rest) tag n beats
            else awaitTiles t k
        | none => replyRun (chargeBeatsOf (enterWith s' n f) n beats) tag n beats

def execJobRun (w : SwitchRun) (s : State) : Host.Outcome State Fault Refusal :=
  .next (s.act fun s => jobRun s w.beats w.fail)

/-! ### Leases (R248) -/

/-- The operation of a lease cancelled: a proof is abandoned, and a pre-emption or recovery request that is still
pending is taken back, to be raised again when JOB_RUN or the swap is processed next. -/
def cancelOperation (s : State) (l : Lease) : State :=
  let s := match l.proof with
    | some c => abandonProof s c
    | none => s
  let s := match l.swap with
    | some t => s.setCore t (dropIrq (s.core t) 1)
    | none => s
  if l.job.isSome then
    s.forEach 16 fun s t => s.setCore t (dropIrq (s.core t) 2)
  else s

/-- LEASE_EXPIRY of Mequel's tally 16,256 + i. -/
def leaseExpiry (s : State) (i : Nat) : State :=
  match leaseOf s i with
  | none => s
  | some l => if s.counter.toNat < l.deadline then s else (freeLease (cancelOperation s l) i).bump 0x0010_4054 1

def execLeaseExpiry (i : Fin 128) (s : State) : Host.Outcome State Fault Refusal :=
  .next (s.act fun s => leaseExpiry s i)

/-! ### Failover of the Ledger pairs (R461) -/

/-- Every operation of Mequel that lasts over several events is cancelled and its lease freed; it begins again when its
command or the next gap comes (R248, R461). -/
def cancelOperations (s : State) : State :=
  s.forEach 128 fun s i => match leaseOf s i with
    | some l => freeLease (cancelOperation s l) i
    | none => s

/-- LEDGER_FAILOVER (R461): the standby pair takes over, and with a pending activation that ends the activation. The
halted pair is reloaded at once (log entry 58). -/
def ledgerFailover (s : State) : State :=
  if !s.flag 0x0010_0020 1 then warmReset s 0
  else
    let n := satAdd 16 (s.fld 0x0010_0020 31 16) 1
    let s := signalEvent ((cancelOperations s).setFld 0x0010_0020 31 16 n) 1
    if s.sec.handover.isSome then fwHandover s
    else if s.sec.pendingBit then fwBack s
    else swapPairs s

def execLedgerFailover (s : State) : Host.Outcome State Fault Refusal := .next (s.act ledgerFailover)

end Sys2Proof.Machine
end

