-- ==== Sys2Proof/Machine/Recovery.lean ====
section
/-! DEFINITION. Recovery.lean: the interrupts and checkpoints of the tiles, and the recovery levels (R100, R362–R364,
R370, R373–R384). -/

namespace Sys2Proof.Machine

/-! ### Which recovery is in progress -/

/-- The error being handled and its recovery. -/
def headRecovery (s : State) : Option (LogRecord × Recovery) :=
  match s.integ.handling, s.integ.recoveries with
  | h :: _, r :: _ => some (h, r)
  | _, _ => none

/-- The error being handled, when its recovery is of level k on logical tile t and a part that `p` picks. -/
def headAt (s : State) (k t : Nat) (p : Nat → Bool) : Option LogRecord :=
  match headRecovery s with
  | some (h, r) => if r.level = k && h.inst = t && p (partOf h) && (h.unit = 1 || h.unit = 3) then some h else none
  | none => none

/-- RECOVERY_TIMEOUT (R363): 20 µs are 25,000 beats. -/
def recoveryTimeout (s : State) : State :=
  match headRecovery s with
  | some (_, r) => if r.level < 4 && r.began + 25000 ≤ s.counter.toNat then escalateHead s else s
  | none => s

def execRecoveryTimeout (s : State) : Host.Outcome State Fault Refusal := .next (s.act recoveryTimeout)

/-! ### Slot checkpoints and the journal (R377, R378, R380) -/

/-- The journal of a new checkpoint: amounts that a replay has still to absorb have already been applied (log
entry 52). -/
def journalKept (j : Tab JournalEntry) : Tab JournalEntry :=
  j.filterMap fun (n, e) =>
    if e.absorbAdds = 0 ∧ e.absorbSubs = 0 ∧ e.absorbTakes = 0 then none
    else some (n, { e with adds := e.absorbAdds, subs := e.absorbSubs, takes := e.absorbTakes })

/-- The fences of a tile taken down with their BA_FAULT bits (R380). -/
def dropFences (s : State) (t : Nat) : State :=
  let o := igBase + 0x100 + 4 * t
  let f := s.reg o &&& mask 4 0
  (s.setReg o (s.reg o &&& ~~~f)).setReg (baBase t + 0x18) (s.reg (baBase t + 0x18) &&& ~~~f)

/-- Step 3 of Table 9.10 on a stopped tile: its outstanding peer reads are recorded, and its slide channels flush (R238,
R261). -/
def flushTile (s : State) (t : Nat) : State :=
  let s := recordPeerReads s (s.runningSlot.getD 0) t
  s.forEach 32 fun s ch => flushChannel regBus s t ch

/-- The draws of tile t from streams it shares, as a replay from a new checkpoint has to take them again: those that the
replay in progress has not. -/
def keepDraws (s : State) (t : Nat) : State := match s.runningSlot with
  | some k =>
    let j := s.job k
    s.setJob k { j with drawn := tset (fun _ => []) j.drawn t (tget (fun _ => []) j.redraw t) }
  | none => s

/-- The context of stopped tile t saved as its checkpoint through the checkpoint stage, its journal begun anew. -/
def takeCheckpoint (s : State) (t : Nat) : State :=
  let s := keepDraws s t
  let s := flushTile (dropFences s t) t
  let s := memWrite s (checkpointStage t) (contextBytes s t) .ledger
  let s := copyContext s (checkpointStage t) (checkpointArea t)
  let j := tget (fun _ => []) s.integ.journals t
  s.onInteg fun g => { g with
    checkpoints := tset (fun _ => none) g.checkpoints t (some (saveTile s t))
    journals := tset (fun _ => []) g.journals t (journalKept j) }

/-- INTERRUPT_TAKE (R100): the pending request of lowest number, at an instruction that is not held off; a tile that takes
a checkpoint request goes on as soon as its context is saved (R377). -/
def interruptTake (s : State) (t : Nat) : State :=
  let k := s.core t
  if (k.status = .run || k.status = .stall) && !heldOff k then
    match firstIrq k with
    | some 3 => coreResume (takeCheckpoint (takeInterrupt s t 3) t) t
    | some n => takeInterrupt s t n
    | none => s
  else s

def execInterruptTake (t : Tile) (s : State) : Host.Outcome State Fault Refusal :=
  .next (s.act fun s => interruptTake s t)

/-- A request raised on core t, and taken at once where it is the one of lowest number and nothing holds it off (R99). -/
def requestStop (s : State) (t n : Nat) : State :=
  let s := raiseIrq s t n
  if firstIrq (s.core t) = some n then interruptTake s t else s

/-- A checkpoint of tile t asked for: a core that executes takes the request as soon as it can, an idle one has nothing to
stop, and one that is HELD takes it when it goes on. A halted tile is being restarted. -/
def askCheckpoint (s : State) (t : Nat) : State :=
  let k := s.core t
  if !s.flag igBase 2 || !s.anyRunning || k.status = .halted then s
  else if k.status = .idle then takeCheckpoint s t
  else requestStop s t 3

/-- Whether core t stands in TWAIT with empty array, rod and slide queues (R377). -/
def quietInTwait (s : State) (t : Nat) : Bool :=
  let k := s.core t
  k.waitOn.isSome && k.arrayQ.isEmpty && k.rodQ.isEmpty && k.slideQ.isEmpty

/-- Whether the slot checkpoint that tile t has due is raised now: at a quiet TWAIT, or IG_CKPT.WAIT beats after the tick
(R377). -/
def checkpointNow (s : State) (t : Nat) : Bool := match tget (fun _ => none) s.integ.ckptDue t with
  | some b => quietInTwait s t || b + s.fld (igBase + 0x10) 15 0 ≤ s.counter.toNat
  | none => false

/-- SLOT_CHECKPOINT. -/
def slotCheckpoint (s : State) (t : Nat) : State :=
  if checkpointNow s t then
    askCheckpoint (s.onInteg fun g => { g with ckptDue := tset (fun _ => none) g.ckptDue t none }) t
  else s

def execSlotCheckpoint (t : Tile) (s : State) : Host.Outcome State Fault Refusal :=
  .next (s.act fun s => slotCheckpoint s t)

/-- JOURNAL_CHECKPOINT: an extra one when the journal holds 224 entries. -/
def journalCheckpoint (s : State) (t : Nat) : State :=
  if 224 ≤ (tget (fun _ => []) s.integ.journals t).length then askCheckpoint s t else s

def execJournalCheckpoint (t : Tile) (s : State) : Host.Outcome State Fault Refusal :=
  .next (s.act fun s => journalCheckpoint s t)

/-! ### Level 1: re-reckon (R373–R375) -/

/-- The withheld pass of part p (4 the Quick Sum path) of tile t, with its index. -/
def withheldPass (s : State) (t p : Nat) : Option (PassInFlight × Nat) :=
  if p = 4 then ((s.array t).quickSum.find? (·.withheld)).map fun x => (x, 0)
  else ((s.array t).passes.zipIdx).find? fun x => x.1.part = p && x.1.withheld

/-- Mequel grants completion to the first withheld pass of part p. -/
def grantPass (s : State) (t p : Nat) : State :=
  match withheldPass s t p with
  | none => s
  | some (x, i) => if p = 4 then finishMatvec s t { x with withheld := false } else finishPass s t i { x with withheld := false }

/-- Mequel grants completion to every withheld pass of part p. -/
def grantAll (s : State) (t p : Nat) : State :=
  s.forEach ((s.array t).passes.length + (s.array t).quickSum.length) fun s _ => grantPass s t p

/-- Byte extents that the feeders of a pass read: board offset and length. -/
def passExtents (d : PassDesc) : List (Nat × Nat) :=
  let span (base stride lines n : Nat) : Nat × Nat := (base, (lines - 1) * stride + spanBytes d.optype n)
  [if d.ta then span d.aAddr d.aStride d.k d.rows else span d.aAddr d.aStride d.rows d.k,
    if d.tb then span d.bAddr d.bStride d.cols d.k else span d.bAddr d.bStride d.k d.cols]

/-- Byte extents that a MATVEC reads. -/
def qsExtents (d : QsDesc) : List (Nat × Nat) :=
  let (lines, n) := if d.ta then (d.k, d.n) else (d.n, d.k)
  [(d.wAddr, (lines - 1) * d.wStride + spanBytes d.optype n), (d.xAddr, spanBytes d.optype d.k)]

/-- The descriptors of a re-reckon with their board offsets: those of the holding-buffer sequence before it, and its own
(R373). -/
def rerunDescs (p : Nat) (x : PassInFlight) : List (Nat × List Byte) :=
  (if p = 4 then [] else fromHolding x) ++ [(x.descAddr, x.desc)]

/-- Everything a re-reckon of part p reads, each extent once. -/
def rerunExtents (p : Nat) (x : PassInFlight) : List (Nat × Nat) :=
  (if p = 4 then qsExtents (qsDesc x.desc) else (rerunDescs p x).flatMap fun l => passExtents (passDesc l.2)).eraseDups

/-- Whether the re-reckon runs on the spare (R373): a self-test keeps the spare busy, and a proof gives way (R389). -/
def onSpare (s : State) (p : Nat) (x : PassInFlight) : Bool :=
  s.flag igBase 3 && s.spare.any (fun q => !s.integ.bist.any (·.1 = q)) && (rerunExtents p x).foldl (fun a e => a + e.2) 0 ≤ 0x10_0000

/-- Beats of one pass: Kb + D (R375), and of a MATVEC by R137. -/
def passBeats (s : State) (t p : Nat) (l : List Byte) : Nat :=
  if p = 4 then
    let d := qsDesc l
    13 + (d.n + 63) / 64 * ((d.k + 31) / 32)
  else
    let d := passDesc l
    kSteps d.optype d.k + depthOf s t p

/-- Warm-up beats before a pass of partition p: of an idle spare, or of the tile's own partition (R129). -/
def warmupBeats (s : State) (t p : Nat) (spare : Bool) : Nat :=
  let ramp := fillerRamp s t
  if !fillerOn s t || p = 4 then 0
  else if spare || s.flag (baBase t) 2 then density s t * ramp
  else (density s t - fillerLevel s t p) * ramp

/-- Lines of 128 bytes that n bytes from board offset a on lie in. -/
def linesOf (a n : Nat) : Nat := if n = 0 then 0 else (a + n - 1) / 128 - a / 128 + 1

/-- Lines that the failed pass writes, which go back over the swap path under byte masks (R373). -/
def backLines (p : Nat) (x : PassInFlight) : Nat :=
  if p = 4 then
    let d := qsDesc x.desc
    linesOf d.dAddr (d.n * dBytes d.dtype)
  else
    let d := passDesc x.desc
    if stepWrites d.step then
      (List.range d.rows).foldl (fun a r =>
        a + linesOf (drainAddr d r 0) (drainAddr d r (d.cols - 1) + dBytes d.dtype - drainAddr d r 0)) 0
    else 0

/-- The beats that Mequel estimates a re-reckon to take (R375): on the spare, the copies of the extents, of the
descriptors and of the results back. -/
def rerunBeats (s : State) (t p : Nat) (x : PassInFlight) : Nat :=
  let spare := onSpare s p x
  let copy := if spare then (rerunExtents p x).foldl (fun a e => a + (e.2 + 2047) / 2048) 1 + (backLines p x + 15) / 16
    else 0
  let run := (rerunDescs p x).foldl (fun a l => a + passBeats s t p l.2) 0
  copy + run + warmupBeats s t p spare

/-- Whether the re-reckon would end after the earliest pending deadline check of the tile's carrier set (R375). -/
def pastDeadline (s : State) (t p : Nat) (x : PassInFlight) : Bool :=
  let done := s.counter.toNat + rerunBeats s t p x
  (carrierSet s t).any fun c => !s.ccLink c && (s.carrier c).plans.any fun q =>
    q.ul && !q.checked && deadlineAt s c q.slot < done

/-- What runs on spare q is copied there first: the extents and the descriptors, to the same offsets. -/
def copyToSpare (s : State) (t q p : Nat) (x : PassInFlight) : State :=
  let copy (s : State) (a n : Nat) : State :=
    s.copyRegion (physStore (s.physOf t) (a / 8 * 8)) (physStore q (a / 8 * 8)) ((a % 8 + n + 7) / 8 * 8)
  let s := (rerunExtents p x).foldl (fun s e => copy s e.1 e.2) s
  (rerunDescs p x).foldl (fun s l => copy s l.1 64) s

/-- The errors that a re-reckon's reads on physical tile q meet (R195, R196). -/
def rerunReads (s : State) (q p : Nat) (x : PassInFlight) : State :=
  if p = 4 then
    let d := qsDesc x.desc
    qsReads (memRead s (physStore q d.xAddr) (spanBytes d.optype d.k) (.tileUnit 2 4)).2 q d
  else (rerunDescs p x).foldl (fun s l => feederReads s q (passDesc l.2) p) s

/-- What tile t's work finds when it runs on physical tile q, with given holding buffers. -/
def viewOn (s : State) (t q : Nat) (h : Tab (BitVec 48)) : State :=
  let s := s.onInteg fun g => { g with physOf := tset (fun i => i) g.physOf t q }
  s.setArray t { s.array t with holding := h }

/-- The earlier passes of a sequence run again on physical tile q, and the holding buffers that they leave. On the spare
they write there; on the tile itself what they wrote stands already. -/
def rerunEarlier (s : State) (t q p : Nat) (x : PassInFlight) : State × Tab (BitVec 48) :=
  (fromHolding x).foldl (fun (a : State × Tab (BitVec 48)) l =>
    let d := passDesc l.2
    let v := viewOn a.1 t q a.2
    let cs := passCarries v t d .none
    let outs := cs.map fun y => (y.1, passBytes v t p d .none y)
    (if q = a.1.physOf t || d.dRod then a.1 else drainBlock a.1 t q d outs, holdingAfter a.2 p d cs))
    (s, (s.array t).holding)

/-- The pass run again on physical tile q: its results written, on the spare first and then back, and what the checkers
say; the tile's own holding buffers, banks and carries stay as they are. -/
def rerunPass (s : State) (t q p : Nat) (x : PassInFlight) (f : CarryFault) : State × Option (Bool × Nat × Nat) :=
  let d := passDesc x.desc
  let (s, h) := rerunEarlier s t q p x
  let v := viewOn s t q h
  let cs := passCarries v t d f
  let outs := cs.map fun y => (y.1, passBytes v t p d f y)
  let verdict := passVerdict v t p d f cs
  let s := if q = s.physOf t || d.dRod then s else drainBlock s t q d outs
  (drainBlock s t (s.physOf t) d outs, verdict)

/-- The MATVEC run again on physical tile q, its vector loaded again. -/
def rerunMatvec (s : State) (t q : Nat) (x : PassInFlight) (f : CarryFault) : State × Option (Bool × Nat × Nat) :=
  let d := qsDesc x.desc
  let v := viewOn s t q (s.array t).holding
  let vec := v.readBytes (v.boardStore t d.xAddr) (spanBytes d.optype d.k)
  let cs := qsCarries v t vec d f
  let s := if q = s.physOf t || d.dRod then s else qsWrite s t q d f cs
  (qsWrite s t (s.physOf t) d f cs, qsVerdict v t vec d f cs)

/-- Re-reckoning is work of the pass's tag (R266, KSTEPS of Table 9.12). -/
def chargeRerun (s : State) (t p : Nat) (x : PassInFlight) : State :=
  let tag := if p = 4 then (qsDesc x.desc).tag else (passDesc x.desc).tag
  let steps := if p = 4 then (qsDesc x.desc).n.add 63 / 64 * (((qsDesc x.desc).k + 31) / 32)
    else (rerunDescs p x).foldl (fun a l => a + kSteps (passDesc l.2).optype (passDesc l.2).k) 0
  (s.charge (s.tileRecord tag) acKsteps steps).chargeBeats (s.physOf t) (s.tileRecord tag) (rerunBeats s t p x)

/-- The pass of a parity fault that has been re-reckoned is good again: its fault bit goes (log entry 47). -/
def clearParity (s : State) (t p : Nat) (h : LogRecord) : State :=
  if h.code = ePartitionFault then s.setFld (baBase t + 0x18) p p 0 else s

/-- RE_RECKON of part p of tile t; `f` is what nature does to the pass this time. -/
def reReckon (s : State) (t p : Nat) (f : CarryFault) : State :=
  match headAt s 1 t (· = p) with
  | none => s
  | some h =>
    match withheldPass s t p with
    | none => finishHandling s
    | some (x, _) =>
      if pastDeadline s t p x then finishHandling (taintTile (grantPass s t p) t)
      else
        let q := if onSpare s p x then s.spare else none
        let s := chargeRerun s t p x
        let s := q.elim s fun q => copyToSpare (abandonOn s q) t q p x
        let phys := q.getD (s.physOf t)
        let s := rerunReads s phys p x
        if f = .parity then partFault s t p 4
        else
          let (s, v) := if p = 4 then rerunMatvec s t phys x f else rerunPass s t phys p x f
          match v with
          | some (sh, pp, qq) =>
            raise (noteMismatch s phys) eResidue 1 t (p + 8 * b2n sh + x.descAddr * 256) (pp + qq * 2 ^ 16)
          | none => finishHandling (grantPass (clearParity s t p h) t p)

def execReReckon (t : Tile) (p : Fin 5) (f : CarryFault) (s : State) : Host.Outcome State Fault Refusal :=
  .next (s.act fun s => reReckon s t p f)

/-! ### Level 2: fence and restart (R379, R380) -/

/-- The descriptors in progress of tile t's channels discarded: their destination bytes are unspecified, and what is still
to land for them is dropped (R234). -/
def discardSlides (s : State) (t : Nat) : State :=
  let s := s.forEach 32 fun s ch =>
    match (s.chan t ch).q with
    | d :: _ => (unspecifiedRuns s t ch d).foldl (fun s r => freeRun s r.1 r.2) (forgetPeer s t ch)
    | [] => s
  setPeerReads s (s.runningSlot.getD 0) t []

/-- Native code of tile t written again from slot k's board image, past the instruction cache (R379 step 3). -/
def reloadCode (s : State) (k t : Nat) : State :=
  let l := (s.job k).image.places.filter fun p => p.space = 6 && p.unit = t
  icacheInv (l.foldl (fun s p =>
    let (bs, s) := memRead s (boardImageAt k 0 t p.off) p.size (.slide 16)
    chargeSwitch (memWrite s (s.boardStore t p.off) bs (.slide 16)) k p.size false) s) t

/-- Errors after which the code is reloaded. -/
def wantsReload (h : LogRecord) : Bool :=
  h.code = eIllegalOp || h.code = eRodException && h.detail1 = 8 || h.code = ePartitionFault && h.detail1 = 0

/-- PARTITION_FENCE: commands of the part complete without effect until the tile's next checkpoint, and its withheld
passes count as completed. After a fault of cause 0 the code is reloaded, the tile running on (log entry 97). -/
def partitionFence (s : State) (t p : Nat) : State :=
  match headAt s 2 t (· = p) with
  | none => s
  | some h =>
    let s := s.setFld (igBase + 0x100 + 4 * t) p p 1
    let s := match s.runningSlot with
      | some k => if wantsReload h then reloadCode s k t else s
      | none => s
    finishHandling (grantAll (taintTile s t) t p)

def execPartitionFence (t : Tile) (p : Fin 5) (s : State) : Host.Outcome State Fault Refusal :=
  .next (s.act fun s => partitionFence s t p)

/-- The passes of a restored array are to complete afresh. -/
def freshPasses (a : BeadArray) : BeadArray :=
  { a with
    passes := a.passes.map fun x => { x with withheld := false }
    quickSum := a.quickSum.map fun x => { x with withheld := false } }

/-- The tasks of tile t as its checkpoint holds them, and the counters of the draw streams that it alone uses. Of a stream
that it shares the counter stands, for the other tile's draws, and the replay takes the tile's own draws since the
checkpoint again (R41, R63). -/
def restoreTasks (s : State) (t : Nat) (c : TileContext) : State :=
  match s.runningSlot with
  | none => s
  | some k =>
    let j := s.job k
    s.setJob k { j with
      tasks := c.tasks.foldl (fun m e => tset (fun _ => {}) m e.1 e.2) j.tasks
      turn := tset (fun _ => none) j.turn t c.turn
      redraw := tset (fun _ => []) j.redraw t (tget (fun _ => []) j.drawn t)
      streams := (List.range 32).foldl (fun m n =>
        if ownStream j.image t n then tset (fun _ => 0) m n (tget (fun _ => 0) c.streams n) else m) j.streams }

/-- Checkpoint c, read from tile t's checkpoint area, loaded into the tile, with the journal to absorb (R379 steps 4
and 5). -/
def restoreCheckpoint (s : State) (t : Nat) (c : TileContext) : State :=
  let (l, s) := memRead s (checkpointArea t) contextSize .ledger
  let s := restoreTasks (loadContext s t { c with array := freshPasses c.array } l none) t c
  let j := tget (fun _ => []) s.integ.journals t
  let j := j.map fun (n, e) => (n, { e with absorbAdds := e.adds, absorbSubs := e.subs, absorbTakes := e.takes })
  taintTile (s.onInteg fun g => { g with journals := tset (fun _ => []) g.journals t j }) t

/-- The recovery request raised on the core of tile t where it executes, and taken at once where it can be (R100). -/
def recoveryStop (s : State) (t : Nat) : State :=
  let c := s.core t
  if c.status = .run || c.status = .stall then requestStop s t 1 else s

/-- Tile t stands still for a recovery: its core neither executes nor is HELD by a debug halt, which a recovery waits for
as for a hold-off (Table 3.5, R363). -/
def stoodStill (s : State) (t : Nat) : Bool :=
  let c := s.core t
  c.status ≠ .run && c.status ≠ .stall && c.heldBy ≠ some 0

/-- TILE_RESTART of tile t from its checkpoint: the recovery request first, and the restart once the tile has stopped. -/
def tileRestart (s : State) (t : Nat) : State :=
  match headAt s 2 t (· = 5) with
  | none => s
  | some h =>
    match s.runningSlot, tget (fun _ => none) s.integ.checkpoints t with
    | some k, some c =>
      let s := recoveryStop s t
      if stoodStill s t then
        let s := restoreCheckpoint (discardSlides (lsBreak s) t) t c
        finishHandling (if wantsReload h then reloadCode s k t else s)
      else s
    | none, _ => finishHandling s
    | some _, none => escalateHead s

def execTileRestart (t : Tile) (s : State) : Host.Outcome State Fault Refusal := .next (s.act fun s => tileRestart s t)

/-! ### Level 3: spare-tile swap (R382–R384) -/

/-- Logical tile t moved from physical tile x to y: the roles changed, and Mequel's self-test of x begun. -/
def renumberTile (s : State) (t x y : Nat) : State :=
  let role0 (p : Nat) : Nat := if p = 16 then 1 else 0
  let g := s.integ
  let s := s.setInteg { g with
    physOf := tset (fun i => i) g.physOf t y
    role := tset role0 (tset role0 g.role x 2) y 0
    lastLogical := tset (fun _ => 0) g.lastLogical x t
    swapDue := g.swapDue.filter (· ≠ x)
    bist := (g.bist.filter fun (b : Nat × Bool) => b.1 ≠ x) ++ [(x, true)] }
  let s := s.setArray t { s.array t with filler := [] }
  s.setFld (physBase x + 8) 1 1 0

/-- Board and proof area of physical tile x copied to y with their check bits, and logical tile t moved there. -/
def remapTile (s : State) (t x y : Nat) : State :=
  let s := s.copyRegion (physStore x 0) (physStore y 0) (proofArea + proofSize)
  renumberTile (freeLeases s fun l => l.swap = some t) t x y

/-- The entry that stands in the handling for a swap of logical tile t on physical tile x that R376 or R391 starts: under
BA_RESIDUE_MISMATCH when the mismatches of x reach COUNT, else under PROOF_MISMATCH, with a part that names the whole
tile (log entry 98). Without a spare the ladder leads to level 4 (R364, R384). -/
def swapRecord (s : State) (t x : Nat) : LogRecord :=
  let level := if s.spare.isSome then 3 else 4
  let many : Bool := max 1 (s.fld (igBase + 8) 19 16) ≤ (recentMismatches s x).length
  { code := if many then eResidue else eProofMismatch, severity := severityAt level 2, level := level
    escalated := level = 4, unit := 1, inst := t, detail0 := BitVec.ofNat 32 (if many then 5 else x), detail1 := 0
    time := BitVec.ofNat 64 (s.nsOf 0), job := s.runningNo }

/-- Whether an error that is handled is such a swap. -/
def trustedSwap (r : LogRecord) : Bool :=
  r.unit = 1 && partOf r = 5 && (r.code = eResidue || r.code = eProofMismatch)

/-- A swap that R376 or R391 starts begins, when no recovery is in progress. -/
def beginSwap (s : State) (t : Nat) : State :=
  let x := s.physOf t
  if !s.integ.swapDue.contains x || !s.integ.recoveries.isEmpty then s
  else
    let r := swapRecord s t x
    let s := s.onInteg fun g => { g with
      swapDue := g.swapDue.filter (· ≠ x), handling := r :: g.handling, recoveries := [⟨r.level, s.counter.toNat⟩]
      resetWanted := g.resetWanted || r.level == 4 }
    let s := countLevel s r.level
    if r.level = 4 then logError s r else s

/-- A swap waits for its tile, which holds its interrupts off; Mequel holds a lease for it meanwhile (R248). -/
def awaitSwap (s : State) (t : Nat) : State :=
  if leased s fun l => l.swap = some t then s else takeLease s { deadline := 0, swap := some t }

/-- A swap of an error's level 3: from the checkpoint, once the tile has stopped. -/
def swapUntrusted (s : State) (t : Nat) : State :=
  match headAt s 3 t (fun _ => true) with
  | none => s
  | some h =>
    if trustedSwap h then s
    else match s.spare, tget (fun _ => none) s.integ.checkpoints t with
    | some y, some c =>
      let s := recoveryStop s t
      if stoodStill s t then
        let s := remapTile (abandonOn (flushTile s t) y) t (s.physOf t) y
        finishHandling (restoreCheckpoint (lsBreak s) t c)
      else awaitSwap s t
    | _, _ => if s.anyRunning then escalateHead s else finishHandling s

/-- Tile t goes on from physical tile x on spare y with its own context; requests that its core has not taken stand. -/
def moveTile (s : State) (t x y : Nat) : State :=
  let s := flushTile s t
  let c := saveTile s t
  let k := s.core t
  let s := loadTile (remapTile s t x y) t c
  s.setCore t { s.core t with
    irq := k.irq &&& 0xD ||| (s.core t).irq, holdoff := k.holdoff, holdoffLogged := k.holdoffLogged }

/-- A swap that R376 or R391 starts: once the tile has stopped it goes on with its own context on the spare. -/
def swapTrusted (s : State) (t : Nat) : State :=
  let s := beginSwap s t
  match headAt s 3 t (· = 5), s.spare with
  | some h, some y =>
    if !trustedSwap h then s
    else
      let x := s.physOf t
      let s := recoveryStop s t
      if stoodStill s t then finishHandling (taintTile (moveTile (abandonOn (abandonOn s y) x) t x y) t) else awaitSwap s t
  | _, _ => s

/-- SPARE_TILE_SWAP of logical tile t. -/
def spareTileSwap (s : State) (t : Nat) (trusted : Bool) : State :=
  if trusted then swapTrusted s t else swapUntrusted s t

def execSpareTileSwap (t : Tile) (trusted : Bool) (s : State) : Host.Outcome State Fault Refusal :=
  .next (s.act fun s => spareTileSwap s t trusted)

/-! ### Uncorrectable words of code and constants (R370) -/

/-- The ranges of the RUNNING job that Mequel repairs, as (memory, unit, offset, size): native code and READ_ONLY grids.
-/
def repairable (b : BoundImage) : List BoardRange :=
  ((b.places.filter (·.space = 6)).map fun p => (0, p.unit, p.off, p.size)) ++ b.readOnly

/-- A board as memory and unit; the spare holds nothing of a job. -/
def boardOf : Board → Option (Nat × Nat)
  | .tile t => some (0, t)
  | .spare => none
  | .common => some (1, 0)

/-- ECC_LINE_REWRITE: a 128-byte line with an uncorrectable word of such a range, written again from the board image. -/
def lineRewrite (s : State) (b : Board) (line : Nat) : State :=
  match s.runningSlot, boardOf b with
  | some k, some (m, u) =>
    let o := 128 * line
    let a := rangeStore s (m, u, o, 128)
    let hit (w : Nat) : Bool := s.eccOf (a / 8 + w) = 2 &&
      (repairable (s.job k).image).any fun r => r.1 = m && (m = 1 || r.2.1 = u) && r.2.2.1 < o + 8 * w + 8 && o + 8 * w < r.2.2.1 + r.2.2.2
    if (m = 1 || line < 147456) && (List.range 16).any hit then
      let (bs, s) := memRead s (boardImageAt k m u o) 128 .ledger
      memWrite s a bs .scrubber
    else s
  | _, _ => s

def execEccLineRewrite (b : Board) (line : Fin 786432) (s : State) : Host.Outcome State Fault Refusal :=
  .next (s.act fun s => lineRewrite s b line)

end Sys2Proof.Machine
end

