-- ==== Sys2Proof/Machine/Aqfold.lean ====
section
/-! DEFINITION. Aqfold.lean: what the Aqfold instructions compute, on elements as numbers: a grid's parts in row-major order,
the real part of an element before its imaginary part (R51, R55–R61, R140–R155, R496–R500). -/

namespace Sys2Proof.Machine

/-! ### Words (R51, Table of MOVE) -/

/-- A 64-bit word. -/
def word64 (v : Int) : DWord := BitVec.ofInt 64 v

/-- MOVE 0x04 to 0x0C: modulo 2^64, shift counts modulo 64. -/
def moveOp (op : Nat) (a b : DWord) : DWord :=
  match op with
  | 0x4 => a + b
  | 0x5 => a - b
  | 0x6 => a * b
  | 0x7 => a &&& b
  | 0x8 => a ||| b
  | 0x9 => a ^^^ b
  | 0xA => a <<< (b.toNat % 64)
  | 0xB => a >>> (b.toNat % 64)
  | _ => a.sshiftRight (b.toNat % 64)

/-- The bits of element type t that a word broadcast to it gives part p (R498). -/
def wordPart (t : Elem) (w : DWord) (p : Nat) : Nat := w.toNat / 2 ^ (p * t.partBits) % 2 ^ t.partBits

/-- The word that LDG makes of an element's bits: sign-extended for a signed integer type, zero-extended for any other;
of a complex element, the real part lies below the imaginary one (log entry 93). -/
def wordOf (t : Elem) (l : List Nat) : DWord :=
  if t.float || t.complex || t.unsigned then
    BitVec.ofNat 64 ((l.zipIdx).foldl (fun v x => v + x.1 * 2 ^ (x.2 * t.partBits)) 0)
  else word64 (t.toInt (l.getD 0 0))

/-! ### Places of elements (R49, R496) -/

/-- The indices of element i of a shape, in row-major order. -/
def unrank : List Nat → Nat → List Nat
  | [], _ => []
  | d :: r, i => i / r.foldl (· * ·) 1 % max 1 d :: unrank r i

/-- The row-major number of the element at some indices. -/
def rankOf (shape idx : List Nat) : Nat := (shape.zip idx).foldl (fun v x => v * x.1 + x.2) 0

/-- The bit at which part q of a grid begins, from the first byte of its region on. -/
def partBit (g : Grid) (t : Elem) (q : Nat) : Nat :=
  let outer := ((unrank g.shape (q / t.parts)).zipIdx).foldl (fun a x =>
    a + if x.2 + 1 = g.rank then x.1 * t.bits else x.1 * 8 * g.stride.getD x.2 0) 0
  8 * g.off + outer + q % t.parts * t.partBits

/-- The number of parts of a grid. -/
def partCountOf (g : Grid) (t : Elem) : Nat := g.count * t.parts

/-! ### RECKON and SUM (R55–R59) -/

/-- A sum of products over k. -/
def dot (k : Nat) (f : Nat → Int) : Int := (List.range k).foldl (fun a i => a + f i) 0

/-- A sum modulo 2^32, read as signed. -/
def carry32 (v : Int) : Int := signed 32 (pattern 32 v)

/-- Part p of the element at (row, column) of a matrix stored as parts `l` with `cols` columns, less its zero point. -/
def matPart (t : Elem) (z : Int) (l : List Nat) (cols r c p : Nat) : Int :=
  t.toInt (l.getD ((r * cols + c) * t.parts + p) 0) - z

/-- The carries of a RECKON at output (i, j), from the operands by row and k, and k and column. The Gauss form gives the
same carries as the textbook form wherever binding lets it (R57). -/
def reckonCarry (op k : Nat) (a b : Nat → Nat → Int) : List Int :=
  match op with
  | 0 => [carry32 (dot k fun x => a x 0 * b x 0)]
  | 1 => [carry32 (dot k fun x => a x 0 * b x 0 - a x 1 * b x 1), carry32 (dot k fun x => a x 0 * b x 1 + a x 1 * b x 0)]
  | _ => [dot k fun x => a x 0 * b x 0]

/-- The carries of a RECKON, in the order of D's parts. -/
def reckonCarries (y : Aq) (d a b : Grid) (t : Elem) (la lb : List Nat) : List Int :=
  let m := d.dim.getD 0 1
  let n := d.dim.getD 1 1
  let k := a.dim.getD (if y.mod.testBit 0 then 0 else 1) 1
  let elA (i x p : Nat) : Int := if y.mod.testBit 0 then matPart t a.zp la m x i p else matPart t a.zp la k i x p
  let elB (x j p : Nat) : Int := if y.mod.testBit 1 then matPart t b.zp lb k j x p else matPart t b.zp lb n x j p
  (List.range m).flatMap fun i => (List.range n).flatMap fun j =>
    reckonCarry y.op k (fun x p => elA i x p) fun x p => elB x j p

/-- The carries of a MATVEC. -/
def sumCarries (y : Aq) (d a b : Grid) (t : Elem) (la lb : List Nat) : List Int :=
  let n := d.dim.getD 0 1
  let k := b.dim.getD 0 1
  (List.range n).map fun i => carry32 (dot k fun x =>
    (if y.mod.testBit 0 then matPart t a.zp la n x i 0 else matPart t a.zp la k i x 0) * matPart t b.zp lb 1 x 0 0)

/-- The fields of a drain setting (R62). -/
def drainShift (v : Nat) : Nat := slice v 5 0
def drainMode (v : Nat) : Nat := slice v 7 6
def drainStream (v : Nat) : Nat := slice v 12 8

/-- A carry drained to type t under a drain setting with draw u (R58). -/
def drainTo (t : Elem) (setting : Nat) (v : Int) (u : Nat) : Nat :=
  t.ofInt (clampInt t.lo t.hi (roundShift v (drainShift setting) (drainMode setting) u))

/-! ### ROD (R60, R61, R140–R148, R498–R500) -/

/-- MOD bits of a ROD instruction. -/
def Aq.sat (y : Aq) : Bool := y.mod.testBit 2
def Aq.masked (y : Aq) : Bool := y.mod.testBit 4
def Aq.zero (y : Aq) : Bool := y.mod.testBit 5

/-- The rod command that an element-wise ROD operation and a reduction run as (Table 6.4). -/
def rodOpcode (op : Nat) : Nat :=
  if op ≤ 4 then op + 0x08
  else match op with
    | 5 => 0x0D | 6 => 0x0E | 7 => 0x0F | 8 => 0x10 | 9 => 0x11 | 0xA => 0x12 | 0xB => 0x13 | 0xC => 0x18 | 0xD => 0x19
    | 0xE => 0x14 | 0xF => 0x15 | 0x10 => 0x20 | 0x11 => 0x21 | 0x12 => 0x22 | 0x13 => 0x23 | _ => 0

/-- The count of a shift: the low 6 bits of the element of B (Table 6.4). -/
def shiftCount (t : Elem) (b : Nat) : Nat := pattern 6 (t.toInt b)

/-- Part q of an element-wise operation whose D has A's type; `a` and `b` are the operands by part, `m` the drain's
mode. -/
def rodPart (y : Aq) (t : Elem) (a b : Nat → Nat) (m : Nat) (bit : Bool) (u q : Nat) : Flagged :=
  let x := t.toInt (a q)
  match y.op with
  | 5 => if t.float then fabs t.fmt (a q) else intResult t false x.natAbs
  | 6 => if t.float then fneg t.fmt (a q) else intResult t false (-x)
  | 7 => intResult t false (roundShift x (shiftCount t (b q)) m u)
  | 8 => intResult t y.sat (x * (2 ^ shiftCount t (b q) : Nat))
  | 9 => ⟨a q &&& b q, 0⟩
  | 0xA => ⟨a q ||| b q, 0⟩
  | 0xB => ⟨a q ^^^ b q, 0⟩
  | 0xE => ⟨if bit then a q else b q, 0⟩
  | op =>
    if op = 2 && t.complex then
      let i := q / 2 * 2
      let ar := t.toInt (a i)
      let ai := t.toInt (a (i + 1))
      let br := t.toInt (b i)
      let bi := t.toInt (b (i + 1))
      intResult t y.sat (if q % 2 = 0 then ar * br - ai * bi else ar * bi + ai * br)
    else arithPart (rodOpcode op) t y.sat (a q) (b q)

/-- Element i of CMPLT (0x0C) or CMPEQ (0x0D). -/
def rodCompareAt (lt : Bool) (t : Elem) (a b : Nat → Nat) (i : Nat) : Flagged :=
  if t.float then ⟨b2n (if lt then fless t.fmt (a i) (b i) else fequal t.fmt (a i) (b i)), nanFlag t.fmt (a i) (b i)⟩
  else if t.complex then ⟨b2n (a (2 * i) = b (2 * i) && a (2 * i + 1) = b (2 * i + 1)), 0⟩
  else ⟨b2n (if lt then t.toInt (a i) < t.toInt (b i) else a i = b i), 0⟩

/-- A SHR, a CVT from a floating to an integer type, and APPLY take draws in mode 2 (R148). DESIGN CHOICE (log entry
101): bool counts as an integer type here, so a CVT from a floating type to bool takes one draw per part. -/
def rodDraws (op : Nat) (t td : Elem) : Bool := op = 7 || op = 0xF && t.float && !td.float

/-- The lane tree over n inputs, padded with the identity to a power of two (R61). -/
def laneReduce (op : Nat) (t : Elem) (sat : Bool) (l : List Nat) : Flagged :=
  let n := Nat.log2 (max 1 l.length)
  let k := if 2 ^ n < l.length then n + 1 else n
  let pad := List.replicate (2 ^ k - l.length) (identity op t)
  (laneTree (combine op t sat) k ((l ++ pad).map fun v => ⟨v, 0⟩)).headD ⟨identity op t, 0⟩

/-- The inputs of element j of a reduction along `axis` of A, by their numbers (R500). -/
def reduceInputs (axis : Nat) (a d : Grid) (j : Nat) : List Nat :=
  if axis = 2 then List.range a.count
  else
    let o := unrank d.shape j
    (List.range (a.dim.getD axis 1)).map fun i => rankOf a.shape (o.set axis i)

/-- RSUM, RMAX, RMIN: the elements of D, masked-off inputs as the identity. -/
def reduceGrid (y : Aq) (t : Elem) (a d : Grid) (la : List Nat) (sel : Nat → Bool) : List Flagged :=
  let op := rodOpcode y.op
  (List.range d.count).map fun j => laneReduce op t y.sat
    ((reduceInputs (y.mod % 4) a d j).map fun i => if sel i then la.getD i 0 else identity op t)

/-- The number of the first maximum of the elements taken, none when there is none that is no NaN. -/
def argMax (t : Elem) (la : List Nat) (sel : Nat → Bool) : Option Nat :=
  let els := (la.zipIdx).filter fun x => sel x.2 && !(t.float && (fdecode t.fmt x.1).isNan)
  let key (v : Nat) : Int := if t.float then fkey t.fmt v else t.toInt v
  (els.foldl (fun (b : Option (Nat × Nat)) x => match b with
    | none => some x
    | some y => if key y.1 < key x.1 then some x else b) none).map (·.2)

/-- The parts of D that COMPRESS writes: the selected elements of A from element 0 on, until D is full; then 0 with
ZERO. -/
def compressParts (y : Aq) (parts : Nat) (la : List Nat) (els : List Nat) (n q : Nat) : Option Nat :=
  let i := q / parts
  if n ≤ i then none
  else match els[i]? with
    | some e => some (la.getD (e * parts + q % parts) 0)
    | none => if y.zero then some 0 else none

/-- Part q of EXPAND: the next element of A where the mask bit is 1 and A is not exhausted. -/
def expandPart (y : Aq) (parts count : Nat) (la : List Nat) (bit : Nat → Bool) (q : Nat) : Option Nat :=
  let i := q / parts
  let e := (List.range i).countP bit
  if bit i && e < count then some (la.getD (e * parts + q % parts) 0) else if y.zero then some 0 else none

/-! ### SCALE (R149–R155) -/

/-- Element i of a grid lies in this block of its SCALE_GRID, in row-major order (R149). -/
def codeBlock (g : Grid) (i : Nat) : Nat :=
  let n := max 1 (g.dim.getD (g.rank - 1) 1)
  i / n * ((n + 31) / 32) + i % n / 32

/-- The minimum and maximum of the values of a block, as int32 or fp32 patterns (R152). -/
def measureBlock (t : Elem) (l : List Nat) : Nat × Nat :=
  let vals := l.filterMap fun a =>
    if t.float then
      (if (fdecode t.fmt a).isNan then none else
        let w := (fconvert t.fmt ⟨8, 23⟩ a).val
        some (fkey ⟨8, 23⟩ w, w))
    else some (t.toInt a, pattern 32 (t.toInt a))
  match vals with
  | [] => (0, 0)
  | x :: r =>
    ((r.foldl (fun m y => if y.1 < m.1 then y else m) x).2, (r.foldl (fun m y => if m.1 < y.1 then y else m) x).2)

/-- The elements of D of a MEASURE of A: block b of a row gives its elements 2b and 2b + 1. -/
def measureGrid (a : Grid) (t : Elem) (la : List Nat) : List Nat :=
  let n := max 1 (a.dim.getD (a.rank - 1) 1)
  (List.range (a.count / n)).flatMap fun r => (List.range ((n + 31) / 32)).flatMap fun b =>
    let lo := (r * n + 32 * b) * t.parts
    let hi := (r * n + min n (32 * b + 32)) * t.parts
    let x := measureBlock t ((la.drop lo).take (hi - lo))
    [x.1, x.2]

end Sys2Proof.Machine
end

