-- ==== Sys2Proof/Machine/Tasks.lean ====
section
/-! DEFINITION. Tasks.lean: the tasks of the RUNNING job as the Aqfold contract defines them: their state, the grids they
reach, each instruction, their interleaving, and their copies (R40, R48–R67, R71, R148, R154, R427, R497–R500).

One beat may run one instruction of one task of a tile, or none: how long an instruction takes is not the contract's, so a
free choice decides (log entry 87). -/

namespace Sys2Proof.Machine

/-! ### The tasks of a job -/

/-- A task at work: resident slot, logical tile, task number. -/
structure Act where
  k : Nat
  t : Nat
  n : Nat
  deriving DecidableEq, Repr

/-- The image of the act's job. -/
def actImage (s : State) (x : Act) : BoundImage := (s.job x.k).image

def taskAt (s : State) (k n : Nat) : TaskState := tget (fun _ => {}) (s.job k).tasks n
def setTask (s : State) (k n : Nat) (v : TaskState) : State :=
  s.setJob k { s.job k with tasks := tset (fun _ => {}) (s.job k).tasks n v }

/-- The task of an act changed. -/
def onTask (s : State) (x : Act) (f : TaskState → TaskState) : State := setTask s x.k x.n (f (taskAt s x.k x.n))

def actTask (s : State) (x : Act) : TaskState := taskAt s x.k x.n

/-- Words and flags of a task. -/
def getWord (s : State) (x : Act) (i : Nat) : DWord := tget (fun _ => 0) (actTask s x).words i
def putWord (s : State) (x : Act) (i : Nat) (v : DWord) : State :=
  onTask s x fun w => { w with words := tset (fun _ => 0) w.words i v }
def getFlag (s : State) (x : Act) (i : Nat) : Bool := tget (fun _ => false) (actTask s x).flags i
def putFlag (s : State) (x : Act) (i : Nat) (v : Bool) : State :=
  onTask s x fun w => { w with flags := tset (fun _ => false) w.flags i v }

/-- The value of a word, immediate or constant operand, in 64 bits. -/
def opdValue (s : State) (x : Act) (o : Opd) : DWord :=
  match o.kind with
  | 1 => getWord s x o.index
  | 6 => (actImage s x).consts.getD o.index 0
  | _ => word64 o.imm

/-- The device tally of a handle (R243). -/
def tallyOf (s : State) (x : Act) (o : Opd) : Nat := (actImage s x).nsBase + o.index

/-- What a replay of the act's tile has still to take again of stream n: counter value and number (R41, R379). -/
def redrawOf (s : State) (x : Act) (n : Nat) : Option (Nat × Nat × Nat) :=
  (tget (fun _ => []) (s.job x.k).redraw x.t).find? (·.1 = n)

/-- Counter of a draw stream for an act: where a replay takes draws again, that of the first time; its draw number i from
there on, and its advance by i (R63, R157). Draws from a stream that another tile shares are kept until the checkpoint. -/
def streamAt (s : State) (x : Act) (n : Nat) : DWord := match redrawOf s x n with
  | some r => BitVec.ofNat 64 r.2.1
  | none => tget (fun _ => 0) (s.job x.k).streams n
def streamDraw (s : State) (x : Act) (n i : Nat) : Nat := (draw (seedOf s) n ((streamAt s x n).toNat + i)).toNat
def advanceStream (s : State) (x : Act) (n i : Nat) : State :=
  let j := s.job x.k
  match redrawOf s x n with
  | some _ => s.setJob x.k { j with
      redraw := tset (fun _ => []) j.redraw x.t ((tget (fun _ => []) j.redraw x.t).eraseP (·.1 = n)) }
  | none => s.setJob x.k { j with
      streams := tset (fun _ => 0) j.streams n (streamAt s x n + BitVec.ofNat 64 i)
      drawn := if ownStream j.image x.t n then j.drawn
        else tset (fun _ => []) j.drawn x.t (tget (fun _ => []) j.drawn x.t ++ [(n, (streamAt s x n).toNat, i)]) }

/-! ### Grids (R49, R208, R496) -/

/-- Grid n of the image, and its element type. -/
def gridNo (s : State) (x : Act) (n : Nat) : Grid :=
  let l := (actImage s x).grids.getD n []
  imgGrid (fun o => l.getD o 0) 0
def elemOf (g : Grid) : Elem := (elemOfGrid g.type).getD .int8

/-- Store address of the first byte of a grid's region; none for a grid of the peer chip. -/
def gridBase (s : State) (x : Act) (g : Grid) : Option Nat :=
  if g.space = 3 then some (hostStore 0)
  else if g.space = 5 then none
  else (placeOf (actImage s x).places g).map fun p => match p.memory with
    | 0 => s.boardStore p.unit p.off
    | 1 => commonStore p.off
    | _ => p.off

/-- Who reaches a grid: the unit `code` of the act's tile on its own board, its slide engine elsewhere (R208). -/
def gridWho (s : State) (x : Act) (g : Grid) (code : Nat) : Requester :=
  match placeOf (actImage s x).places g with
  | some p => if p.memory = 0 && p.unit = x.t && g.space ≠ 3 then .tileUnit code else .slide x.t
  | none => .slide x.t

/-- A part of a grid as bits of the store: first bit and number. -/
abbrev BitRange := Nat × Nat

/-- The bits of part q of a grid. -/
def partRange (s : State) (x : Act) (g : Grid) (q : Nat) : Option BitRange :=
  (gridBase s x g).map fun a => (8 * a + partBit g (elemOf g) q, (elemOf g).partBits)

/-- The bits of element i of a grid: its parts lie side by side. -/
def elemRange (s : State) (x : Act) (g : Grid) (i : Nat) : Option BitRange :=
  (partRange s x g (i * (elemOf g).parts)).map fun r => (r.1, (elemOf g).bits)

/-- The elements of a grid that share a bit with a range. -/
def elemsAt (s : State) (x : Act) (n : Nat) (r : BitRange) : List Nat :=
  let g := gridNo s x n
  (List.range g.count).filter fun i => (elemRange s x g i).any fun e => overlaps e.1 e.2 r.1 r.2

/-! ### Copies that are not complete (R64) -/

/-- The elements of D that an access to a range makes unspecified: those it reaches, and with a write those whose source
it reaches. -/
def copyHit (s : State) (x : Act) (c : TaskCopy) (r : BitRange) (write : Bool) : List Nat :=
  elemsAt s x c.d r ++ if write then elemsAt s x c.a r else []

/-- Some task of the job has a copy that is not complete. -/
def copiesPending (s : State) (x : Act) : Bool := (s.job x.k).tasks.any fun e => !e.2.copies.isEmpty

/-- A task reads or writes a range: the elements of copies in progress that this affects become unspecified. -/
def touchRange (s : State) (x : Act) (r : BitRange) (write : Bool) : State :=
  if !copiesPending s x then s
  else s.setJob x.k { s.job x.k with
    tasks := (s.job x.k).tasks.map fun e => (e.1, { e.2 with
      copies := e.2.copies.map fun c => { c with
        touched := c.touched ++ (copyHit s x c r write).filter (!c.touched.contains ·) } }) }

/-- A range lies in the destination of a copy in progress: what it holds is unspecified. -/
def inCopy (s : State) (x : Act) (r : BitRange) : Bool :=
  (s.job x.k).tasks.any fun e => e.2.copies.any fun c => !(elemsAt s x c.d r).isEmpty

/-! ### Reading and writing parts -/

/-- Bits of the store read. -/
def readBits (s : State) (r : BitRange) (who : Requester) : Nat × State :=
  let (l, s) := dataRead s (r.1 / 8) ((r.1 % 8 + r.2 + 7) / 8) who
  (leNat l / 2 ^ (r.1 % 8) % 2 ^ r.2, s)

/-- Bits of the store written; the other bits of a byte stand. -/
def writeBits (s : State) (r : BitRange) (v : Nat) (who : Requester) : State :=
  let n := (r.1 % 8 + r.2 + 7) / 8
  let old := leNat (s.readBytes (r.1 / 8) n)
  let low := 2 ^ (r.1 % 8)
  let new := old % low + v % 2 ^ r.2 * low + old / (low * 2 ^ r.2) * (low * 2 ^ r.2)
  memWrite s (r.1 / 8) (natLE n new) who

/-- The next free value, in so many bits. -/
def freePart (s : State) (n : Nat) : Nat × State := (s.freeWord.toNat % 2 ^ n, s.drawFree)

/-- Part q of grid g as a task reads it: a free value in the destination of a copy in progress, and on the peer chip,
whose memory is another device's (log entry 3). -/
def readPart (s : State) (x : Act) (g : Grid) (code q : Nat) : Nat × State :=
  match partRange s x g q with
  | none => freePart s (elemOf g).partBits
  | some r =>
    let free := inCopy s x r
    let (v, s) := readBits (touchRange s x r false) r (gridWho s x g code)
    if free then freePart s r.2 else (v, s)

/-- Part q of grid g written by a task; on the peer chip, no state of this device changes. -/
def writePart (s : State) (x : Act) (g : Grid) (code q v : Nat) : State :=
  match partRange s x g q with
  | none => s
  | some r => writeBits (touchRange s x r true) r v (gridWho s x g code)

/-- Every part of grid g. -/
def readGrid (s : State) (x : Act) (g : Grid) (code : Nat) : List Nat × State :=
  (List.range (partCountOf g (elemOf g))).foldl (fun (acc : List Nat × State) q =>
    let (v, s) := readPart acc.2 x g code q
    (acc.1 ++ [v], s)) ([], s)

/-- The parts of grid g written that `val` gives. -/
def writeGrid (s : State) (x : Act) (g : Grid) (code : Nat) (val : Nat → Option Nat) : State :=
  s.forEach (partCountOf g (elemOf g)) fun s q => match val q with
    | some v => writePart s x g code q v
    | none => s

/-! ### RECKON, SUM, DRAW -/

/-- Carries drained into D under the task's drain setting, each part's draw taken in order (R58, R59). -/
def drainGrid (s : State) (x : Act) (d : Grid) (code : Nat) (cs : List Int) : State :=
  let v := (actTask s x).drain
  let st := drainStream v
  let out := (cs.zipIdx).map fun c => drainTo (elemOf d) v c.1 (if drainMode v = 2 then streamDraw s x st c.2 else 0)
  let s := writeGrid s x d code fun q => out[q]?
  if drainMode v = 2 then advanceStream s x st cs.length else s

/-- MATMUL, CMATMUL, MATMUL16. -/
def taskReckon (s : State) (x : Act) (y : Aq) : State :=
  let d := gridNo s x y.d.index
  let a := gridNo s x y.a.index
  let b := gridNo s x y.b.index
  let (la, s) := readGrid s x a 0
  let (lb, s) := readGrid s x b 1
  drainGrid s x d 7 (reckonCarries y d a b (elemOf a) la lb)

/-- MATVEC. -/
def taskSum (s : State) (x : Act) (y : Aq) : State :=
  let d := gridNo s x y.d.index
  let a := gridNo s x y.a.index
  let b := gridNo s x y.b.index
  let (la, s) := readGrid s x a 2
  let (lb, s) := readGrid s x b 2
  drainGrid s x d 8 (sumCarries y d a b (elemOf a) la lb)

/-- UNIFORM and SKIP. -/
def taskDraw (s : State) (x : Act) (y : Aq) : State :=
  let st := y.a.index
  if y.op = 0 then
    let d := gridNo s x y.d.index
    let out := (List.range d.count).map (streamDraw s x st)
    advanceStream (writeGrid s x d 3 fun q => out[q]?) x st d.count
  else advanceStream s x st (opdValue s x y.b).toNat

/-! ### ROD -/

/-- The bits of the task's mask setting, where the instruction is governed by it: MASKED, SEL, COMPRESS and EXPAND (R499).
Another one reads no mask. -/
def maskBits (s : State) (x : Act) (y : Aq) : (Nat → Bool) × State :=
  match (actTask s x).mask with
  | none => (fun _ => true, s)
  | some n =>
    if y.masked || y.op = 0xE || y.op = 0x16 || y.op = 0x17 then
      let (l, s) := readGrid s x (gridNo s x n) 3
      (fun i => l.getD i 0 = 1, s)
    else (fun _ => true, s)

/-- Operand B of a ROD instruction, by part (R498). -/
def rodB (s : State) (x : Act) (y : Aq) (t : Elem) : (Nat → Nat) × State :=
  if y.b.kind = 2 then
    let (l, s) := readGrid s x (gridNo s x y.b.index) 3
    (fun q => l.getD q 0, s)
  else
    let w := opdValue s x y.b
    (fun q => wordPart t w (q % t.parts), s)

/-- The union of the flags of the parts that a test picks. -/
def flagsOf (n : Nat) (sel : Nat → Bool) (val : Nat → Flagged) : Nat :=
  (List.range n).foldl (fun f q => if sel q then fxOr f (val q).flags else f) 0

/-- D written part by part: a masked-off element keeps its value, or becomes 0 with ZERO. -/
def writeMasked (s : State) (x : Act) (y : Aq) (d : Grid) (sel : Nat → Bool) (val : Nat → Flagged) : State :=
  let p := (elemOf d).parts
  let on (q : Nat) : Bool := !y.masked || sel (q / p)
  let s := writeGrid s x d 3 fun q => if on q then some (val q).val else if y.zero then some 0 else none
  raiseFlags s x.t (rodOpcode y.op) (flagsOf (partCountOf d (elemOf d)) on val)

/-- The element-wise ROD instructions, CVT and SEL among them (R148, R498, R499). -/
def rodElements (s : State) (x : Act) (y : Aq) : State :=
  let d := gridNo s x y.d.index
  let a := gridNo s x y.a.index
  let t := elemOf a
  let td := elemOf d
  let v := (actTask s x).drain
  let (bit, s) := maskBits s x y
  let (la, s) := readGrid s x a 3
  let (b, s) := rodB s x y t
  let at' (q : Nat) : Nat := la.getD q 0
  let stochastic := drainMode v = 2 && rodDraws y.op t td
  let u (q : Nat) : Nat := if stochastic then streamDraw s x (drainStream v) q else 0
  let val (q : Nat) : Flagged :=
    if y.op = 0xC || y.op = 0xD then rodCompareAt (y.op = 0xC) t at' b q
    else if y.op = 0xF then convertPart t td (at' q) (drainMode v) (u q)
    else rodPart y t at' b (drainMode v) (bit (q / t.parts)) (u q) q
  let s := writeMasked s x y d bit val
  if stochastic then advanceStream s x (drainStream v) (partCountOf d td) else s

/-- RSUM, RMAX, RMIN. -/
def rodReduction (s : State) (x : Act) (y : Aq) : State :=
  let d := gridNo s x y.d.index
  let a := gridNo s x y.a.index
  let (bit, s) := maskBits s x y
  let (la, s) := readGrid s x a 3
  let out := reduceGrid y (elemOf a) a d la fun i => !y.masked || bit i
  let s := writeGrid s x d 3 fun q => (out[q]?).map (·.val)
  raiseFlags s x.t (rodOpcode y.op) (out.foldl (fun f r => fxOr f r.flags) 0)

/-- ARGMAX, COUNT and ANY: a word or a flag. -/
def rodScalar (s : State) (x : Act) (y : Aq) : State :=
  let a := gridNo s x y.a.index
  let (bit, s) := maskBits s x y
  let (la, s) := readGrid s x a 3
  let sel (i : Nat) : Bool := !y.masked || bit i
  let ones := ((la.zipIdx).filter fun e => sel e.2 && e.1 = 1).length
  let t := elemOf a
  let nans := flagsOf la.length (fun i => y.op = 0x13 && sel i && t.float) fun i => ⟨0, nanFlag t.fmt (la.getD i 0) 0⟩
  let s := raiseFlags s x.t (rodOpcode y.op) nans
  match y.op with
  | 0x13 => putWord s x y.d.index (match argMax (elemOf a) la sel with
    | some i => BitVec.ofNat 64 i
    | none => BitVec.allOnes 64)
  | 0x14 => putWord s x y.d.index (BitVec.ofNat 64 ones)
  | _ => putFlag s x y.d.index (1 ≤ ones)

/-- COMPRESS and EXPAND (R500). -/
def rodPack (s : State) (x : Act) (y : Aq) : State :=
  let d := gridNo s x y.d.index
  let a := gridNo s x y.a.index
  let p := (elemOf a).parts
  let (bit, s) := maskBits s x y
  let (la, s) := readGrid s x a 3
  if y.op = 0x16 then
    let els := (List.range a.count).filter bit
    let s := writeGrid s x d 3 (compressParts y p la els d.count)
    putWord s x y.b.index (BitVec.ofNat 64 els.length)
  else writeGrid s x d 3 (expandPart y p a.count la bit)

/-- A ROD instruction. -/
def taskRod (s : State) (x : Act) (y : Aq) : State :=
  if y.op ≤ 0xF then rodElements s x y
  else if y.op ≤ 0x12 then rodReduction s x y
  else if y.op ≤ 0x15 then rodScalar s x y
  else if y.op ≤ 0x17 then rodPack s x y
  else onTask s x fun w => { w with mask := if y.a.kind = 2 then some y.a.index else none }

/-! ### SCALE -/

/-- The codes of a BLOCK_QUANT grid, by element (R149). -/
def codesOf (s : State) (x : Act) (g : Grid) : (Nat → Nat) × State :=
  let (l, s) := readGrid s x (gridNo s x g.scale) 3
  (fun i => l.getD (codeBlock g i) 0, s)

/-- n clip events added to the counter grid of a BLOCK_QUANT grid, as one saturating operation (R154). -/
def addClips (s : State) (x : Act) (g : Grid) (n : Nat) : State :=
  let c := gridNo s x g.clip
  let (v, s) := readPart s x c 3 0
  writePart s x c 3 0 (pattern 32 (min 0x7FFF_FFFF (signed 32 v + n)))

/-- APPLY (R153, R154): one draw for each part of D in mode 2 (R148). -/
def scaleApply (s : State) (x : Act) (y : Aq) : State :=
  let d := gridNo s x y.d.index
  let a := gridNo s x y.a.index
  let td := elemOf d
  let v := (actTask s x).drain
  let n := partCountOf d td
  let (la, s) := readGrid s x a 3
  let (code, s) := codesOf s x d
  let one (q : Nat) : Int × Bool :=
    applyPart (elemOf a) td (la.getD q 0) (code (q / td.parts)) d.step d.zp (drainMode v)
      (if drainMode v = 2 then streamDraw s x (drainStream v) q else 0) (Config.freeWord (s.free + q)).toNat
  let out := (List.range n).map one
  let nans := flagsOf n (fun _ => true) fun q => ⟨0, applyFlags (elemOf a) (la.getD q 0) (code (q / td.parts)) d.step⟩
  let s := writeGrid (s.drawFree n) x d 3 fun q => (out[q]?).map fun r => td.ofInt r.1
  let s := addClips s x d (out.countP (·.2))
  let s := raiseFlags s x.t 0x31 nans
  if drainMode v = 2 then advanceStream s x (drainStream v) n else s

/-- DEQUANT (R155). -/
def scaleDequant (s : State) (x : Act) (y : Aq) : State :=
  let d := gridNo s x y.d.index
  let a := gridNo s x y.a.index
  let ta := elemOf a
  let (la, s) := readGrid s x a 3
  let (code, s) := codesOf s x a
  let val (q : Nat) : Flagged := dequantPart ta (elemOf d) (la.getD q 0) (code (q / ta.parts)) a.step a.zp
  let s := writeGrid s x d 3 fun q => some (val q).val
  raiseFlags s x.t 0x32 (flagsOf (partCountOf d (elemOf d)) (fun _ => true) val)

/-- MEASURE (R152). -/
def scaleMeasure (s : State) (x : Act) (y : Aq) : State :=
  let a := gridNo s x y.a.index
  let (la, s) := readGrid s x a 3
  let out := measureGrid a (elemOf a) la
  let nans := flagsOf la.length (fun _ => (elemOf a).float) fun q => ⟨0, nanFlag (elemOf a).fmt (la.getD q 0) 0⟩
  raiseFlags (writeGrid s x (gridNo s x y.d.index) 3 fun q => out[q]?) x.t 0x30 nans

/-- A SCALE instruction; it ignores the mask setting (R151). -/
def taskScale (s : State) (x : Act) (y : Aq) : State :=
  match y.op with
  | 0 => onTask s x fun w => { w with drain := y.a.index }
  | 1 => scaleMeasure s x y
  | 2 => scaleApply s x y
  | _ => scaleDequant s x y

/-! ### SLIDE (R64, R234, R235) -/

/-- CANCEL: every copy of the task with this tally goes; its destination is unspecified, and the cancel is reported. -/
def cancelCopies (s : State) (x : Act) (h : Nat) : State :=
  let gone := (actTask s x).copies.filter (·.tally = h)
  let s := onTask s x fun w => { w with copies := w.copies.filter (·.tally ≠ h) }
  let s := gone.foldl (fun s c =>
    let d := gridNo s x c.d
    s.forEach (partCountOf d (elemOf d)) fun s q =>
      if s.freeChoice then
        let (v, s) := freePart (s.drawFree) (elemOf d).partBits
        writePart s x d 9 q v
      else s.drawFree) s
  let s := raise s eCancelDone 3 x.t s.freeWord.toNat ((actImage s x).nsBase + h + gone.length * 2 ^ 16)
  (s.drawFree).bump (slideBase x.t + 0x14) 1

/-- COPY and CANCEL. -/
def taskSlide (s : State) (x : Act) (y : Aq) : State :=
  if y.op = 0 then onTask s x fun w => { w with copies := w.copies ++ [⟨y.d.index, y.a.index, y.b.index, []⟩] }
  else cancelCopies s x y.b.index

/-- A copy of task x.n completes: its elements move, those that a task has made unspecified apart, and its tally counts.
-/
def completeCopy (s : State) (x : Act) (c : TaskCopy) : State :=
  let s := onTask s x fun w => { w with copies := w.copies.erase c }
  let d := gridNo s x c.d
  let p := (elemOf d).parts
  let s := s.forEach (partCountOf d (elemOf d)) fun s q =>
    let (v, s) := if c.touched.contains (q / p) then freePart s (elemOf d).partBits
      else readPart s x (gridNo s x c.a) 9 q
    writePart s x d 9 q v
  slideAdd s x.t ((actImage s x).nsBase + c.tally) 1

/-- The copies of the tasks of slot k on tile t: which one completes in this beat, if any, is a free choice (R64). -/
def copyBeat (s : State) (k t : Nat) : State :=
  let b := (s.job k).image
  let l := (List.range b.tasks.length).flatMap fun n =>
    if onTile b t n then (taskAt s k n).copies.map fun c => (n, c) else []
  if l.isEmpty then s
  else match l[s.freeWord.toNat % (l.length + 1)]? with
    | some (n, c) => completeCopy s.drawFree ⟨k, t, n⟩ c
    | none => s.drawFree

/-! ### TALLY, BRANCH, MOVE -/

/-- A signal of task x on its tally handle (R65, R97, R406). -/
def taskSignal (s : State) (x : Act) (o : Opd) (v : DWord) (sub : Bool) : State :=
  applySignal s x.t ⟨tallyOf s x o, BitVec.ofNat 32 v.toNat, sub, 0, 0, 0⟩

/-- A SIGNAL waits for the copies before it whose completion tally it is not (R65). -/
def signalWaits (s : State) (x : Act) (o : Opd) : Bool := (actTask s x).copies.any (·.tally ≠ o.index)

/-- The task's work class is shed: it stays at a WAIT (R427). -/
def taskShed (s : State) (x : Act) : Bool :=
  s.flag (tileBase x.t + 0x14) (((actImage s x).tasks[x.n]?).elim 0 (·.workClass))

/-- A TALLY instruction; none while it waits. -/
def taskTally (s : State) (x : Act) (y : Aq) : Option State :=
  let n := tallyOf s x y.a
  match y.op with
  | 0 => if signalWaits s x y.a then none else some (taskSignal s x y.a (opdValue s x y.b) false)
  | 1 => if tallyMet s n (opdValue s x y.b).toNat && !taskShed s x then some s else none
  | 2 => some (putWord s x y.d.index (BitVec.ofNat 64 (s.tally n).count))
  | _ => some (taskSignal s x y.a (opdValue s x y.b) true)

/-- LDG and STG: out of the grid, f15 is set, and memory stays (R67). -/
def taskElement (s : State) (x : Act) (y : Aq) : State :=
  let i := (opdValue s x y.b).toNat
  let g := gridNo s x (if y.op = 2 then y.a.index else y.d.index)
  let t := elemOf g
  if g.count ≤ i then
    let s := putFlag s x 15 true
    if y.op = 2 then putWord s x y.d.index 0 else s
  else if y.op = 2 then
    let (l, s) := (List.range t.parts).foldl (fun (acc : List Nat × State) p =>
      let (v, s) := readPart acc.2 x g 6 (i * t.parts + p)
      (acc.1 ++ [v], s)) ([], s)
    putWord s x y.d.index (wordOf t l)
  else s.forEach t.parts fun s p => writePart s x g 6 (i * t.parts + p) (wordPart t (opdValue s x y.a) p)

/-- A MOVE instruction. -/
def taskMove (s : State) (x : Act) (y : Aq) : State :=
  let a := opdValue s x y.a
  let b := opdValue s x y.b
  match y.op with
  | 0 | 1 => putWord s x y.d.index a
  | 2 | 3 => taskElement s x y
  | 0xD => putFlag s x y.d.index (a.slt b)
  | 0xE => putFlag s x y.d.index (a = b)
  | 0xF => putWord s x y.d.index (BitVec.ofNat 64 (s.ccSlot y.a.index).toNat)
  | op => putWord s x y.d.index (moveOp op a b)

/-- The instruction at which a BRANCH goes on, and its effect; END and FAULT stand apart. Where a RET finds the call stack
empty, the manual names no return point, and the next instruction is a free value (log entry 93). -/
def taskBranch (s : State) (x : Act) (y : Aq) : State :=
  let w := actTask s x
  let label (o : Opd) : Nat := (actImage s x).labels.getD o.index 0
  let goto (s : State) (i : Nat) : State := onTask s x fun w => { w with pc := i }
  match y.op with
  | 0 => goto s (label y.a)
  | 1 => goto s (if getFlag s x y.a.index then label y.b else w.pc + 1)
  | 2 => goto s (if getFlag s x y.a.index then w.pc + 1 else label y.b)
  | 3 => onTask s x fun w => { w with pc := label y.a, stack := (w.pc + 1) :: w.stack }
  | 4 => match w.stack with
    | i :: r => onTask s x fun w => { w with pc := i, stack := r }
    | [] => (goto s (s.freeWord.toNat % max 1 (actImage s x).code.length)).drawFree
  | _ =>
    let v := getWord s x y.a.index
    if v = 0 then goto s (w.pc + 1) else goto (putWord s x y.a.index (v - 1)) (label y.b)

/-- END: with the last task of its tile, the core is IDLE, and with the last task of the job, the job ends (R48, R251). -/
def taskEnd (s : State) (x : Act) : State :=
  let s := onTask s x fun w => { w with ended := true }
  let b := actImage s x
  if (List.range b.tasks.length).all fun n => !onTile b x.t n || (taskAt s x.k n).ended then dcFinish s x.t else s

/-- The instruction after the one that the task stands at. -/
def taskNext (s : State) (x : Act) : State := onTask s x fun w => { w with pc := w.pc + 1 }

/-- The instruction that a task stands at. -/
def instrAt (s : State) (x : Act) : Aq := aqOf ((actImage s x).code.getD (actTask s x).pc 0).toNat

/-- The staging area of grid i on the act's tile (R208). -/
def stagingArea (s : State) (x : Act) (i : Nat) : Option Placement :=
  (actImage s x).places.find? fun p => p.space = 7 && p.owner = x.t && p.region = i

/-- The accounting field of the memory that a staged grid lies in (R267). -/
def stagedField (s : State) (x : Act) (g : Grid) : Nat :=
  if g.space = 3 then acPcie
  else match (placeOf (actImage s x).places g).map (·.memory) with
    | some 2 => acHbm
    | _ => acBoard

/-- A copy between grid i and its staging area, at the two memories to the task's client tag (R208). The tasks of the
model work on the grid itself, so that both directions leave the area as the grid is. -/
def stageGrid (s : State) (x : Act) (i : Nat) : State :=
  let g := gridNo s x i
  match stagingArea s x i, gridBase s x g with
  | some p, some a =>
    let n := min p.size g.bytes
    let (l, s) := memRead s (a + g.off) n (.slide x.t)
    let s := memWrite s (s.boardStore x.t p.off) l (.slide x.t)
    let rec' := 33 * x.k + ((actImage s x).tasks[x.n]?).elim 0 (·.tag)
    let s := if stagedField s x g = acBoard then s.chargeBoard rec' n ((placeOf (actImage s x).places g).any (·.memory = 1))
      else s.charge rec' (stagedField s x g) n
    s.charge rec' acBoard n
  | _, _ => s

/-- The copies before an instruction: of every grid that it uses; and those after it: of the grid that it writes (R208).
-/
def stageIn (s : State) (x : Act) (y : Aq) : State :=
  if y.cls = 5 then s
  else (y.grids ((List.range (actImage s x).grids.length).map (gridNo s x))).foldl (fun s i => stageGrid s x i) s
def stageOut (s : State) (x : Act) (y : Aq) : State :=
  if y.cls = 5 || y.d.kind ≠ 2 then s else stageGrid s x y.d.index

/-- What one instruction of a task does; none while it waits. -/
def taskDoes (s : State) (x : Act) (y : Aq) : Option State :=
  match y.cls with
  | 0 => some (taskNext (taskReckon s x y) x)
  | 1 => some (taskNext (taskRod s x y) x)
  | 2 => some (taskNext (taskSum s x y) x)
  | 3 => some (taskNext (taskScale s x y) x)
  | 4 => some (taskNext (taskDraw s x y) x)
  | 5 => some (taskNext (taskSlide s x y) x)
  | 6 => (taskTally s x y).map fun s => taskNext s x
  | 7 =>
    if y.op = 6 then some (taskEnd s x)
    else if y.op = 7 then some (faultInstruction s (opdValue s x y.a))
    else some (taskBranch s x y)
  | _ => some (taskNext (taskMove s x y) x)

/-- One instruction of a task, with the copies of the grids that it uses outside its board; none while it waits. -/
def taskStep (s : State) (x : Act) : Option State :=
  let y := instrAt s x
  (taskDoes (stageIn s x y) x y).map fun s => stageOut s x y

/-! ### A tile's tasks (R71) -/

/-- The tasks of tile t that have not ended. -/
def openTasks (s : State) (k t : Nat) : List Nat :=
  (List.range (s.job k).image.tasks.length).filter fun n => onTile (s.job k).image t n && !(taskAt s k n).ended

/-- The task of tile t that goes on: the one it is at, and at a tally operation, or where there is none, any of its open
tasks, by a free choice (R71). -/
def takeTurn (s : State) (k t : Nat) : State :=
  let l := openTasks s k t
  let stays := match tget (fun _ => none) (s.job k).turn t with
    | some n => l.contains n && (instrAt s ⟨k, t, n⟩).cls ≠ 6
    | none => false
  if stays then s
  else
    let n := l[s.freeWord.toNat % max 1 l.length]?
    (s.setJob k { s.job k with turn := tset (fun _ => none) (s.job k).turn t n }).drawFree

/-- How the core of tile t shows what its task does: it runs, or waits for a tally, which DC_STALL7 counts (R105); its
beats go to the task's client tag (R266). -/
def showTask (s : State) (x : Act) (wait : Option Nat) : State :=
  let tag := (((actImage s x).tasks[x.n]?).elim 0 (·.tag))
  let s := s.setFld (tileBase x.t + 0x10) 4 0 tag
  let s := if wait.isSome then s.bump (dcBase x.t + 0x5C) 1 else s
  let c := s.core x.t
  s.setCore x.t { c with
    status := if wait.isSome then .stall else .run, stallCause := if wait.isSome then 7 else 0, waitOn := wait }

/-- The board still holds the native code that the binder wrote for tile t in slot k's board image. -/
def codeIntact (s : State) (k t : Nat) : Bool :=
  ((s.job k).image.places.filter fun p => p.space = 6 && p.unit = t).all fun p =>
    s.readBytes (s.boardStore t p.off) p.size = s.readBytes (boardImageAt k 0 t p.off) p.size

/-- The beats of tile t run the tasks of the RUNNING job as the contract defines them, which is what the binder's code
does (R40). Code that has been altered runs as it stands (log entry 87). -/
def runsTasks (s : State) (t : Nat) : Bool := match s.runningSlot with
  | some k => hasTask (s.job k).image t && codeIntact s k t
  | none => false

/-- The beat begins for the tasks of tile t. -/
def turnBeat (s : State) (t : Nat) : State := match s.runningSlot with
  | some k => takeTurn s k t
  | none => s

/-- The instruction that the task of tile t stands at. -/
def turnInstr (s : State) (t : Nat) : Option Aq :=
  s.runningSlot.bind fun k => (tget (fun _ => none) (s.job k).turn t).map fun n => instrAt s ⟨k, t, n⟩

/-- One beat of the tasks of tile t. -/
def taskBeat (s : State) (t : Nat) : State :=
  match s.runningSlot with
  | none => s
  | some k =>
    match tget (fun _ => none) (s.job k).turn t with
    | none => s
    | some n =>
      let x : Act := ⟨k, t, n⟩
      let go := s.freeChoice
      let s := s.drawFree
      if !go then s
      else match taskStep (showTask s x none) x with
        | some s => s.setCore t { s.core t with stirred := true }
        | none => showTask s x (some (tallyOf s x (instrAt s x).a))

end Sys2Proof.Machine
end

