-- ==== Sys2Proof/Machine/Beat.lean ====
section
/-! DEFINITION. Beat.lean: one beat of 0.8 ns, which is what a step does while no command waits (log entry 1): the device
counter, the digit cores with the programs or tasks they run, the arrays, rod and slide engines as far as the beats show
them, the order of tally operations within a beat, tile-beats by accounting record, and proofs that give way (R82, R100,
R102, R105, R124, R129, R186, R229, R241, R266, R335, R389). -/

namespace Sys2Proof.Machine

/-! ### Tile-beats (R266) -/

/-- The pass in flight of the lowest-numbered partition that has one. -/
def lowestPass (s : State) (t : Nat) : Option PassInFlight :=
  (List.range 4).findSome? fun p => (s.array t).passes.find? (·.part = p)

/-- A recovery of level 2 or 3 works on logical tile t. -/
def tileRecovers (s : State) (t : Nat) : Bool := match headRecovery s with
  | some (h, r) => 2 ≤ r.level && h.unit = 1 && h.inst = t
  | none => false

/-- The client tag that a beat of logical tile t is charged to, none for no charge; 32 for a tile that a pre-emption holds
(log entry 92). -/
def beatTag (s : State) (t : Nat) : Option Nat :=
  let c := s.core t
  if tileRecovers s t then some 32
  else if c.heldBy = some 2 then some 32
  else match c.status with
    | .run | .stall => some (s.fld (tileBase t + 0x10) 4 0)
    | .idle | .held => (lowestPass s t).map fun x => (passDesc x.desc).tag
    | .halted => none

/-- The beat charged. -/
def chargeBeat (s : State) (t : Nat) : State := match beatTag s t with
  | some g => s.chargeBeats (s.physOf t) (s.tileRecord g) 1
  | none => s

/-! ### Digit cores (R100, R102, R241) -/

/-- Whether core t executes. -/
def executes (s : State) (t : Nat) : Bool := (s.core t).status = .run || (s.core t).status = .stall

/-- Whether core t takes an interrupt in this beat (R100). -/
def interrupted (s : State) (t : Nat) : Bool := (s.core t).irq ≠ 0 && !heldOff (s.core t)

/-- The hold-off of every pending request of core t one beat longer (R102). -/
def ageHoldoffs (s : State) (t : Nat) : State :=
  let c := s.core t
  if c.irq = 0 then s
  else s.setCore t { c with holdoff := (List.range 4).foldl (fun m n =>
    if c.irq.getLsbD n then tset (fun _ => 0) m n (holdoffOf c n + 1) else m) c.holdoff }

/-- One beat of core t: an interrupt taken, or the beat of the task or of the native program that it runs. -/
def coreBeat (s : State) (t : Tile) : State :=
  if !executes s t then s
  else if interrupted s t then interruptTake s t
  else
    let s := ageHoldoffs s t
    if runsTasks s t then taskBeat s t else nativeBeat s t

/-- Which of a beat's tally operations core t may perform: 0 an ADD or none, 1 a SUB, 2 a WAIT or READ, which sees the
count as it stands at the end of the beat (R241). -/
def corePhase (s : State) (t : Nat) : Nat :=
  if runsTasks s t then
    match turnInstr s t with
    | some y => if y.cls ≠ 6 || y.op = 0 then 0 else if y.op = 3 then 1 else 2
    | none => 0
  else
    let op := ((fetchedWord s t).extractLsb' 26 6).toNat
    if op = 0x31 then 1 else if op = 0x32 ∨ op = 0x33 then 2 else 0

/-- What the tiles do first in a beat: the rest number, the array, the rod engine, copies, and whose turn it is. -/
def tileBeat (s : State) (t : Nat) : State :=
  let s := rodBeat (arrayBeat (chargeBeat s t) t) t
  let s := s.forEach 4 fun s k => if (s.job k).state = .running || (s.job k).state = .ended then copyBeat s k t else s
  if runsTasks s t && executes s t && !interrupted s t then turnBeat s t else s

/-- The beats of the cores that phase n of the beat's tally operations admits; `phases` are those of the beat's start. -/
def coresOf (phases : List Nat) (n : Nat) (s : State) : State :=
  (List.finRange 16).foldl (fun (s : State) (t : Tile) => if phases.getD t.val 0 = n then coreBeat s t else s) s

/-- The cores and the slide engines in the order that tally operations of one beat have: ADDs, SUBs, TAKEs, and then WAITs
and READs (R241). -/
def tallyBeat (plan : Nat → SlidePlan) (s : State) : State :=
  let phases := (List.range 16).map (corePhase s)
  let s := (coresOf phases 0 s).forEach 20 fun s e => writeBeat laterBus (plan e) s e
  let s := (coresOf phases 1 s).forEach 20 takeBeat
  coresOf phases 2 s

/-! ### Proofs -/

/-- Beats of proof patterns go to the device record (R266). -/
def proofBeat (s : State) (c : Nat) : State := match (s.proof c).running with
  | some (p, _) => s.chargeBeats p deviceRecord 1
  | none => s

/-! ### The beat -/

/-- The slide engines' beats as the state at the beat's start decides them, with the buffer blocks that they ask for
granted. -/
def slidePlans (s : State) : List SlidePlan := (List.range 20).map (slidePlan regBus s)

/-- What the units of a live device do in a beat. The slide engines read first, so that they see a line, and a counter
that a read clears, as before the beat's events (R7, R192); their writes of bits that a 1 clears come next (R8), those
of memory after what the tiles do, and those of other registers at the end (R9, R11). -/
def unitsBeat (s : State) : State :=
  let s := (windowBeat { s with counter := s.counter + 1 }).forEach 20 fun s e => if slideQuiet s e then s else grantBlocks s e
  let plans := slidePlans s
  let plan (e : Nat) : SlidePlan := plans.getD e ⟨none, none, [], []⟩
  let s := s.forEach 20 fun s e => readBeat regBus (plan e) s e
  let s := (s.forEach 20 fun s e => clearBeat (plan e) s e).forEach 16 tileBeat
  let s := (tallyBeat plan s).forEach 20 fun s e => countBeat (plan e) s e
  proofsYield ((applyWrites s).forEach 24 proofBeat)

/-- One beat: the readout port sends; the units of a live device move on, and a frozen one only grows older. -/
def beat (s : State) : State :=
  let s := streamBeat s
  if s.dbg.frozen then abortHeld (s.onDbg fun d => { d with frozenFor := d.frozenFor + 1 })
  else if !s.locked then s
  else inOneBeat unitsBeat s

end Sys2Proof.Machine
end

