-- ==== Sys2Proof/Machine/Dispatch.lean ====
section
/-! DEFINITION. Dispatch.lean: one arm for each command of the opcode table. -/

namespace Sys2Proof.Machine

/-- The effect of a command on everything but the queue. -/
def exec (i : Instr) (s : State) : Host.Outcome State Fault Refusal :=
  match i with
  | .registerWrite src off val => Sys2Proof.Machine.execRegisterWrite src off val s
  | .commit src off val => Sys2Proof.Machine.execCommit src off val s
  | .bcastWrite src off val => Sys2Proof.Machine.execBcastWrite src off val s
  | .bcastRead off => Sys2Proof.Machine.execBcastRead off s
  | .bcastHeldWriteApply t => Sys2Proof.Machine.execBcastHeldWriteApply t s
  | .tileAccessHoldRelease t => Sys2Proof.Machine.execTileAccessHoldRelease t s
  | .bar2Access r => Sys2Proof.Machine.execBar2Access r s
  | .hostBar2BaseHiWrite src val => Sys2Proof.Machine.execHostBar2BaseHiWrite src val s
  | .slotTick n mu => Sys2Proof.Machine.execSlotTick n mu s
  | .submissionScan g => Sys2Proof.Machine.execSubmissionScan g s
  | .subScanPeriodExpiry => Sys2Proof.Machine.execSubScanPeriodExpiry s
  | .subEnable src => Sys2Proof.Machine.execSubEnable src s
  | .ulSlotPlan => Sys2Proof.Machine.execUlSlotPlan s
  | .dlSlotPlan => Sys2Proof.Machine.execDlSlotPlan s
  | .planItem => Sys2Proof.Machine.execPlanItem s
  | .harqRelease => Sys2Proof.Machine.execHarqRelease s
  | .ethernetFrameRx l f => Sys2Proof.Machine.execEthernetFrameRx l f s
  | .receptionWindowClose c slot sym => Sys2Proof.Machine.execReceptionWindowClose c slot sym s
  | .cPlaneSend c slot late => Sys2Proof.Machine.execCPlaneSend c slot late s
  | .dlTransmitWindow c slot sym => Sys2Proof.Machine.execDlTransmitWindow c slot sym s
  | .dlPayloadFetch c slot item ok => Sys2Proof.Machine.execDlPayloadFetch c slot item ok s
  | .encodeItem c slot item => Sys2Proof.Machine.execEncodeItem c slot item s
  | .decodeRecordTake c => Sys2Proof.Machine.execDecodeRecordTake c s
  | .ldpcDecodeDone e => Sys2Proof.Machine.execLdpcDecodeDone e s
  | .polarDecodeDone e => Sys2Proof.Machine.execPolarDecodeDone e s
  | .tbDeliver c slot item ok => Sys2Proof.Machine.execTbDeliver c slot item ok s
  | .completionEntryWrite r => Sys2Proof.Machine.execCompletionEntryWrite r s
  | .msixCoalesceExpiry r => Sys2Proof.Machine.execMsixCoalesceExpiry r s
  | .msixVectorUnmask v => Sys2Proof.Machine.execMsixVectorUnmask v s
  | .jobLoad => Sys2Proof.Machine.execJobLoad s
  | .jobBind slot => Sys2Proof.Machine.execJobBind slot s
  | .jobRun w => Sys2Proof.Machine.execJobRun w s
  | .jobStop => Sys2Proof.Machine.execJobStop s
  | .jobUnload => Sys2Proof.Machine.execJobUnload s
  | .leaseExpiry n => Sys2Proof.Machine.execLeaseExpiry n s
  | .peerReadLanded t data => Sys2Proof.Machine.execPeerReadLanded t data s
  | .peerReadTimeout t => Sys2Proof.Machine.execPeerReadTimeout t s
  | .bridgeCreditRecallTimeout slot => Sys2Proof.Machine.execBridgeCreditRecallTimeout slot s
  | .tallyAddWrite src n amount => Sys2Proof.Machine.execTallyAddWrite src n amount s
  | .tallySubWrite src n amount => Sys2Proof.Machine.execTallySubWrite src n amount s
  | .tallyCountWrite src n val => Sys2Proof.Machine.execTallyCountWrite src n val s
  | .tallyStatusClear n val => Sys2Proof.Machine.execTallyStatusClear n val s
  | .accountingLowRead rec field => Sys2Proof.Machine.execAccountingLowRead rec field s
  | .dcNop t f => Sys2Proof.Machine.execDcNop t f s
  | .dcAdd t f => Sys2Proof.Machine.execDcAdd t f s
  | .dcSub t f => Sys2Proof.Machine.execDcSub t f s
  | .dcAnd t f => Sys2Proof.Machine.execDcAnd t f s
  | .dcOr t f => Sys2Proof.Machine.execDcOr t f s
  | .dcXor t f => Sys2Proof.Machine.execDcXor t f s
  | .dcShl t f => Sys2Proof.Machine.execDcShl t f s
  | .dcShr t f => Sys2Proof.Machine.execDcShr t f s
  | .dcSar t f => Sys2Proof.Machine.execDcSar t f s
  | .dcAddi t f => Sys2Proof.Machine.execDcAddi t f s
  | .dcLui t f => Sys2Proof.Machine.execDcLui t f s
  | .dcCmp t f => Sys2Proof.Machine.execDcCmp t f s
  | .dcMaxx t f => Sys2Proof.Machine.execDcMaxx t f s
  | .dcMinx t f => Sys2Proof.Machine.execDcMinx t f s
  | .dcLd t f => Sys2Proof.Machine.execDcLd t f s
  | .dcSt t f => Sys2Proof.Machine.execDcSt t f s
  | .dcMovp t f => Sys2Proof.Machine.execDcMovp t f s
  | .dcMvfp t f => Sys2Proof.Machine.execDcMvfp t f s
  | .dcMovq t f => Sys2Proof.Machine.execDcMovq t f s
  | .dcCmac t f => Sys2Proof.Machine.execDcCmac t f s
  | .dcRmac t f => Sys2Proof.Machine.execDcRmac t f s
  | .dcClra t f => Sys2Proof.Machine.execDcClra t f s
  | .dcMova t f => Sys2Proof.Machine.execDcMova t f s
  | .dcB t f => Sys2Proof.Machine.execDcB t f s
  | .dcCall t f => Sys2Proof.Machine.execDcCall t f s
  | .dcRetn t f => Sys2Proof.Machine.execDcRetn t f s
  | .dcRep t f => Sys2Proof.Machine.execDcRep t f s
  | .dcRot t f => Sys2Proof.Machine.execDcRot t f s
  | .dcAiss t f => Sys2Proof.Machine.execDcAiss t f s
  | .dcRiss t f => Sys2Proof.Machine.execDcRiss t f s
  | .dcSiss t f => Sys2Proof.Machine.execDcSiss t f s
  | .dcAwait t f => Sys2Proof.Machine.execDcAwait t f s
  | .dcRwait t f => Sys2Proof.Machine.execDcRwait t f s
  | .dcMovs t f => Sys2Proof.Machine.execDcMovs t f s
  | .dcTsig t f => Sys2Proof.Machine.execDcTsig t f s
  | .dcTsub t f => Sys2Proof.Machine.execDcTsub t f s
  | .dcTwait t f => Sys2Proof.Machine.execDcTwait t f s
  | .dcTrd t f => Sys2Proof.Machine.execDcTrd t f s
  | .dcTag t f => Sys2Proof.Machine.execDcTag t f s
  | .dcShed t f => Sys2Proof.Machine.execDcShed t f s
  | .dcEnd t f => Sys2Proof.Machine.execDcEnd t f s
  | .interruptTake t => Sys2Proof.Machine.execInterruptTake t s
  | .digitCoreResume t => Sys2Proof.Machine.execDigitCoreResume t s
  | .digitHoldoffExceeded t => Sys2Proof.Machine.execDigitHoldoffExceeded t s
  | .icacheInv t => Sys2Proof.Machine.execIcacheInv t s
  | .passAdmit t => Sys2Proof.Machine.execPassAdmit t s
  | .passComplete t p f => Sys2Proof.Machine.execPassComplete t p f s
  | .matvecStart t => Sys2Proof.Machine.execMatvecStart t s
  | .matvecComplete t f => Sys2Proof.Machine.execMatvecComplete t f s
  | .baFeederTimeout t p beats => Sys2Proof.Machine.execBaFeederTimeout t p beats s
  | .fillerRampDown t p => Sys2Proof.Machine.execFillerRampDown t p s
  | .rowMapSwitch p lower => Sys2Proof.Machine.execRowMapSwitch p lower s
  | .partModeWrite src t val => Sys2Proof.Machine.execPartModeWrite src t val s
  | .baFaultClear src t val => Sys2Proof.Machine.execBaFaultClear src t val s
  | .rodNop t => Sys2Proof.Machine.execRodNop t s
  | .rodLdr t => Sys2Proof.Machine.execRodLdr t s
  | .rodStr t => Sys2Proof.Machine.execRodStr t s
  | .rodLdm t => Sys2Proof.Machine.execRodLdm t s
  | .rodStm t => Sys2Proof.Machine.execRodStm t s
  | .rodBset t => Sys2Proof.Machine.execRodBset t s
  | .rodDrawset t => Sys2Proof.Machine.execRodDrawset t s
  | .rodClipflush t => Sys2Proof.Machine.execRodClipflush t s
  | .rodAdd t => Sys2Proof.Machine.execRodAdd t s
  | .rodSub t => Sys2Proof.Machine.execRodSub t s
  | .rodMul t => Sys2Proof.Machine.execRodMul t s
  | .rodMin t => Sys2Proof.Machine.execRodMin t s
  | .rodMax t => Sys2Proof.Machine.execRodMax t s
  | .rodAbs t => Sys2Proof.Machine.execRodAbs t s
  | .rodNeg t => Sys2Proof.Machine.execRodNeg t s
  | .rodShr t => Sys2Proof.Machine.execRodShr t s
  | .rodShl t => Sys2Proof.Machine.execRodShl t s
  | .rodAnd t => Sys2Proof.Machine.execRodAnd t s
  | .rodOr t => Sys2Proof.Machine.execRodOr t s
  | .rodXor t => Sys2Proof.Machine.execRodXor t s
  | .rodSel t => Sys2Proof.Machine.execRodSel t s
  | .rodCvt t => Sys2Proof.Machine.execRodCvt t s
  | .rodMov t => Sys2Proof.Machine.execRodMov t s
  | .rodCmplt t => Sys2Proof.Machine.execRodCmplt t s
  | .rodCmpeq t => Sys2Proof.Machine.execRodCmpeq t s
  | .rodMand t => Sys2Proof.Machine.execRodMand t s
  | .rodMor t => Sys2Proof.Machine.execRodMor t s
  | .rodMxor t => Sys2Proof.Machine.execRodMxor t s
  | .rodMnot t => Sys2Proof.Machine.execRodMnot t s
  | .rodMset t => Sys2Proof.Machine.execRodMset t s
  | .rodRsum t => Sys2Proof.Machine.execRodRsum t s
  | .rodRmax t => Sys2Proof.Machine.execRodRmax t s
  | .rodRmin t => Sys2Proof.Machine.execRodRmin t s
  | .rodArgmax t => Sys2Proof.Machine.execRodArgmax t s
  | .rodArgmin t => Sys2Proof.Machine.execRodArgmin t s
  | .rodCount t => Sys2Proof.Machine.execRodCount t s
  | .rodAny t => Sys2Proof.Machine.execRodAny t s
  | .rodCompress t => Sys2Proof.Machine.execRodCompress t s
  | .rodExpand t => Sys2Proof.Machine.execRodExpand t s
  | .rodMeasure t => Sys2Proof.Machine.execRodMeasure t s
  | .rodApply t => Sys2Proof.Machine.execRodApply t s
  | .rodDequant t => Sys2Proof.Machine.execRodDequant t s
  | .rodFaultClear src t val => Sys2Proof.Machine.execRodFaultClear src t val s
  | .boardEccWriteback => Sys2Proof.Machine.execBoardEccWriteback s
  | .boardScrubRead b u => Sys2Proof.Machine.execBoardScrubRead b u s
  | .hbmScrubRead pc u => Sys2Proof.Machine.execHbmScrubRead pc u s
  | .hbmRefresh pc bank => Sys2Proof.Machine.execHbmRefresh pc bank s
  | .hbmTempRead temp => Sys2Proof.Machine.execHbmTempRead temp s
  | .hbmRetrainWindow ok => Sys2Proof.Machine.execHbmRetrainWindow ok s
  | .hbmExtraRetrain pc ok => Sys2Proof.Machine.execHbmExtraRetrain pc ok s
  | .slideSubmit src e addr => Sys2Proof.Machine.execSlideSubmit src e addr s
  | .slideDescriptorAccept e => Sys2Proof.Machine.execSlideDescriptorAccept e s
  | .slideCopyComplete e ch => Sys2Proof.Machine.execSlideCopyComplete e ch s
  | .streamBlockWritten e ch => Sys2Proof.Machine.execStreamBlockWritten e ch s
  | .creditTake e ch => Sys2Proof.Machine.execCreditTake e ch s
  | .tokenBucketRefill => Sys2Proof.Machine.execTokenBucketRefill s
  | .slideCreditStall e => Sys2Proof.Machine.execSlideCreditStall e s
  | .slideRetry e ch answer => Sys2Proof.Machine.execSlideRetry e ch answer s
  | .slideHaltClear src e ch => Sys2Proof.Machine.execSlideHaltClear src e ch s
  | .slideCancel e => Sys2Proof.Machine.execSlideCancel e s
  | .slideCancelDone e => Sys2Proof.Machine.execSlideCancelDone e s
  | .slideChannelEnable src e ch val => Sys2Proof.Machine.execSlideChannelEnable src e ch val s
  | .ccEnable src c val => Sys2Proof.Machine.execCcEnable src c val s
  | .ccDisable src c val => Sys2Proof.Machine.execCcDisable src c val s
  | .burstSlotStart c k => Sys2Proof.Machine.execBurstSlotStart c k s
  | .linkWindow c => Sys2Proof.Machine.execLinkWindow c s
  | .linkFalseDetection c => Sys2Proof.Machine.execLinkFalseDetection c s
  | .linkHeaderDecode c => Sys2Proof.Machine.execLinkHeaderDecode c s
  | .linkCodeBlockDecode c cb => Sys2Proof.Machine.execLinkCodeBlockDecode c cb s
  | .linkCodeBlockDeadline c => Sys2Proof.Machine.execLinkCodeBlockDeadline c s
  | .blTable c => Sys2Proof.Machine.execBlTable c s
  | .blAck c => Sys2Proof.Machine.execBlAck c s
  | .blRetransmit c => Sys2Proof.Machine.execBlRetransmit c s
  | .lkTxqStatusClear c val => Sys2Proof.Machine.execLkTxqStatusClear c val s
  | .tbRateWrite src n val => Sys2Proof.Machine.execTbRateWrite src n val s
  | .tbStepRequest src n lo => Sys2Proof.Machine.execTbStepRequest src n lo s
  | .tbArm n => Sys2Proof.Machine.execTbArm n s
  | .tmSnap => Sys2Proof.Machine.execTmSnap s
  | .tbTimeLoRead n => Sys2Proof.Machine.execTbTimeLoRead n s
  | .tbMeasHiWrite n hi => Sys2Proof.Machine.execTbMeasHiWrite n hi s
  | .tbSrcWrite n val => Sys2Proof.Machine.execTbSrcWrite n val s
  | .tbToffWrite n hi val => Sys2Proof.Machine.execTbToffWrite n hi val s
  | .servoMeasurement n => Sys2Proof.Machine.execServoMeasurement n s
  | .ptpDelayReqSend n => Sys2Proof.Machine.execPtpDelayReqSend n s
  | .timeRefLost n => Sys2Proof.Machine.execTimeRefLost n s
  | .synceGate present freq => Sys2Proof.Machine.execSynceGate present freq s
  | .ppsInEdge => Sys2Proof.Machine.execPpsInEdge s
  | .ppsOutEdge => Sys2Proof.Machine.execPpsOutEdge s
  | .ppsOutFall => Sys2Proof.Machine.execPpsOutFall s
  | .errlogConsWrite val => Sys2Proof.Machine.execErrlogConsWrite val s
  | .reReckon t p f => Sys2Proof.Machine.execReReckon t p f s
  | .tileRestart t => Sys2Proof.Machine.execTileRestart t s
  | .partitionFence t p => Sys2Proof.Machine.execPartitionFence t p s
  | .spareTileSwap t trusted => Sys2Proof.Machine.execSpareTileSwap t trusted s
  | .deviceResetLevel4 => Sys2Proof.Machine.execDeviceResetLevel4 s
  | .recoveryTimeout => Sys2Proof.Machine.execRecoveryTimeout s
  | .slotCheckpoint t => Sys2Proof.Machine.execSlotCheckpoint t s
  | .journalCheckpoint t => Sys2Proof.Machine.execJournalCheckpoint t s
  | .eccLineRewrite b line => Sys2Proof.Machine.execEccLineRewrite b line s
  | .bistStart p val => Sys2Proof.Machine.execBistStart p val s
  | .bistDone p rows boardFail => Sys2Proof.Machine.execBistDone p rows boardFail s
  | .proofStart c => Sys2Proof.Machine.execProofStart c s
  | .proofComplete c fault => Sys2Proof.Machine.execProofComplete c fault s
  | .proofAbandon c => Sys2Proof.Machine.execProofAbandon c s
  | .bridgeLinkUp peerRank => Sys2Proof.Machine.execBridgeLinkUp peerRank s
  | .bridgeFlitRx f => Sys2Proof.Machine.execBridgeFlitRx f s
  | .bridgeLinkDown => Sys2Proof.Machine.execBridgeLinkDown s
  | .bridgeCreditExchange held => Sys2Proof.Machine.execBridgeCreditExchange held s
  | .bridgePeerAccess r => Sys2Proof.Machine.execBridgePeerAccess r s
  | .bridgeSignalRx slot handle sub amount => Sys2Proof.Machine.execBridgeSignalRx slot handle sub amount s
  | .bridgeTimeout id => Sys2Proof.Machine.execBridgeTimeout id s
  | .lockstepStart peer => Sys2Proof.Machine.execLockstepStart peer s
  | .lockstepRecord t seq sig rows => Sys2Proof.Machine.execLockstepRecord t seq sig rows s
  | .powerReading r => Sys2Proof.Machine.execPowerReading r s
  | .limiterControlPeriod => Sys2Proof.Machine.execLimiterControlPeriod s
  | .fastLimiterPeriod milliAmps => Sys2Proof.Machine.execFastLimiterPeriod milliAmps s
  | .vddMonitorPeriod mv => Sys2Proof.Machine.execVddMonitorPeriod mv s
  | .pwrVmonWrite src val => Sys2Proof.Machine.execPwrVmonWrite src val s
  | .thermalReading temps => Sys2Proof.Machine.execThermalReading temps s
  | .clockFault => Sys2Proof.Machine.execClockFault s
  | .pllLock => Sys2Proof.Machine.execPllLock s
  | .powerOnReset => Sys2Proof.Machine.execPowerOnReset s
  | .hardReset cause => Sys2Proof.Machine.execHardReset cause s
  | .warmReset level4 => Sys2Proof.Machine.execWarmReset level4 s
  | .flr => Sys2Proof.Machine.execFlr s
  | .boot e => Sys2Proof.Machine.execBoot e s
  | .hostRecovery size => Sys2Proof.Machine.execHostRecovery size s
  | .ownerClaim => Sys2Proof.Machine.execOwnerClaim s
  | .keyEnroll => Sys2Proof.Machine.execKeyEnroll s
  | .keyRevoke => Sys2Proof.Machine.execKeyRevoke s
  | .attest => Sys2Proof.Machine.execAttest s
  | .fwUpdate flashOk => Sys2Proof.Machine.execFwUpdate flashOk s
  | .fwActivate => Sys2Proof.Machine.execFwActivate s
  | .fwHandover => Sys2Proof.Machine.execFwHandover s
  | .fwCommit => Sys2Proof.Machine.execFwCommit s
  | .fwRevert => Sys2Proof.Machine.execFwRevert s
  | .ledgerFailover => Sys2Proof.Machine.execLedgerFailover s
  | .freeze pin => Sys2Proof.Machine.execFreeze pin s
  | .thaw => Sys2Proof.Machine.execThaw s
  | .dbgDataRead => Sys2Proof.Machine.execDbgDataRead s
  | .dbgStreamLen len => Sys2Proof.Machine.execDbgStreamLen len s
  | .dbgCsnapTake => Sys2Proof.Machine.execDbgCsnapTake s
  | .dbgHaltWrite val => Sys2Proof.Machine.execDbgHaltWrite val s
  | .jtagDbgReg write idx val => Sys2Proof.Machine.execJtagDbgReg write idx val s
  | .jtagIdcode => Sys2Proof.Machine.execJtagIdcode s
  | .jtagExtest chain => Sys2Proof.Machine.execJtagExtest chain s
  | .jtagSamplePreload chain => Sys2Proof.Machine.execJtagSamplePreload chain s
  | .jtagBypass tdi => Sys2Proof.Machine.execJtagBypass tdi s
  | .smbusSetOffset off => Sys2Proof.Machine.execSmbusSetOffset off s
  | .smbusWriteWord val => Sys2Proof.Machine.execSmbusWriteWord val s
  | .smbusReadWord => Sys2Proof.Machine.execSmbusReadWord s
  | .registerRead off => Sys2Proof.Machine.execRegisterRead off s
  | .configurationRequest idx => Sys2Proof.Machine.execConfigurationRequest idx s
  | .resetRelease por => Sys2Proof.Machine.execResetRelease por s
  | .tapReset => Sys2Proof.Machine.execTapReset s
  | .faultInstruction operand => Sys2Proof.Machine.execFaultInstruction operand s
  | .pairingTimeout slot => Sys2Proof.Machine.execPairingTimeout slot s
  | .portReferenceClockLoss p => Sys2Proof.Machine.execPortReferenceClockLoss p s

end Sys2Proof.Machine
end

