-- ==== Sys2Proof/Machine/Pins.lean ====
section
/-! DEFINITION. Pins.lean: the balls of the package, what each is, and the levels that the outputs drive (R470, R474,
R479–R483, Tables 18.2–18.5). -/

namespace Sys2Proof.Machine

/-! ### Names (R479, Table 18.2) -/

/-- The letters of row index i, 1 to 55. -/
def rowLetters (i : Nat) : String :=
  ["A", "B", "C", "D", "E", "F", "G", "H", "J", "K", "L", "M", "N", "P", "T", "U", "V", "W", "Y", "AA", "AB", "AC", "AD",
    "AE", "AF", "AG", "AH", "AJ", "AK", "AL", "AM", "AN", "AP", "AT", "AU", "AV", "AW", "BA", "BB", "BC", "BD", "BE", "BF",
    "BG", "BH", "BJ", "BK", "BL", "BM", "BN", "BP", "BT", "BU", "BV", "BW"].getD (i - 1) ""

/-- The name of the ball in row i and column j. -/
def ballName (i j : Nat) : String := rowLetters i ++ toString j

/-! ### Signals (R480, R481) -/

/-- Lanes of the SerDes ports and their reference clocks. -/
inductive PairSignal
  | fhTx (p l : Nat) | fhRx (p l : Nat) | fhRef (p : Nat)
  | brTx (k : Nat) | brRx (k : Nat) | brRef
  | pcieTx (k : Nat) | pcieRx (k : Nat) | pcieRef
  deriving DecidableEq, Repr

/-- The CMOS balls of Table 18.4. -/
inductive CmosSignal
  | refclkP | refclkN | porN | resetN | perstN | testEn | freezeN | freezeOutN | thermtripN | ppsIn | ppsOut | rclkOut
  | qspiClk | qspiCsN | qspiD (i : Nat) | tck | tms | tdi | tdo | trstN | smbScl | smbSda | dbgClk | dbgValid | dbgD (i : Nat)
  deriving DecidableEq, Repr

/-- Row, column and signal of each pair's true ball; the complement stands in the next column (Table 18.3). -/
def pairBalls : List (Nat × Nat × PairSignal) :=
  let lanes (row : Nat) (f : Nat → Nat → PairSignal) : List (Nat × Nat × PairSignal) :=
    (List.range 2).flatMap fun p => (List.range 4).map fun l => (row, 6 + 16 * p + 3 * l, f p l)
  lanes 2 .fhTx ++ lanes 4 .fhRx ++ ((List.range 2).map fun p => (6, 10 + 16 * p, .fhRef p))
    ++ ((List.range 4).map fun k => (54, 10 + 3 * k, .brTx k)) ++ ((List.range 4).map fun k => (52, 10 + 3 * k, .brRx k))
    ++ [(51, 22, .brRef)]
    ++ ((List.range 8).map fun k => (10 + 3 * k, 2, .pcieTx k)) ++ ((List.range 8).map fun k => (10 + 3 * k, 5, .pcieRx k))
    ++ [(34, 2, .pcieRef)]

/-- Row, column and signal of each CMOS ball (Table 18.4). -/
def cmosBalls : List (Nat × Nat × CmosSignal) :=
  [(46, 2, .refclkP), (46, 3, .refclkN), (46, 5, .porN), (46, 6, .resetN), (46, 7, .perstN), (46, 8, .testEn),
    (47, 2, .freezeN), (47, 3, .freezeOutN), (47, 5, .thermtripN), (47, 6, .ppsIn), (47, 7, .ppsOut), (47, 8, .rclkOut),
    (48, 2, .qspiClk), (48, 3, .qspiCsN)]
    ++ ((List.range 4).map fun i => (48, 5 + i, .qspiD i))
    ++ [(49, 2, .tck), (49, 3, .tms), (49, 5, .tdi), (49, 6, .tdo), (49, 7, .trstN), (49, 8, .smbScl), (49, 9, .smbSda),
      (50, 2, .dbgClk), (50, 3, .dbgValid)]
    ++ ((List.range 8).map fun i => (50, 4 + i, .dbgD i))

/-- The link that lane l of fronthaul port p carries in a MODE of the port: 0 one link of four lanes, 1 two of two, 2 four
of one. -/
def laneLink (mode p l : Nat) : Nat := match mode with
  | 0 => 4 * p
  | 1 => 4 * p + l / 2
  | _ => 4 * p + l

/-! ### Ball types (R482, R483) -/

/-- What a ball is. -/
inductive BallType
  | pair (x : PairSignal) (complement : Bool) | cmos (x : CmosSignal) | rsvd
  | vdd | vss | vddHbm | vddqHbm | vppHbm | vddaSd | vddhSd | vddio
  deriving DecidableEq, Repr

/-- The signal of a ball, or RSVD at a corner. -/
def namedBall (i j : Nat) : Option BallType :=
  match pairBalls.find? fun b => b.1 == i && (b.2.1 == j || b.2.1 + 1 == j) with
  | some b => some (.pair b.2.2 (b.2.1 + 1 == j))
  | none => match cmosBalls.find? fun b => b.1 == i && b.2.1 == j with
    | some b => some (.cmos b.2.2)
    | none => if (i = 1 ∨ i = 55) ∧ j ∈ [1, 2, 54, 55] then some .rsvd else none

/-- The supply that rules 2 to 9 of Table 18.5 give the ball in row i and column j: the first that names it, and VSS where
none does. -/
def supplyBall (i j : Nat) : BallType :=
  let inRows (a b : Nat) : Bool := a ≤ i && i ≤ b
  let inCols (a b : Nat) : Bool := a ≤ j && j ≤ b
  if inRows 8 45 && inCols 8 45 then (if (i + j) % 2 = 0 then .vdd else .vss)
  else if inRows 8 45 && [48, 50, 52, 54].contains j && i % 2 = 0 then .vddHbm
  else if inRows 9 45 && [49, 53].contains j && i % 2 = 1 then .vddqHbm
  else if inRows 20 27 && j = 55 then .vppHbm
  else if i = 7 && inCols 6 33 then (if j % 2 = 0 then .vddaSd else .vddhSd)
  else if inRows 10 33 && j = 7 then (if i % 2 = 0 then .vddaSd else .vddhSd)
  else if i = 50 && inCols 13 20 then (if j % 2 = 0 then .vddaSd else .vddhSd)
  else if i = 48 && inCols 10 15 then .vddio
  else .vss

/-- The type of the ball in row i and column j (R483). -/
def ballType (i j : Nat) : BallType := (namedBall i j).getD (supplyBall i j)

/-! ### Levels of the outputs -/

/-- An output: low, high, or undriven. -/
inductive Level | low | high | z
  deriving DecidableEq, Repr

/-- The level of an output in any reset and until lock (Table 18.4, Reset state); none for an input. -/
def resetLevel (s : State) : CmosSignal → Option Level
  | .freezeOutN | .qspiCsN => some .high
  | .thermtripN => some (if s.power.tripped then .low else .z)
  | .ppsOut | .rclkOut | .qspiClk | .dbgClk | .dbgValid | .dbgD _ => some .low
  | .qspiD _ | .tdo | .smbSda => some .z
  | _ => none

/-- The level of an output that states of the device decide: FREEZE_OUT_N (R470), THERMTRIP_N (R432), PPS_OUT (R353) and
DBG_VALID (R474). Those of clocks and data lines change within what one step is. -/
def outputLevel (s : State) (x : CmosSignal) : Option Level :=
  if s.host.inReset || !s.locked then resetLevel s x
  else match x with
    | .freezeOutN => some (if s.dbg.frozen && s.flag dbgBase 1 then .low else .high)
    | .thermtripN => some (if s.power.tripped then .low else .z)
    | .ppsOut => some (if s.dbg.pps then .high else .low)
    | .dbgValid => some (if s.dbg.stream.isSome then .high else .low)
    | _ => none

end Sys2Proof.Machine
end

