-- ==== Sys2Proof/Safety.lean ====
section
/-! DEFINITION. Safety.lean: the predicates that claims about the device are stated with. -/

namespace Sys2Proof.Machine

/-! ### Where errors are written down -/

/-- Nothing differs but registers, what has left the device, the integrity system and the debug unit: all that an error
report can touch (R359–R362, R450, R475). -/
def OnlyLog (s t : State) : Prop := t = { s with regs := t.regs, sent := t.sent, integ := t.integ, dbg := t.dbg }

/-- The registers that an error report writes: the error log and its counters, MSI-X pending bits, the recovery counts of
the integrity system, and the first registers of the debug unit. -/
def logReg (o : Nat) : Bool :=
  (0x1000 ≤ o && o < 0x4000) || (0x000D_0800 ≤ o && o < 0x000D_0810) || (igBase + 0x400 ≤ o && o < igBase + 0x410)
    || (dbgBase ≤ o && o < dbgBase + 0xC)

/-- The memory of a state is in canonical form. -/
def MemOk (s : State) : Prop := Memory.wf s.mem = true

/-! ### Outcomes -/

/-- The command answers a next state, and that state has the property. -/
def Gives (i : Instr) (s : State) (P : State → Prop) : Prop := ∃ t, exec i s = .next t ∧ P t

/-- The completion that the host gets for its read is the word. -/
def Returns (t : State) (w : Word) : Prop := t.host.reply = some ⟨.success, natLE 4 w.toNat⟩

/-! ### Who reaches the device -/

/-- The units of the device act and the host reaches it over PCIe (R417, R467, R493). -/
def HostUp (s : State) : Prop := s.live = true ∧ hostReaches s = true


/-! ### Registers -/

/-- An offset whose register is written by its fields' access types and classes alone: no rule gives a write of it more
to do. -/
def ordinary (o : Nat) : Bool :=
  (regAt o).isSome && commitOf o ≠ some o && match blockOf o with
  | (.global, x) => x ∉ [0x1004, 0x1_0004, 0x1_0014, 0x1_0018, 0x4_000C]
  | (.common, _) => (msixControlAt o).isNone
  | (.ledger, x) => x ≠ 0
  | (.time, x) => x ≠ 0 && !(0x100 ≤ x && x < 0x300)
  | (.fronthaul, x) => x ≠ 0 && x ≠ 0x1000
  | (.bridge, x) => x ≠ 0 && x ≠ 0x10
  | (.hbm, x) => x ≠ 0x1C
  | (.central _, x) => x ≠ 0x18 && x < 0x1000
  | (.carrier _, x) => x ≠ 0 && x ≠ 0x46C
  | (.tile _ .array, x) => x ≠ 0 && x ≠ 0x18
  | (.tile _ .rod, x) => x ≠ 0xC
  | (.tile _ .core, x) => x ≠ 0
  | (.tile _ .slide, x) => x ≠ 0x18 && x < 0x1000
  | (.phys _, x) => x ≠ 8
  | (.integrity, _) | (.tile _ .control, _) | (.tile _ .quickSum, _) => true
  | _ => false

/-- An offset at which the host's access meets one register that no swap holds: no broadcast or group window (R440), and
no window of a tile whose swap is in progress (R35). -/
def Unicast (s : State) (o : Nat) : Prop := windowOf s o = none ∧ isHeld s o = false

/-- What the write of v makes of bit i of a field whose bits held `old`, in an idle block or not: the active value
(Table 0.3, R9, R10, R14). -/
def bitAfter (f : Fld) (idle old v : Bool) : Bool :=
  match f.acc, f.cls with
  | .rw, .live => v
  | .rw, .locked => if idle then v else old
  | .w1c, _ => old && !v
  | _, _ => old

/-- An offset in a block whose commit copies shadows and starts nothing more. -/
def hookFree (o : Nat) : Bool := match blockOf o with
  | (.global, _) | (.ledger, _) | (.time, _) | (.hbm, _) | (.tile _ .array, _) | (.tile _ .core, _) => true
  | _ => false

/-! ### Digit cores -/

/-- Core t issues the instruction in D now: its units act, it is in STATE RUN or STALL, no interrupt comes first (R100),
and no result is still inside its distance, so that every register reads as last written (R83). -/
def DcGo (s : State) (t : Tile) : Prop :=
  s.live = true ∧ dcReady (s.core t) = true ∧ (s.core t).hazards = []

/-- The state with the instruction in D fetched; one that waited stands in D already (R82, R85). -/
def fetched (s : State) (t : Tile) : State := if (s.core t).status = .run then dcFetch s t else s

/-- sN, pN and qN, and the parts of accumulator n, as last written. -/
def sReg (c : DigitCore) (n : BitVec 5) : Word := tget (fun _ => 0) c.s (sIndex c n.toNat)
def pReg (c : DigitCore) (n : BitVec 3) : Word := tget (fun _ => 0) c.p n.toNat
def qReg (c : DigitCore) (n : BitVec 3) : DWord := tget (fun _ => 0) c.q n.toNat
def reAcc (c : DigitCore) (n : BitVec 3) : BitVec 48 := tget (fun _ => 0) c.accRe n.toNat
def imAcc (c : DigitCore) (n : BitVec 3) : BitVec 48 := tget (fun _ => 0) c.accIm n.toNat

/-- sN, pN and qN written. -/
def setS (c : DigitCore) (n : BitVec 5) (v : Word) : DigitCore := { c with s := tset (fun _ => 0) c.s (sIndex c n.toNat) v }
def setP (c : DigitCore) (n : BitVec 3) (v : Word) : DigitCore := { c with p := tset (fun _ => 0) c.p n.toNat v }
def setQ (c : DigitCore) (n : BitVec 3) (v : DWord) : DigitCore := { c with q := tset (fun _ => 0) c.q n.toNat v }
def setAcc (c : DigitCore) (n : BitVec 3) (re im : BitVec 48) : DigitCore :=
  { c with accRe := tset (fun _ => 0) c.accRe n.toNat re, accIm := tset (fun _ => 0) c.accIm n.toNat im }

/-- The instruction in D of core t has left it: apart from free values drawn, `u` is the state after its fetch with core t
changed by f, gone on to the next instruction and in STATE RUN; `hz` are the results now inside their distances. -/
def DcDone (s : State) (t : Tile) (f : DigitCore → DigitCore) (u : State) : Prop :=
  ∃ hz n, u = ((fetched s t).drawFree n).setCore t { dcAdvance (f ((fetched s t).core t)) with
    hazards := hz, status := .run, stallCause := 0, waitOn := none, fetchWait := 0, fetched := none, stirred := true }

/-- Of the writes that LD does not see yet, those of one queue behind the last of the other (R95). -/
def behindLast (l : Tab (List (Byte × Bool))) (rod : Bool) : Tab (List (Byte × Bool)) :=
  (l.map fun e => (e.1, (e.2.reverse.takeWhile (·.2 = rod)).reverse)).filter (!·.2.isEmpty)

/-- The instruction in D of core t waits there under a cause of Table 3.15 and has no effect (R85). -/
def DcWaits (s : State) (t : Tile) (cause : Nat) (tally : Option Nat) (u : State) : Prop :=
  u = (fetched s t).setCore t { (fetched s t).core t with status := .stall, stallCause := cause, waitOn := tally }

/-- Core t halts at the instruction in D, which has no effect, and the error is reported (R103). -/
def DcHalts (s : State) (t : Tile) (code detail : Nat) (u : State) : Prop :=
  u = raise ((fetched s t).setCore t { (fetched s t).core t with
    status := .halted, stallCause := 0, hazards := [], waitOn := none, fetchWait := 0, fetched := none }) code 1 t
      (s.core t).pc.toNat detail

/-! ### Rod engines -/

/-- Byte i of the rod registers, and part k of register v in the view of a type. -/
def regByte (e : RodEngine) (i : Nat) : Byte := tget (fun _ => 0) e.v (i % 65536)
def regPart (e : RodEngine) (t : Elem) (v k : Nat) : Nat := partOfReg (regByte e) t v k

/-- Mask m and broadcast register b. -/
def maskReg (e : RodEngine) (m : Nat) : BitVec 1024 := tget (fun _ => 0) e.m (m % 8)
def bcastReg (e : RodEngine) (b : Nat) : Word := tget (fun _ => 0) e.b (b % 8)

/-- The head of tile t's rod queue is the legal command c with opcode `op`, of element type ty, and may start now: its
DEP_ARR is met, no earlier drain contests its registers, its summaries fit, and the engine is neither FAULTED nor held
for a save (R96, R166, R182, R184, R185); and no signal of the core waits for its completion (R242). -/
def RodStarts (s : State) (t : Tile) (op : Nat) (c : RodCmd) : Prop :=
  s.live = true ∧ (s.core t).signals = [] ∧ rodHeld s t = false ∧
    ∃ q r, (s.core t).rodQ = q :: r ∧ rodCmd q.word = c ∧ c.op = op ∧ rodBad c = false ∧
      rodFaulted s t = false ∧ contestedBy s t q = [] ∧ (c.depArr = true → arrayDoneBefore s t q.arrBefore = true) ∧
      (s.core t).sumQ.length + rodPosts c ≤ 8

/-- The head of tile t's rod queue has completed with its summaries, what it has written to the board marked for the core
(R95): of every other tile, and of everything outside the rod engines but memory, the error log, counters and free
values drawn, nothing has changed. -/
def RodLeaves (s : State) (t : Tile) (sums : List Word) (u : State) : Prop :=
  u.core t = { s.core t with
    rodQ := (s.core t).rodQ.drop 1, rodDone := (s.core t).rodDone + 1, sumQ := (s.core t).sumQ ++ sums,
    unseen := (u.core t).unseen } ∧
  (∀ k, k ≠ t.val → u.core k = s.core k ∧ u.rod k = s.rod k) ∧
  u = { s with
    cores := u.cores, rods := u.rods, regs := u.regs, sent := u.sent, integ := u.integ, dbg := u.dbg, free := u.free,
    mem := u.mem }

/-- Register VD has its n first parts written from `val` where the mask takes their elements, every byte outside its
registers and all else of the engine stays; `per` parts make one element for the mask (R162, R171). A part that the mask
does not take becomes 0 with ZERO. -/
def RodWrites (e e' : RodEngine) (c : RodCmd) (t : Elem) (per n : Nat) (val : Nat → Nat) : Prop :=
  (∀ k < n, regPart e' t c.vd k =
    if taken e c (k / per) then val k % 2 ^ (8 * partBytes t) else if c.zero then 0 else regPart e t c.vd k) ∧
  (∀ i < 65536, (∀ k, k * viewParts t < n → i / 2048 ≠ (c.vd + k) % 32) → regByte e' i = regByte e i) ∧
  e'.m = e.m ∧ e'.b = e.b ∧ e'.drs = e.drs ∧
  e'.db = if rodStochastic c then e.db + BitVec.ofNat 64 (32 * e.drs.toNat) else e.db

/-! ### Slide engines -/

/-- The descriptors that wait at engine e's source, and the 64 bytes that address a of it names (R209, R211). -/
def source (s : State) (e : Nat) : List Word := if e < 16 then (s.core e).slideQ else (s.engine e).submitted
def headBytes (s : State) (e : Nat) (a : Word) : List Byte :=
  s.readBytes (if e < 16 then s.boardStore e (a.toNat % 2 ^ 25) else submitStore a) 64

/-- The descriptor whose address a is the head of engine e's source; one of a tile engine bears its number (R209, R213).
-/
def headDesc (s : State) (e : Nat) (a : Word) : SlideDesc :=
  let d := slideDesc (headBytes s e a) a.toNat
  if e < 16 then { d with no := (s.core e).slideIssued - (s.core e).slideQ.length } else d

/-- No signal of the core of tile engine e waits for its copies (R242). -/
def NoSignals (s : State) (e : Nat) : Prop := e < 16 → (s.core e).signals = []

/-- The channel holds nothing of its head but what it has written: no data, no spilled block, and no buffer block but
those given back (R219, R226). -/
def Settled (c : SlideChannel) : Prop :=
  c.held = [] ∧ c.slots = [] ∧ c.tail = [] ∧ c.rd = c.pos ∧ c.returned = c.pos / 512 ∧ c.backBlock = false

/-- No access of the channel at the peer is outstanding (R400). -/
def NoPeer (s : State) (e ch : Nat) : Prop := ∀ w, peerOut s e ch w = []

/-- The bucket of a channel never runs short for n bytes (R223). -/
def TokensFor (s : State) (e ch n : Nat) : Prop := s.fld (chBase e ch + 4) 15 0 = 0 ∨ n ≤ tokenLevel s e ch

/-- Where bytes of a descriptor lie in memory. -/
def srcStore (s : State) (d : SlideDesc) (i : Nat) : Option Nat := s.storeOf (targetOf (srcAddr d i))
def dstStore (s : State) (d : SlideDesc) (ring i : Nat) : Option Nat := s.storeOf (targetOf (dstAddr d ring i))

/-- Bytes [lo, hi) of a descriptor go from memory to memory, to places that differ from one another and from every
source. -/
def Apart (s : State) (d : SlideDesc) (ring lo hi : Nat) : Prop :=
  (∀ i, lo ≤ i → i < hi → (srcStore s d i).isSome = true ∧ (dstStore s d ring i).isSome = true) ∧
  (∀ i j, lo ≤ i → i < hi → lo ≤ j → j < hi →
    dstStore s d ring i ≠ srcStore s d j ∧ (i ≠ j → dstStore s d ring i ≠ dstStore s d ring j))

/-- No spare-tile swap holds an access to those bytes, and those read from a carrier buffer are announced (R24, R35). -/
def Open (s : State) (d : SlideDesc) (ring lo hi : Nat) : Prop :=
  ∀ i, lo ≤ i → i < hi → accessHeld s (srcAddr d i) = false ∧ accessHeld s (dstAddr d ring i) = false ∧
    ∀ a, srcStore s d i = some a → unannounced s (a - commonStore 0) = false

/-- After the move of those bytes each stands at its destination, and every other byte of memory is as it was. -/
def Moved (s u : State) (d : SlideDesc) (ring lo hi : Nat) : Prop :=
  (∀ i, lo ≤ i → i < hi → ∀ a b, srcStore s d i = some a → dstStore s d ring i = some b → u.byte b = s.byte a) ∧
  (∀ b, (∀ i, lo ≤ i → i < hi → dstStore s d ring i ≠ some b) → u.byte b = s.byte b)

/-- An ADD by engine e to tally n reaches the tally alone: no replay absorbs it and no peer shares the tally (R379,
R247). -/
def PlainTally (s : State) (e n : Nat) : Prop :=
  (e < 16 → (journalOf s e n).absorbAdds = 0 ∧
    ∀ k, s.runningSlot = some k → ∀ d, (s.job k).image.tallies[n - (s.job k).image.nsBase]? = some d → d.kind ≠ 3)

/-! ### The host -/

/-- The completion of a security command (Table 16.10) waits last for ring 0, where it finds no room in the ring. -/
def Posts (s u : State) (code htag status detail : Nat) : Prop :=
  cplRoom s 0 = false → s.cpl.queue.length < 65536 →
    u.cpl.queue = s.cpl.queue ++ [⟨0, code, htag, [BitVec.ofNat 32 status, BitVec.ofNat 32 detail]⟩]

/-! ### Standing still -/

/-- The device is held in reset: its clocks stand still, and nothing has begun. -/
def InReset (s : State) : Prop :=
  s.host.inReset = true ∧ s.locked = false ∧ s.dbg.frozen = false ∧ s.counter = 0 ∧ s.cores = [] ∧ s.jobs = [] ∧
    s.tallies = []

/-- A command that can end a freeze or act on a frozen device: a thaw, a reset or what can cause one, lock of the root
PLL, and the debug unit's own registers (Table 17.1). -/
def wakes : Instr → Bool
  | .thaw | .powerOnReset | .hardReset _ | .clockFault | .vddMonitorPeriod _ | .thermalReading _ | .hbmTempRead _
  | .pllLock | .dbgHaltWrite _ | .jtagDbgReg _ _ _ => true
  | .registerWrite _ o _ | .commit _ o _ | .bcastWrite _ o _ => match blockOf o.toNat with
    | (.debug, _) => true
    | _ => false
  | _ => false

/-- Of the device nothing has moved: what differs are registers of the debug unit, the host port, what has left the
device, free values drawn and the queue. -/
def Still (s t : State) : Prop := t = { s with
  regs := t.regs, sent := t.sent, host := t.host, dbg := t.dbg, free := t.free, pending := t.pending }

end Sys2Proof.Machine
end

