-- ==== Sys2Proof/Certificates/Slice0/Obligations.lean ====
section
/-! DEFINITION. Obligations.lean: what is claimed of the model, one definition each. -/

open Sys2Proof Sys2Proof.Machine

/-! ### Steps and registers -/

/-- A step takes the command at the front of the queue: it is `exec` of that command on the state with the queue's
rest. -/
def Obligations.StepTakesFront : Prop :=
  ∀ (c : Instr) (s : State), step { s with pending := c :: s.pending } = exec c s

/-- With no command waiting a beat passes (log entry 1, the model's choice). Of a live device on which no digit core
executes, no slide channel and no copy of a task is at work, no register write of an engine waits for the beat's end, no
frame is sent and no proof runs, the counter advances by one (R335) and of the rest of the state only the arrays' beat counts, accounting,
registers, power accounting and free values drawn can change, and of the cores the mark of work taken up since the last
beat; a frozen device only grows older, its readout port sending on, and what the host waits for is aborted (R465, R467,
R469, R474); one whose clocks stand still does not change but for that port. -/
def Obligations.IdleStepIsBeat : Prop :=
  ∀ s : State, s.pending = [] → ∃ t, step s = .next t ∧
    (s.live = true → (∀ k : Fin 16, executes s k = false) → (∀ e < 20, slideQuiet s e = true) →
      (∀ k n, (taskAt s k n).copies = []) → (∀ c < 24, (s.proof c).running = none) → s.integ.batch = none →
      s.regWrites = [] → s.dbg.stream = none →
      t.counter = s.counter + 1 ∧ (∀ k < 16, t.core k = { s.core k with stirred := false }) ∧
        t = { s with
          counter := t.counter, arrays := t.arrays, acct := t.acct, power := t.power, regs := t.regs, free := t.free,
          cores := t.cores }) ∧
    (s.dbg.frozen = true → t.dbg.frozenFor = s.dbg.frozenFor + 1 ∧ (∀ x ∈ t.host.held, x.write = true) ∧
      ((∃ x ∈ s.host.held, x.write = false) → t.host.reply = some ⟨.abort, []⟩) ∧
      (s.dbg.stream = none → (∀ x ∈ s.host.held, x.write = true) →
        t = s.onDbg fun d => { d with frozenFor := d.frozenFor + 1 })) ∧
    (s.dbg.frozen = false → s.locked = false → t = streamBeat s ∧ (s.dbg.stream = none → t = s))

/-- A register access is of an aligned word (R4): at an offset that is no multiple of 4 the five register commands
stop. Every command of the table completes otherwise: whatever the state and its other operands, it answers a next
state. -/
def Obligations.MisalignedAccessStops : Prop :=
  ∀ (s : State) (src : Writer) (o : BitVec 26) (v : Word),
    (o.toNat % 4 ≠ 0 → ∀ i ∈ [Instr.registerWrite src o v, .registerRead o, .commit src o v, .bcastWrite src o v,
      .bcastRead o], exec i s = .fault .unalignedRegisterAccess) ∧
    ∀ i : Instr, ((i = .registerWrite src o v ∨ i = .registerRead o ∨ i = .commit src o v ∨ i = .bcastWrite src o v ∨
        i = .bcastRead o) ∧ o.toNat % 4 = 0 ∨
      ∀ (src : Writer) (o : BitVec 26) (v : Word), i ≠ .registerWrite src o v ∧ i ≠ .registerRead o ∧
        i ≠ .commit src o v ∧ i ≠ .bcastWrite src o v ∧ i ≠ .bcastRead o) → ∃ t, exec i s = .next t

/-- A reserved address reads as 0 and takes no write; neither sets an error, and the access completes normally (R34).
-/
def Obligations.ReservedAddress : Prop :=
  ∀ (s : State) (src : Writer) (o : BitVec 26) (v : Word), HostUp s → o.toNat % 4 = 0 → regAt o.toNat = none →
    Unicast s o.toNat →
    exec (.registerWrite src o v) s = .next s ∧
    Gives (.registerRead o) s fun t => Returns t 0 ∧ t.regs = s.regs ∧ t.integ = s.integ ∧ t.sent = s.sent

/-- REGISTER_WRITE acts on each field by its access type and class (Table 0.3, R5, R9, R10, R14): bit by bit the word
holds what `bitAfter` says, bits of no field keep their value, the shadow of a staged field takes the value written,
and where no locked field refuses the write nothing else changes. -/
def Obligations.RegisterWriteByField : Prop :=
  ∀ (s : State) (o : BitVec 26) (v : Word), HostUp s → o.toNat % 4 = 0 → ordinary o.toNat = true → Unicast s o.toNat →
    Gives (.registerWrite .pcie o v) s fun t =>
      (∀ f ∈ fieldsAt o.toNat, ∀ i, f.lo ≤ i → i ≤ f.hi →
        bit (t.reg o.toNat) i = bitAfter f (kIdle s o.toNat) (bit (s.reg o.toNat) i) (bit v i) ∧
        (f.cls = .staged → ∃ w, t.shadow o.toNat = some w ∧ bit w i = bit v i)) ∧
      (∀ i, (∀ f ∈ fieldsAt o.toNat, ¬(f.lo ≤ i ∧ i ≤ f.hi)) → bit (t.reg o.toNat) i = bit (s.reg o.toNat) i) ∧
      ((∀ f ∈ fieldsAt o.toNat, f.cls ≠ .locked) → ∃ w, t = { s with regs := (s.setReg o.toNat w).regs, shadows := t.shadows })

/-- A staged field keeps its active value through writes, a read returns that active value, and a write of 1 to the
block's COMMIT register, where the block's commit starts nothing further, copies the last value written to the active
field and every shadow of the block with it, and touches no register of another block (R10–R12); a write of 0 there
does nothing (R13). -/
def Obligations.StagedUntilCommit : Prop :=
  ∀ (s : State) (o k : BitVec 26) (v c : Word), HostUp s → o.toNat % 4 = 0 → k.toNat % 4 = 0 →
    ordinary o.toNat = true → hookFree o.toNat = true → lockedMask o.toNat = 0 →
    stagedMask o.toNat ≠ 0 → commitOf o.toNat = some k.toNat → Unicast s o.toNat → Unicast s k.toNat →
    let m := stagedMask o.toNat
    Gives (.registerWrite .pcie o v) s fun t =>
      t.reg o.toNat &&& m = s.reg o.toNat &&& m ∧
      (Gives (.registerRead o) t fun r => ∃ w, Returns r w ∧ w &&& m = s.reg o.toNat &&& m) ∧
      Gives (.commit .pcie k c) t fun u =>
        (bit c 0 = false → u = t) ∧
        (bit c 0 = true →
          u.reg o.toNat &&& m = v &&& m ∧ u.reg o.toNat &&& ~~~m = t.reg o.toNat &&& ~~~m ∧
          (∀ x, commitOf x = some k.toNat → u.shadow x = none) ∧
          (∀ x, commitOf x ≠ some k.toNat → u.reg x = t.reg x ∧ u.shadow x = t.shadow x))

/-- A write that would change a locked field of a running block leaves the field and logs CFG_LOCKED_WRITE with the
block, the offset and the value; a write of the value the field holds logs nothing (R14). The log has room, and no
debug trigger waits for this error. -/
def Obligations.LockedWriteRefused : Prop :=
  ∀ (s : State) (o : BitVec 26) (v : Word), HostUp s → o.toNat % 4 = 0 → ordinary o.toNat = true → Unicast s o.toNat →
    kIdle s o.toNat = false → validEntries s < 64 → s.integ.overflow = [] → s.integ.batch = none →
    s.flag (dbgBase + 8) 8 = false →
    let m := lockedMask o.toNat
    let e := 0x2000 + (s.reg 0x1000).toNat % 64 * 0x20
    Gives (.registerWrite .pcie o v) s fun t =>
      t.reg o.toNat &&& m = s.reg o.toNat &&& m ∧
      (m &&& (s.reg o.toNat ^^^ v) = 0 → t.reg 0x1000 = s.reg 0x1000 ∧ t.integ = s.integ) ∧
      (m &&& (s.reg o.toNat ^^^ v) ≠ 0 → t.reg 0x1000 = s.reg 0x1000 + 1 ∧
        t.reg e = BitVec.ofNat 32 (eLockedWrite + (lockUnit o.toNat).1 % 16 * 2 ^ 16 + (lockUnit o.toNat).2 % 32 * 2 ^ 20) ∧
        t.reg (e + 8) = BitVec.ofNat 32 o.toNat ∧ t.reg (e + 12) = v)

/-- A write through a broadcast or group window acts in each member as a write of that member alone, and in nothing
else; a window with no members ignores it (R440, R441). The members are ordinary registers that no running block
refuses and no swap holds. A read through a window returns the word of its lowest-numbered member, and 0 when it has
none; when a member's word differs, the bits of the differing members are added to the mask, the offset and MISMATCH are
recorded, and nothing else than the error log follows (R442). -/
def Obligations.BroadcastAccesses : Prop :=
  (∀ (s : State) (o : BitVec 26) (v : Word) (l : List Nat) (f : Nat → Nat), HostUp s → o.toNat % 4 = 0 →
    windowOf s o.toNat = some (l, f) →
    (∀ m ∈ l, ordinary (f m) = true ∧ lockedMask (f m) = 0 ∧ Unicast s (f m)) →
    Gives (.bcastWrite .pcie o v) s fun t =>
      (l = [] → t = s) ∧
      (∀ m ∈ l, t.reg (f m) = (fieldWrite s (f m) v).reg (f m) ∧ t.shadow (f m) = (fieldWrite s (f m) v).shadow (f m)) ∧
      (∀ x, (∀ m ∈ l, x ≠ f m) → t.reg x = s.reg x ∧ t.shadow x = s.shadow x) ∧
      t = { s with regs := t.regs, shadows := t.shadows }) ∧
  (∀ (s : State) (o : BitVec 26) (l : List Nat) (f : Nat → Nat), HostUp s → o.toNat % 4 = 0 →
    windowOf s o.toNat = some (l, f) → (∀ m ∈ l, isHeld s (f m) = false) →
    Gives (.bcastRead o) s fun t =>
      Returns t (match l with | [] => 0 | m :: _ => regView s (f m)) ∧
      ((∀ m ∈ l, ∀ k ∈ l, regView s (f m) = regView s (f k)) → t.regs = s.regs ∧ t.integ = s.integ) ∧
      ((∃ m ∈ l, ∃ k ∈ l, regView s (f m) ≠ regView s (f k)) →
        t.flag 0x1_0180 0 = true ∧ t.reg 0x1_0188 = BitVec.ofNat 32 o.toNat ∧
        ∀ k < 24, bit (t.reg 0x1_0184) k = true ↔
          bit (s.reg 0x1_0184) k = true ∨ ∃ m r, l = m :: r ∧ k ∈ l ∧ regView s (f k) ≠ regView s (f m)))

/-- An access that arrives for the window of a tile whose swap is in progress waits and changes nothing else; once no
swap of the tile is in progress the access is applied, a write of the unicast window by TILE_ACCESS_HOLD_RELEASE and
one of a broadcast by BCAST_HELD_WRITE_APPLY (R35, R441). -/
def Obligations.HeldAccessesWait : Prop :=
  (∀ (s : State) (t : Tile) (o : BitVec 26) (v : Word), HostUp s → o.toNat % 4 = 0 → windowOf s o.toNat = none →
    windowTile o.toNat = some t.val → s.swapping t = true →
    exec (.registerWrite .pcie o v) s =
      .next (s.hold { tile := t, off := o.toNat, write := true, src := .pcie, val := v }) ∧
    exec (.registerRead o) s = .next (s.hold { tile := t, off := o.toNat, write := false })) ∧
  (∀ (s : State) (t : Tile) (x : HeldAccess), s.live = true → s.swapping t = false → x.tile = t →
    x.bar2 = false → x.write = true → s.host.held = [x] →
    let free := s.onHost fun h => { h with held := [] }
    (x.broadcast = false →
      exec (.tileAccessHoldRelease t) s = .next (regWrite free x.src x.off x.val) ∧
      exec (.bcastHeldWriteApply t) s = .next s) ∧
    (x.broadcast = true →
      exec (.bcastHeldWriteApply t) s = .next (regWrite free x.src x.off x.val) ∧
      exec (.tileAccessHoldRelease t) s = .next s))

/-- HOST_BAR2_BASE_HI installs the base formed with the present low word (R438); a BAR2 access then reaches HBM, the
common board or a tile board at base plus offset: a write stores its bytes there and nowhere else, a read returns them
(R438, R439). The words touched hold no error. A BAR2 access keeps memory in canonical form, whatever it meets (the
model's own form, log entry 2). -/
def Obligations.Bar2Accesses : Prop :=
  (∀ (s : State) (src : Writer) (v : Word), s.live = true →
    Gives (.hostBar2BaseHiWrite src v) s fun t =>
      t.host.bar2Base = dword (s.reg 0x1_0000) (v &&& 0xFFFF) ∧ t.reg 0x1_0004 = v &&& 0xFFFF ∧ t.mem = s.mem) ∧
  (∀ (s : State) (r : Bar2Request) (a : Nat), HostUp s → bar2Waits s (s.host.bar2Base + r.offset.toNat) = none →
    bar2Store s (s.host.bar2Base + r.offset.toNat) (if r.write then r.data.length else r.len) = some a →
    eccTouched s a (if r.write then r.data.length else r.len) = [] →
    Gives (.bar2Access r) s fun t =>
      (r.write = true → t = { s with mem := t.mem } ∧
        ∀ i, t.byte i = if a ≤ i ∧ i < a + r.data.length then r.data.getD (i - a) 0 else s.byte i) ∧
      (r.write = false → t.host.reply = some ⟨.success, s.readBytes a r.len⟩ ∧ t.mem = s.mem ∧ t.regs = s.regs)) ∧
  (∀ (s t : State) (r : Bar2Request), MemOk s → exec (.bar2Access r) s = .next t → MemOk t)

/-- Writes of the words of a tally: COUNT sets the count, ADD and SUB add and subtract, held to 0 and 2^31 − 1 with
the flag that says so (R239, R240); only Ledger's reach them (R249), and STATUS clears the flags written 1. No other
tally changes. A read of the low word of an accounting field or of a base's time returns it and latches the high word
of the same moment, and the base's fraction too (R269, R341). The board controller's accesses over SMBus reach the
first MiB of BAR0: an offset is set, a word written there is a register write of its own writer, and a word read is
what the register shows (R488). -/
def Obligations.SpecialRegisterAccesses : Prop :=
  (∀ (s : State) (n : BitVec 14) (a : Word), s.live = true →
    let v := s.tally n.toNat
    (Gives (.tallyCountWrite .ledger n a) s fun t => t = s.setTally n.toNat { v with count := a.toNat % 2 ^ 31 }) ∧
    (Gives (.tallyAddWrite .ledger n a) s fun t =>
      (t.tally n.toNat).count = min 0x7FFF_FFFF (v.count + a.toNat) ∧
      (t.tally n.toNat).ovf = (v.ovf || decide (0x7FFF_FFFF < v.count + a.toNat)) ∧
      (t.tally n.toNat).unf = v.unf ∧ ∀ m, m ≠ n.toNat → t.tally m = s.tally m) ∧
    (Gives (.tallySubWrite .ledger n a) s fun t =>
      (t.tally n.toNat).count = v.count - a.toNat ∧
      (t.tally n.toNat).unf = (v.unf || decide (v.count < a.toNat)) ∧
      (t.tally n.toNat).ovf = v.ovf ∧ ∀ m, m ≠ n.toNat → t.tally m = s.tally m) ∧
    (Gives (.tallyStatusClear n a) s fun t =>
      t = s.setTally n.toNat { v with ovf := v.ovf && !bit a 0, unf := v.unf && !bit a 1 }) ∧
    ∀ src, src ≠ .ledger → ∀ i ∈ [Instr.tallyCountWrite src n a, .tallyAddWrite src n a, .tallySubWrite src n a],
      exec i s = .next s) ∧
  (∀ (s : State) (r : Fin 133) (k : Fin 8), HostUp s →
    Gives (.accountingLowRead r k) s fun t =>
      Returns t (loWord (s.acctOf r k).toNat) ∧ regView t (acctOff r k + 4) = hiWord (s.acctOf r k).toNat ∧
        t.acct = s.acct) ∧
  (∀ (s : State) (n : BaseNo), HostUp s →
    Gives (.tbTimeLoRead n) s fun t =>
      Returns t (loWord (s.nsOf n)) ∧ t.reg (tbBase n + 0x1C) = hiWord (s.nsOf n) ∧
        t.reg (tbBase n + 0x20) = BitVec.ofNat 32 (s.timeOf n % 2 ^ 16) ∧ t.bases = s.bases) ∧
  (∀ (s : State) (off v : Word), smbusAcks s = true →
    exec (.smbusSetOffset off) s = .next (s.onDbg fun d => { d with smbOffset := off.toNat / 4 * 4 }) ∧
    (smbusReaches s.dbg.smbOffset = true →
      exec (.smbusWriteWord v) s = .next (windowWrite s .smbus s.dbg.smbOffset v) ∧
      Gives .smbusReadWord s fun t => t.dbg.smbReply = some (regView s s.dbg.smbOffset) ∧ t.mem = s.mem))

/-! ### Device time -/

/-- A slot tick of a base is due at the first beat at which its slot count at a numerology, but at no lower one, is
greater than at the beat before, and not for the change that a step or a write of TOFF causes (R355, R356). It advances
CC_SLOT of exactly the carriers whose tick it is (R279, R355), commits every staged register that it governs (R10,
R11), and counts the ticks of TB0 at its own TICK_MU; the times of the bases stand, and no second tick is due in the
beat. A tick that is not due does nothing, and after a step or a write that changes TOFF none is due in that beat. -/
def Obligations.SlotTickAdvances : Prop :=
  (∀ (s : State) (n : BaseNo) (mu : Fin 4), s.live = true →
    (tickDue s n mu = true →
      Gives (.slotTick n mu) s fun t =>
        (∀ c < 24, t.ccSlot c = if tickOf s n mu c then s.ccSlot c + 1 else s.ccSlot c) ∧
        (∀ o, commitsAt s n mu o = true → t.shadow o = none) ∧
        t.integ.ticks = s.integ.ticks + b2n (decide (n.val = 0) && decide (mu.val ≤ tickMu s 0)) ∧
        t.counter = s.counter ∧ t.jobs = s.jobs ∧
        (t.tbase n).ticked = some s.counter.toNat ∧ (∀ k : Fin 4, tickDue t n k = false) ∧
        ∀ m < 4, (t.tbase m).base = (s.tbase m).base ∧ (t.tbase m).anchor = (s.tbase m).anchor) ∧
    (tickDue s n mu = false → s.integ.batch = none → exec (.slotTick n mu) s = .next s)) ∧
  (∀ (s : State) (n : BaseNo) (mu : Fin 4) (src : Writer) (hi : Bool) (v : Word), s.live = true → s.baseBusy n = false →
    (tbArmed s n = true → mayWriteTime s src n = true →
      Gives (.tbStepRequest src n v) s fun t => tickDue t n mu = false) ∧
    (s.reg (tbBase n + 0x24 + 4 * b2n hi) ≠ v → Gives (.tbToffWrite n hi v) s fun t => tickDue t n mu = false))

/-- A write of TBn_RATE re-anchors the base at this beat under its old rate and then installs the new one, so that its
time does not jump; no other base moves. A write that may not reach the register has no effect (R338, R343). -/
def Obligations.RateWriteContinuous : Prop :=
  ∀ (s : State) (src : Writer) (n : BaseNo) (v : Word), s.live = true →
    (mayWriteTime s src n = true →
      Gives (.tbRateWrite src n v) s fun t =>
        (t.tbase n).base = BitVec.ofNat 80 (s.timeOf n) ∧ (t.tbase n).anchor = s.counter ∧
        t.reg (tbBase n + 0xC) = v ∧ t.timeOf n = s.timeOf n ∧
        (∀ m : BaseNo, m ≠ n → t.timeOf m = s.timeOf m) ∧ t = { s with regs := t.regs, bases := t.bases }) ∧
    (mayWriteTime s src n = false → exec (.tbRateWrite src n v) s = .next s)

/-- A step moves an armed base with no live carrier by the signed 64-bit value of the two step words and disarms it; a
base not armed, or with a live carrier, keeps its time and its arm (R339, R340). The remaining registers of a time
base: a snapshot records the counter and the four times of one beat (R341); TOFF is written while no carrier of the
base is live, and stays as it is while one is (R356); the source register takes its value, a MODE above 4 leaving MODE
as it is (R343); a measurement written in mode 3 waits for the servo (R350). -/
def Obligations.TimeBaseRegisters : Prop :=
  (∀ (s : State) (src : Writer) (n : BaseNo) (lo : Word), s.live = true → mayWriteTime s src n = true →
    let v := signed 64 (dword lo (s.reg (tbBase n + 0x14)))
    (tbArmed s n = true → s.baseBusy n = false →
      Gives (.tbStepRequest src n lo) s fun t =>
        (t.tbase n).base = BitVec.ofInt 80 ((s.tbase n).base.toNat + v * 2 ^ 16) ∧
        (t.tbase n).anchor = (s.tbase n).anchor ∧ t.rate n = s.rate n ∧ tbArmed t n = false ∧ t.mem = s.mem) ∧
    (tbArmed s n = false ∨ s.baseBusy n = true →
      Gives (.tbStepRequest src n lo) s fun t => t.bases = s.bases ∧ tbArmed t n = tbArmed s n) ∧
    Gives (.tbArm n) s fun t => tbArmed t n = true ∧ t.bases = s.bases ∧ t = { s with regs := t.regs }) ∧
  (∀ (s : State) (n : BaseNo) (hi : Bool) (v : Word), s.live = true →
    (Gives .tmSnap s fun t => t.reg64 0x0020_0010 = s.counter.toNat ∧ t.bases = s.bases ∧
      ∀ m < 4, t.reg64 (tbBase m + 0x38) = s.nsOf m ∧
        t.reg (tbBase m + 0x40) = BitVec.ofNat 32 (s.timeOf m % 2 ^ 16)) ∧
    (s.baseBusy n = false →
      Gives (.tbToffWrite n hi v) s fun t => t.reg (tbBase n + 0x24 + 4 * b2n hi) = v ∧
        ∀ m < 4, (t.tbase m).base = (s.tbase m).base ∧ (t.tbase m).anchor = (s.tbase m).anchor) ∧
    (s.baseBusy n = true →
      Gives (.tbToffWrite n hi v) s fun t =>
        t.reg (tbBase n + 0x24 + 4 * b2n hi) = s.reg (tbBase n + 0x24 + 4 * b2n hi)) ∧
    (Gives (.tbSrcWrite n v) s fun t =>
      tbSel t n = bits v 6 4 ∧ tbMode t n = (if bits v 2 0 ≤ 4 then bits v 2 0 else tbMode s n) ∧ t.mem = s.mem) ∧
    (Gives (.tbMeasHiWrite n v) s fun t =>
      (tbMode s n = 3 → (t.tbase n).meas =
        (s.tbase n).meas ++ [signed 64 (dword (s.reg (tbBase n + 0x30)) v)]) ∧
      (tbMode s n ≠ 3 → t.bases = s.bases) ∧ t.reg (tbBase n + 0x34) = v))

/-- The servo takes the oldest measurement of a base whose mode is not MANUAL. Where it does not step, the rate it
writes, whatever control law the part has (log entry 3, the model's free value), lies within 50 ppm of the last rate
of locked operation, and it writes at most 16 in a second (R344). Events of the time unit: a base whose source is
silent past its time-out goes to FALLBACK or HOLDOVER, and its runs of measurements begin anew (R345); a rising PPS_IN
is captured and measures every base in mode 2 (R352); PPS_OUT rises at the beat at which base OUT_TB reaches a whole
second plus TM_PPS_OFFSET while its output is enabled, and falls when it has been high for its width, at no other beat
(R353); the SyncE gate shows the clock recovered by a link that has one and its lock (R351); a slave port that hears a
master sends a Delay_Req of its domain to 01-1B-19-00-00-00 (R349). -/
def Obligations.TimeServoAndEvents : Prop :=
  (∀ (s : State) (n : BaseNo) (off : Int) (r : List Int), s.live = true → tbMode s n ≠ 0 →
    (s.tbase n).meas = off :: r →
    (tbArmed s n = false ∨ off.natAbs ≤ 65536000 ∨ s.baseBusy n = true ∨ tbMode s n = 4) →
    Gives (.servoMeasurement n) s fun t =>
      (t.tbase n).meas = r ∧
      (t.rate n = s.rate n ∨ ∃ x : Int, (x - lockedRate s n).natAbs ≤ 54975581 ∧
        t.rate n = clampInt (-2 ^ 31) (2 ^ 31 - 1) x) ∧
      ((((s.tbase n).rateWrites.filter fun c => s.counter.toNat < c + beatsPerSecond).length ≥ 16) →
        t.rate n = s.rate n) ∧
      t.mem = s.mem ∧ t.tallies = s.tallies) ∧
  (∀ (s : State) (n : BaseNo), s.live = true →
    (1 ≤ tbMode s n → tbMode s n ≤ 3 → tbState s n ≠ 3 → tbState s n ≠ 4 →
      (s.tbase n).lastMeas + max 1 (s.fld (tbBase n + 4) 31 24) * 125_000_000 ≤ s.counter.toNat →
      Gives (.timeRefLost n) s fun t => (tbState t n = 3 ∨ tbState t n = 4) ∧ t.flag (tbBase n + 8) 3 = false ∧
        (t.tbase n).inRun = 0 ∧ (t.tbase n).outRun = 0) ∧
    (Gives .ppsInEdge s fun t => t.reg64 0x0020_0408 = s.counter.toNat ∧
      ∀ m < 4, (t.tbase m).meas.length = (s.tbase m).meas.length + (if tbMode s m = 2 then 1 else 0)) ∧
    (s.flag 0x0020_0400 0 = true → ppsDue s = true →
      Gives .ppsOutEdge s fun t => t.dbg.pps = true ∧ t.dbg.ppsAt = s.counter.toNat ∧ t.regs = s.regs) ∧
    (s.flag 0x0020_0400 0 = false ∨ ppsDue s = false → exec .ppsOutEdge s = .next s) ∧
    (s.dbg.ppsAt + ppsBeats s ≤ s.counter.toNat → Gives .ppsOutFall s fun t => t.dbg.pps = false ∧ t.regs = s.regs) ∧
    (s.counter.toNat < s.dbg.ppsAt + ppsBeats s → exec .ppsOutFall s = .next s) ∧
    (s.flag 0x0020_0600 0 = true → ∀ (present : Bool) (freq : Int), Gives (.synceGate present freq) s fun t =>
      t.flag 0x0020_0604 0 = (present && synceLink s && decide (freq.natAbs ≤ 5057753)) ∧
      (present = true → synceLink s = true → t.reg 0x0020_0608 = BitVec.ofInt 32 freq)) ∧
    (tbMode s n = 1 → ((s.tbase n).ptp.masterAt s.counter.toNat).isSome = true → s.host.downPorts = [] →
      Gives (.ptpDelayReqSend n) s fun t =>
        t.sent = s.sent ++ [.delayReq n 0x011B_1900_0000 (s.fld (tbBase n + 4) 23 16) (s.tbase n).ptp.delaySeq] ∧
        (t.tbase n).ptp.delaySeq = ((s.tbase n).ptp.delaySeq + 1) % 2 ^ 16))

/-! ### Submission, completion and jobs -/

/-- A scan of a running submission area, with nothing held and no error in memory, takes what stands between SUB_CONS
and PROD: nothing when they are equal; a known job or security command joins the command queue and an unknown entry is
counted as rejected, either way consuming one entry (R445, R447); more entries than the ring has set OVERRUN and stop
the area (R447). The expiry of the scan period is such a scan. A write of 1 to EN starts the area at its beginning once
boot is READY. The slot message at the front of those taken. A plan of the command's direction is held when its slot
lies further ahead than the next, rejected when it is not ahead, and of the next slot accepted where its scan found the
carrier an enabled ACCESS context and no cause speaks against it (R20, R278, R303, R446); an item that follows no plan
is counted (R302); a release empties each of its keys that no unchecked plan names (R298, R304). -/
def Obligations.SubmissionAndMessages : Prop :=
  (∀ (s : State) (g : ScanTrigger) (i : Instr), s.live = true → subOn s = true → scanStarts s g = true →
    s.sub.held = [] → s.ecc = [] → (i = .submissionScan g ∨ i = .subScanPeriodExpiry ∧ g = .period) →
    let n := (subProd s - subCons s).toNat
    let l := subEntry s (subCons s)
    Gives i s fun t =>
      (n = 0 → t.sub = s.sub ∧ subCons t = subCons s) ∧
      (subSize s < n → t.flag 0x0010_0018 0 = true ∧ subOn t = false ∧ subCons t = subCons s ∧ t.sub = s.sub) ∧
      (n = 1 → 1 ≤ subSize s → entryVer l = 1 → entryCode l ∈ commandCodes → s.sub.commands.length < 256 →
        t.sub = { s.sub with commands := s.sub.commands ++ [l] } ∧ subCons t = subCons s + 1) ∧
      (n = 1 → 1 ≤ subSize s → entryKnown l = false →
        t.sub = s.sub ∧ subCons t = subCons s + 1 ∧
        t.reg 0x0010_001C = BitVec.ofNat 32 (satAdd 32 (s.reg 0x0010_001C).toNat 1))) ∧
  (∀ (s : State) (src : Writer), s.live = true → bootStage s = 5 → subOn s = false →
    Gives (.subEnable src) s fun t => subOn t = true ∧ subCons t = 0 ∧ t.mem = s.mem) ∧
  (∀ (s : State) (ul : Bool) (p : TakenPlan) (r : List TakenEntry) (m : Word), s.live = true →
    s.sub.taken = .plan p :: r → entryCode p.header = (if ul then 0x20 else 0x21) → p.m = some m →
    field p.header 8 1 < 24 →
    let c := field p.header 8 1
    let d := planAhead p.header m
    Gives (if ul then .ulSlotPlan else .dlSlotPlan) s fun t =>
      t.sub.taken = r ∧
      (d = 1 → p.enabled = true → planCause s c ul p = 0 → ∃ x : Plan, (t.carrier c).plans = (s.carrier c).plans ++ [x] ∧ x.ul = ul ∧
        x.slot = BitVec.ofNat 32 (field p.header 0xC 4) ∧ x.symMask = field p.header 0x10 2 ∧
        x.items.map (·.item) = p.items.map itemAt) ∧
      (d = 0 ∨ 2 ^ 31 ≤ d ∨ d = 1 ∧ (p.enabled = false ∨ planCause s c ul p ≠ 0) → t.carriers = s.carriers ∧ t.sub.held = s.sub.held ∧
        t.reg (carrierBase c + 0xD0) = BitVec.ofNat 32 (satAdd 32 (s.reg (carrierBase c + 0xD0)).toNat 1)) ∧
      (2 ≤ d → d < 2 ^ 31 → t.sub.held = s.sub.held ++ [p] ∧ t.carriers = s.carriers)) ∧
  (∀ (s : State) (l : List Byte) (r : List TakenEntry), s.live = true → s.sub.taken = .stray l :: r →
    Gives .planItem s fun t => t.sub.taken = r ∧ t.carriers = s.carriers ∧
      t.reg (carrierBase 0 + 0xD0) = BitVec.ofNat 32 (satAdd 32 (s.reg (carrierBase 0 + 0xD0)).toNat 1)) ∧
  (∀ (s : State) (l : List Byte) (r : List TakenEntry), s.live = true → s.sub.taken = .release l :: r →
    field l 8 1 < 24 → 1 ≤ field l 0xC 2 → field l 0xA 2 + field l 0xC 2 ≤ 1024 →
    Gives .harqRelease s fun t => t.sub.taken = r ∧ t.mem = s.mem ∧
      ∀ k < 1024, t.harqKey (field l 8 1) k =
        (if field l 0xA 2 ≤ k ∧ k < field l 0xA 2 + field l 0xC 2 ∧ keyNamed s (field l 8 1) k = none then none
         else s.harqKey (field l 8 1) k))

/-- The oldest waiting entry of a completion ring with room is written at its place in host memory with its count and
phase, and CPLr_TAIL advances (R448, R449); a coalescing period ends with one message for the entries not yet
signalled (R451); a vector that is unmasked sends the message it has pending (R450). -/
def Obligations.CompletionEntries : Prop :=
  (∀ (s : State) (r : Fin 8) (x : CplEntry), s.live = true → cplWaiting s r = some x → cplRoom s r = true →
    1 ≤ (s.reg (cplBase r + 8)).toNat →
    let e := cplTail s r
    let size := (s.reg (cplBase r + 8)).toNat
    Gives (.completionEntryWrite r) s fun t =>
      t.readBytes (hostStore (s.reg64 (cplBase r) / 4096 * 4096 + e.toNat % size * 32)) 32 = cplBytes x e size ∧
      cplTail t r = e + 1 ∧ t.cpl.queue = s.cpl.queue.eraseP (fun y => decide (y.ring = r.val))) ∧
  (∀ (s : State) (r : Fin 8), s.live = true → s.host.downPorts = [] → tget (fun _ => 0) s.cpl.unsignalled r ≠ 0 →
    s.flag (msixOff (s.fld (cplBase r + 0x14) 13 8) + 12) 0 = false →
    Gives (.msixCoalesceExpiry r) s fun t => tget (fun _ => 0) t.cpl.unsignalled r = 0 ∧
      let v := s.fld (cplBase r + 0x14) 13 8
      t.sent = s.sent ++ [.msix v (s.reg64 (msixOff v)) (s.reg (msixOff v + 8))]) ∧
  (∀ (s : State) (v : Fin 64), s.live = true → s.host.downPorts = [] →
    Gives (.msixVectorUnmask v) s fun t => t.flag (msixOff v + 12) 0 = false ∧
      t.flag (pbaOff v) (v.val % 32) = false ∧
      t.sent = s.sent ++ (if s.flag (pbaOff v) (v.val % 32) then
        [.msix v (s.reg64 (msixOff v)) (s.reg (msixOff v + 8))] else []))

/-- Loading, binding and unloading. A good JOB_LOAD reserves its slot as LOADED; a bad one changes no slot (R253,
R254). Binding a LOADED single-chip image leaves the slot BOUND, with a number of its own, or EMPTY when a step fails,
and it fails when a step before placement does (R70, R74). A partner that stays away fails it (R404). JOB_UNLOAD of an
ended or faulted job empties its slot and frees its tallies (R244, R251). No other slot changes. -/
def Obligations.JobResidency : Prop :=
  (∀ (s : State) (c : List Byte) (r : List (List Byte)), s.live = true → s.sec.handover = none →
    s.sub.commands = c :: r → entryCode c = 0x10 →
    let s' := s.onSub fun q => { q with commands := r }
    Gives .jobLoad s fun t => t.sub.commands = r ∧
      (loadBad s' c = true → t.jobs = s.jobs) ∧
      (loadBad s' c = false → ∀ k, loadSlot s' c = some k →
        (t.job k).state = .loaded ∧ (t.job k).imageAddr = field c 8 8 ∧ (t.job k).htag = entryTag c ∧
        (t.job k).seed = BitVec.ofNat 64 (field c 0x18 8) ∧ ∀ i, i ≠ k → t.job i = s.job i)) ∧
  (∀ (s : State) (k : Fin 4), s.live = true → (s.job k).state = .loaded →
    (imgHeader (imageOf s k)).chipCount ≠ 2 →
    Gives (.jobBind k) s fun t =>
      ((t.job k).state = .bound ∧ bindFault s k = none ∧ (t.job k).number ≠ 0 ∧
          (∀ i : Fin 4, i ≠ k → (t.job k).number ≠ (s.job i).number) ∨ t.job k = {}) ∧
      (bindFault s k ≠ none → t.job k = {}) ∧ ∀ i, i ≠ k.val → t.job i = s.job i) ∧
  (∀ (s : State) (k : Fin 4) (c : Nat), s.live = true → (s.job k).state = .loaded →
    (s.job k).pairingSince = some c → (s.job k).paired = false →
    (s.counter.toNat < c + 12500000000 → exec (.pairingTimeout k) s = .next s) ∧
    (c + 12500000000 ≤ s.counter.toNat →
      Gives (.pairingTimeout k) s fun t => t.job k = {} ∧ ∀ i, i ≠ k.val → t.job i = s.job i)) ∧
  (∀ (s : State) (c : List Byte) (r : List (List Byte)) (k : Nat), s.live = true → s.sec.handover = none →
    s.sub.commands = c :: r → entryCode c = 0x13 → slotOfJob s (field c 8 2) = some k →
    ((s.job k).state = .ended ∨ (s.job k).state = .faulted) →
    Gives .jobUnload s fun t => t.sub.commands = r ∧ t.job k = {} ∧ (∀ i, i ≠ k → t.job i = s.job i) ∧
      ∀ i < (s.job k).image.nsLen, t.tally ((s.job k).image.nsBase + i) = ⟨0, false, false, 7⟩)

/-- Running jobs, on a device whose memories hold no error. JOB_RUN of a BOUND or PREEMPTED job starts it when none
runs, and pre-empts the one that runs when no recovery is in progress and every tile takes the request at once; while a
recovery is, or a tile holds the request off, the command waits (R99, R251, R256, R257, R260). JOB_STOP ends the
RUNNING job; a fault instruction leaves it FAULTED with the instruction's operand (R251). Afterwards at most the job
named is RUNNING. No channel holds data of the outgoing job or landed reads of the incoming one. A copy that fails as
the boards of a job are loaded ends that job in FAULTED (R230, R370). A lease that has
run out gives its tally back, counted (R248); a peer read that lands after a save is put into its shadow area, one
that the RUNNING job waits for is given up 2 ms after the resume, and a recall of credits that the peer does not answer
in 20 µs is written off (R261, R262, R264, R408). -/
def Obligations.JobsRunAndEnd : Prop :=
  (∀ (s : State) (beats : Nat) (c : List Byte) (r : List (List Byte)) (n : Nat), s.live = true →
    s.sec.handover = none → s.sub.commands = c :: r → entryCode c = 0x11 → slotOfJob s (field c 8 2) = some n →
    field c 0xA 1 ≤ 1 → ((s.job n).state = .bound ∨ (s.job n).state = .preempted) → s.ecc = [] →
    (∀ i < 4, ∀ j < 4, (s.job i).state = .running → (s.job j).state = .running → i = j) →
    (∀ k < 16, peerReads s n k = []) → (∀ k < 16, ∀ ch < 32, (s.chan k ch).held = []) →
    let takes (k : Nat) : Prop := executes s k = true ∧ heldOff (s.core k) = false ∧ (s.core k).irq &&& 3 = 0
    let stands (k : Nat) : Prop := executes s k = false ∧ tileStopped s k = true
    ((s.anyRunning = true → s.integ.recoveries = [] ∧ ∀ k < 16, takes k ∨ stands k) →
      Gives (.jobRun ⟨beats, .none⟩) s fun t => t.sub.commands = r ∧ (t.job n).state = .running ∧ t.runningSlot = some n ∧
        (∀ k, s.runningSlot = some k → (t.job k).state = .preempted) ∧
        ∀ i < 4, i ≠ n → s.runningSlot ≠ some i → t.job i = s.job i) ∧
    (s.anyRunning = false → ∀ a, Gives (.jobRun ⟨beats, .loading a⟩) s fun t => t.sub.commands = r ∧
      (t.job n).state = .faulted ∧ (t.job n).endDetail = BitVec.ofNat 32 eSlideBus ∧ t.runningSlot = none) ∧
    (s.anyRunning = true → s.integ.recoveries ≠ [] → ∀ f, exec (.jobRun ⟨beats, f⟩) s = .next s) ∧
    (s.anyRunning = true → s.integ.recoveries = [] → ∀ k < 16, executes s k = true → heldOff (s.core k) = true →
      ∀ f, Gives (.jobRun ⟨beats, f⟩) s fun t => t.sub.commands = s.sub.commands ∧ t.jobs = s.jobs ∧ t.mem = s.mem ∧
        t.core k = { s.core k with irq := (s.core k).irq ||| 4 })) ∧
  (∀ (s : State) (c : List Byte) (r : List (List Byte)) (k : Nat), s.live = true → s.sec.handover = none →
    s.sub.commands = c :: r → entryCode c = 0x12 → slotOfJob s (field c 8 2) = some k →
    (s.job k).state ∈ [JobState.running, .preempted, .bound] →
    Gives .jobStop s fun t => t.sub.commands = r ∧ (t.job k).state = .ended ∧ ∀ i, i ≠ k → t.job i = s.job i) ∧
  (∀ (s : State) (operand : DWord) (k : Nat), s.live = true → s.runningSlot = some k →
    Gives (.faultInstruction operand) s fun t => (t.job k).state = .faulted ∧
      (t.job k).endDetail = BitVec.ofNat 32 operand.toNat ∧ (∀ i, i ≠ k → t.job i = s.job i) ∧
      ∀ i < 16, (t.core i).status = .idle ∧ (t.array i).passes = []) ∧
  (∀ (s : State) (i : Fin 128) (d : Lease), s.live = true → leaseOf s i = some d → d.deadline ≤ s.counter.toNat →
    Gives (.leaseExpiry i) s fun t => leaseOf t i = none ∧ t.tally (16256 + i) = ⟨0, false, false, 4⟩ ∧
      t.reg 0x0010_4054 = BitVec.ofNat 32 (satAdd 32 (s.reg 0x0010_4054).toNat 1)) ∧
  (∀ (s : State) (t : Tile) (data : List Byte) (k : Nat) (x : PeerRead), s.live = true → s.runningSlot = none →
    s.ecc = [] → k < 4 → (∀ j < k, tget (fun _ => []) s.bridge.shadowReads (16 * j + t) = []) →
    tget (fun _ => []) s.bridge.shadowReads (16 * k + t) = [x] → x.landed = false → data.length = x.len →
    Gives (.peerReadLanded t data) s fun u => u.readBytes x.shadow x.len = data ∧
      tget (fun _ => []) u.bridge.shadowReads (16 * k + t) = [{ x with landed := true }]) ∧
  (∀ (s : State) (t : Tile) (k : Nat) (x : PeerRead), s.live = true → s.runningSlot = some k →
    tget (fun _ => []) s.bridge.shadowReads (16 * k + t) = [x] → x.landed = false →
    (s.counter.toNat < s.bridge.runSince + 2500000 → s.integ.batch = none → exec (.peerReadTimeout t) s = .next s) ∧
    (s.bridge.runSince + 2500000 ≤ s.counter.toNat →
      Gives (.peerReadTimeout t) s fun u => tget (fun _ => []) u.bridge.shadowReads (16 * k + t) = [] ∧ u.mem = s.mem)) ∧
  (∀ (s : State) (k : Fin 4), s.live = true → s.bridge.recallPending = [k.val] → s.bridge.outstanding = [] →
    s.bridge.sigQ = [] → s.bridge.txQ = [] → (∀ e, (s.chan (e / 32) (e % 32)).q = []) →
    let due := tget (fun _ => 0) s.bridge.recallSince k + 25000
    (s.counter.toNat < due → exec (.bridgeCreditRecallTimeout k) s = .next s) ∧
    (due ≤ s.counter.toNat →
      Gives (.bridgeCreditRecallTimeout k) s fun t => t.bridge.recallPending = [] ∧
        t.bridge.writtenOff = k.val :: s.bridge.writtenOff))

/-! ### Digit cores -/

/-- The arithmetic and logical instructions of the digit core: each writes sd from its operands as last written, or
from its immediate, and changes nothing else of the core than its place (Table 3.9, R77, R78). CMP sets one condition
bit to the relation of its operands; MAXX and MINX replace the running extreme and its index where sa is strictly
better, and otherwise change neither (Table 3.9, R93). -/
def Obligations.DcScalars : Prop :=
  (∀ (s : State) (t : Tile) (f : DcR) (g : DcI), DcGo s t →
    let c := s.core t
    let a := sReg c f.sa
    let b := sReg c f.sb
    let n := if f.func.getLsbD 10 then f.func.toNat % 32 else b.toNat % 32
    (f.func = 0 →
      Gives (.dcAdd t f) s (DcDone s t fun c => setS c f.sd (a + b)) ∧
      Gives (.dcSub t f) s (DcDone s t fun c => setS c f.sd (a - b)) ∧
      Gives (.dcAnd t f) s (DcDone s t fun c => setS c f.sd (a &&& b)) ∧
      Gives (.dcOr t f) s (DcDone s t fun c => setS c f.sd (a ||| b)) ∧
      Gives (.dcXor t f) s (DcDone s t fun c => setS c f.sd (a ^^^ b))) ∧
    (shiftReserved f = false →
      Gives (.dcShl t f) s (DcDone s t fun c => setS c f.sd (a <<< n)) ∧
      Gives (.dcShr t f) s (DcDone s t fun c => setS c f.sd (a >>> n)) ∧
      Gives (.dcSar t f) s (DcDone s t fun c => setS c f.sd (a.sshiftRight n))) ∧
    (f.sd = 0 → f.sa = 0 → f.sb = 0 → f.func = 0 → Gives (.dcNop t f) s (DcDone s t id)) ∧
    Gives (.dcAddi t g) s (DcDone s t fun c => setS c g.sd (sReg c g.sa + g.imm.signExtend 32)) ∧
    Gives (.dcLui t g) s (DcDone s t fun c => setS c g.sd (g.imm ++ (sReg c g.sa).extractLsb' 0 16))) ∧
  (∀ (s : State) (t : Tile) (f : DcR), DcGo s t →
    let c := s.core t
    let n := f.func.toNat % 8
    (f.sd = 0 → f.func.toNat < 48 → ∀ v, relation (f.func.toNat / 8) (sReg c f.sa) (sReg c f.sb) = some v →
      Gives (.dcCmp t f) s (DcDone s t fun c => { c with
        c := if v then c.c ||| BitVec.ofNat 8 (2 ^ n) else c.c &&& ~~~(BitVec.ofNat 8 (2 ^ n)) })) ∧
    (f.func.toNat / 2 % 32 = 0 → (f.func.getLsbD 0 = true → f.sb = 0) →
      let si : BitVec 5 := BitVec.ofNat 5 (f.func.toNat / 64)
      let ix := if f.func.getLsbD 0 then BitVec.ofNat 32 ((c.rep.map (·.iter)).getD 0) else sReg c f.sb
      let found (c : DigitCore) : DigitCore := setS (setS c f.sd (sReg c f.sa)) si ix
      sIndex c f.sd.toNat ≠ sIndex c si.toNat →
      Gives (.dcMaxx t f) s (DcDone s t fun c => if (sReg c f.sd).slt (sReg c f.sa) then found c else c) ∧
      Gives (.dcMinx t f) s (DcDone s t fun c => if (sReg c f.sa).slt (sReg c f.sd) then found c else c)))

/-- Address and memory instructions, on a device whose memories hold no error: LD and ST at pN + DISP, aligned and on
the board, with the post-modify of R79; a read sees the bytes that no
command still to be counted has written (R95). MOVP, MVFP and MOVQ (Table 3.9, R79, R80). ST stores the low bytes of its
register at that board address and nothing else changes in memory. Multiply-accumulate, on a device whose memories
hold no error: CMAC adds the complex product and RMAC the two pair sums of the words at two different address
registers, negated and saturating as the instruction says; CLRA clears an accumulator, and MOVA reads a part of one,
rounded and saturated to 32 bits (R90–R92). -/
def Obligations.DcMemoryAndAccumulators : Prop :=
  (∀ (s : State) (t : Tile) (f : DcL) (g : DcR), DcGo s t → s.ecc = [] →
    let c := s.core t
    let size := 2 ^ f.size.toNat
    let a := pattern 32 ((pReg c f.p).toNat + f.disp.toInt)
    let st := s.boardStore t a
    (∀ p', f.size ≠ 3 → accessOk a size = true →
      postModify (pReg c f.p).toNat (qReg c f.p) size f.inc.toNat = some p' →
      let post (c : DigitCore) : DigitCore := if f.inc = 0 then c else setP c f.p (BitVec.ofNat 32 p')
      Gives (.dcLd t f) s (DcDone s t fun c =>
        setS (post c) f.s (BitVec.ofInt 32 (signed (8 * size)
          (leNat ((s.readBytes st size).mapIdx fun i b => settledByte s t (a + i) b))))) ∧
      Gives (.dcSt t f) s (fun u =>
        (∃ v, DcDone s t (fun c => { post c with unseen := tclear c.unseen a (a + size) }) v ∧ u = { v with mem := u.mem }) ∧
        ∀ i, u.byte i = if st ≤ i ∧ i < st + size then (natLE size (sReg c f.s).toNat).getD (i - st) 0 else s.byte i)) ∧
    (g.sd.toNat < 8 → g.sb = 0 → g.func = 0 →
      Gives (.dcMovp t g) s (DcDone s t fun c => setP c (g.sd.extractLsb' 0 3) (sReg c g.sa))) ∧
    (g.sa.toNat < 8 → g.sb = 0 → g.func = 0 →
      Gives (.dcMvfp t g) s (DcDone s t fun c => setS c g.sd (pReg c (g.sa.extractLsb' 0 3)))) ∧
    (g.sd.toNat < 8 → g.func = 0 →
      Gives (.dcMovq t g) s (DcDone s t fun c => setQ c (g.sd.extractLsb' 0 3) (sReg c g.sb ++ sReg c g.sa)))) ∧
  (∀ (s : State) (t : Tile) (f : DcC) (g : DcR), DcGo s t → s.ecc = [] →
    let c := s.core t
    let word (p : BitVec 3) : Nat := leNat ((s.readBytes (s.boardStore t (pReg c p).toNat) 4).mapIdx fun i b =>
      settledByte s t ((pReg c p).toNat + i) b)
    (∀ p q, f.reserved = 0 → f.px ≠ f.py → accessOk (pReg c f.px).toNat 4 = true → accessOk (pReg c f.py).toNat 4 = true →
      postModify (pReg c f.px).toNat (qReg c f.px) 4 f.xinc.toNat = some p →
      postModify (pReg c f.py).toNat (qReg c f.py) 4 f.yinc.toNat = some q →
      let add (r : Int × Int) (c : DigitCore) : DigitCore :=
        let c := if f.xinc = 0 then c else setP c f.px (BitVec.ofNat 32 p)
        let c := if f.yinc = 0 then c else setP c f.py (BitVec.ofNat 32 q)
        let r := if f.neg then (-r.1, -r.2) else r
        setAcc c f.acc (accAdd (reAcc c f.acc) r.1 f.sat) (accAdd (imAcc c f.acc) r.2 f.sat)
      (f.sk = 0 → Gives (.dcCmac t f) s (DcDone s t (add (cmacSums f (word f.px) (word f.py))))) ∧
      (f.cjx = false → f.cjy = false →
        Gives (.dcRmac t f) s (DcDone s t (add (rmacSums (sReg c f.sk).toNat (word f.px) (word f.py)))))) ∧
    (g.sd.toNat < 8 → g.sa = 0 → g.sb = 0 → g.func = 0 →
      Gives (.dcClra t g) s (DcDone s t fun c => setAcc c (g.sd.extractLsb' 0 3) 0 0)) ∧
    (g.sa.toNat < 8 → g.sb = 0 → g.func.toNat < 64 →
      let part := if g.func.getLsbD 5 then imAcc c (g.sa.extractLsb' 0 3) else reAcc c (g.sa.extractLsb' 0 3)
      Gives (.dcMova t g) s (DcDone s t fun c =>
        setS c g.sd (BitVec.ofInt 32 (sat32 (roundShift part.toInt (g.func.toNat % 32) 0 0))))))

/-- Branches and repeats, issued outside a delay slot and a repeat body: a branch takes two delay slots before its
target (R86, R87), CALL pushes the address after its delay slots and RETN pops one (R86), REP starts its body at the
next instruction or skips it (R88), ROT steps the rotating base down (R78), and END leaves the core IDLE (R104). -/
def Obligations.DcControl : Prop :=
  ∀ (s : State) (t : Tile) (b : DcB) (p : DcP) (f : DcR), DcGo s t →
    let c := s.core t
    let target := c.pc + BitVec.ofInt 25 (4 * b.offset.toInt)
    let slots (d : Option (BitVec 25)) (c : DigitCore) : DigitCore := { c with delay := some ⟨d, 3⟩ }
    (c.delay = none → c.rep = none →
      Gives (.dcB t b) s (DcDone s t (slots
        (if b.always || (c.c.getLsbD b.cbit.toNat != b.neg) then some target else none))) ∧
      (b.always = true → c.stack.length < 16 →
        Gives (.dcCall t b) s (DcDone s t fun c => slots (some target) { c with stack := pcPlus c.pc 3 :: c.stack })) ∧
      (∀ a r, b.always = true → b.offset = 0 → c.stack = a :: r →
        Gives (.dcRetn t b) s (DcDone s t fun c => slots (some a) { c with stack := r })) ∧
      (p.creg = false ∨ p.count.toNat < 32 →
        let count := if p.creg then (sReg c (p.count.extractLsb' 0 5)).toNat else p.count.toNat
        let len := p.len1.toNat + 1
        Gives (.dcRep t p) s fun u =>
          (count = 0 → (u.core t).pc = pcPlus c.pc (len + 1) ∧ (u.core t).rep = none) ∧
          (count ≠ 0 → (u.core t).pc = pcPlus c.pc 1 ∧
            (u.core t).rep = some ⟨count - 1, pcPlus c.pc 1, len, 0, 0, p.rot⟩) ∧
          (u.core t).s = c.s ∧ u.mem = s.mem) ∧
      (f.sd = 0 → f.sa = 0 → f.sb = 0 → f.func = 0 →
        Gives (.dcEnd t f) s fun u => (u.core t).status = .idle ∧ (u.core t).ended = true ∧ u.rods = s.rods)) ∧
    (f.sd = 0 → f.sa = 0 → f.sb = 0 → f.func = 0 →
      Gives (.dcRot t f) s (DcDone s t fun c => { c with rrb := c.rrb - 1 }))

/-- Commands to the engines of the tile join their queues with the word formed of two registers, or wait while sixteen
are outstanding; AWAIT and RWAIT wait until at most k are, and let LD see what the completed commands wrote, a withheld
one being none (R368); MOVS takes
the oldest summary (R85, R94–R96, R211). Tally instructions on a tally of the RUNNING job's namespace that no peer
shares, outside a replay: TSIG adds, TSUB subtracts, both only when the commands issued before them have completed (R65,
R242); TRD reads the count with the core's own waiting signals, TWAIT goes on once the count has reached its threshold
and waits before; a tally outside the namespace halts the core (R97, R239, R245). TAG sets the tile's client tag and
SHED reads TCTL_SHED (R98). -/
def Obligations.DcIssues : Prop :=
  (∀ (s : State) (t : Tile) (f : DcR) (g : DcI), DcGo s t →
    let c := s.core t
    let word : DWord := sReg c f.sa ++ sReg c f.sb
    (f.sd = 0 → f.func.toNat < 2 →
      (arrayOutstanding s t < 16 → Gives (.dcAiss t f) s (DcDone s t fun c => { c with
        arrayQ := c.arrayQ ++ [⟨f.func.getLsbD 0, word, c.arrIssued, c.rodIssued⟩], arrIssued := c.arrIssued + 1 })) ∧
      (16 ≤ arrayOutstanding s t → Gives (.dcAiss t f) s (DcWaits s t 2 c.waitOn))) ∧
    (f.sd = 0 → f.func = 0 →
      (rodOutstanding s t < 16 → Gives (.dcRiss t f) s (DcDone s t fun c => { c with
        rodQ := c.rodQ ++ [⟨word, c.arrIssued⟩], rodIssued := c.rodIssued + 1 })) ∧
      (16 ≤ rodOutstanding s t → Gives (.dcRiss t f) s (DcWaits s t 3 c.waitOn)) ∧
      (c.slideQ.length < 16 → Gives (.dcSiss t f) s (DcDone s t fun c => { c with
        slideQ := c.slideQ ++ [sReg c f.sa], slideIssued := c.slideIssued + 1 })) ∧
      (16 ≤ c.slideQ.length → Gives (.dcSiss t f) s (DcWaits s t 4 c.waitOn))) ∧
    (g.sd = 0 → g.sa = 0 → g.imm.toNat ≤ 16 →
      (arrayOutstanding s t ≤ g.imm.toNat → ∃ l, Gives (.dcAwait t g) s (DcDone s t fun c => { c with unseen := l }) ∧
        (withheldOf s t = [] → l = behindLast c.unseen true) ∧
        ∀ e ∈ c.unseen, e.2 ≠ [] → e.2.countP (!·.2) ≤ (withheldOf s t).countP (drainsTo · e.1) → e ∈ l) ∧
      (g.imm.toNat < arrayOutstanding s t → Gives (.dcAwait t g) s (DcWaits s t 6 c.waitOn)) ∧
      (rodOutstanding s t ≤ g.imm.toNat → Gives (.dcRwait t g) s (DcDone s t fun c =>
        { c with unseen := behindLast c.unseen false })) ∧
      (g.imm.toNat < rodOutstanding s t → Gives (.dcRwait t g) s (DcWaits s t 6 c.waitOn))) ∧
    (f.sa = 0 → f.sb = 0 → f.func = 0 → ∀ w r, c.sumQ = w :: r →
      Gives (.dcMovs t f) s (DcDone s t fun c => setS { c with sumQ := r } f.sd w))) ∧
  (∀ (s : State) (t : Tile) (f : DcR), DcGo s t →
    let c := s.core t
    let n := (sReg c f.sa).toNat
    let a := sReg c f.sb
    let g (sub : Bool) : PendingSignal := ⟨n, a, sub, c.arrIssued, c.rodIssued, c.slideIssued⟩
    (f.sd = 0 → f.func = 0 → inNamespace s n = true → c.signals = [] → signalReady s t (g false) = true →
      (journalOf s t n).absorbAdds = 0 → (journalOf s t n).absorbSubs = 0 →
      (∀ k, s.runningSlot = some k → ∀ d, (s.job k).image.tallies[n - (s.job k).image.nsBase]? = some d → d.kind ≠ 3) →
      Gives (.dcTsig t f) s (fun u => (u.tally n).count = min 0x7FFF_FFFF ((s.tally n).count + a.toNat) ∧
        (∀ m, m ≠ n → u.tally m = s.tally m) ∧ (u.core t).s = c.s) ∧
      Gives (.dcTsub t f) s (fun u => (u.tally n).count = (s.tally n).count - a.toNat ∧
        (∀ m, m ≠ n → u.tally m = s.tally m) ∧ (u.core t).s = c.s)) ∧
    (f.sd = 0 → f.func = 0 → inNamespace s n = true → (c.signals ≠ [] ∨ signalReady s t (g false) = false) →
      (∀ x ∈ c.signals, signalReady s t x = false) →
      Gives (.dcTsig t f) s (fun u => (u.core t).signals = c.signals ++ [g false] ∧ u.tallies = s.tallies) ∧
      Gives (.dcTsub t f) s (fun u => (u.core t).signals = c.signals ++ [g true] ∧ u.tallies = s.tallies)) ∧
    (f.sd = 0 → f.func = 0 → c.rep = none → inNamespace s n = true →
      (signalsTally s t n = false → min a.toNat 0x7FFF_FFFF ≤ (s.tally n).count →
        Gives (.dcTwait t f) s (DcDone s t id)) ∧
      (signalsTally s t n = true ∨ (s.tally n).count < min a.toNat 0x7FFF_FFFF →
        Gives (.dcTwait t f) s (DcWaits s t 7 (some n)))) ∧
    (f.sb = 0 → f.func = 0 → inNamespace s n = true →
      Gives (.dcTrd t f) s (DcDone s t fun c => setS c f.sd (BitVec.ofNat 32 (countFor s t n)))) ∧
    (f.sb = 0 → f.func = 0 → inNamespace s n = false → Gives (.dcTrd t f) s (DcHalts s t eNamespace n)) ∧
    (f.sd = 0 → f.sb = 0 → f.func = 0 → Gives (.dcTag t f) s fun u =>
      u.fld (tileBase t + 0x10) 4 0 = (sReg c f.sa).toNat % 32 ∧ (u.core t).s = c.s) ∧
    (f.sa = 0 → f.sb = 0 → f.func = 0 →
      Gives (.dcShed t f) s (DcDone s t fun c => setS c f.sd ((fetched s t).reg (tileBase t + 0x14)))))

/-- An instruction with a reserved field that is not 0, a branch in a delay slot, and a branch or TWAIT in a repeat body
are illegal operations: the core halts at them, they have no effect, and ILLEGAL_OP is reported with its number (R86,
R88, R103). A memory access off the board or misaligned is one too (R80). Interrupts: the request of lowest number that
is pending takes the place of the instruction in D, outside delay slots and repeat bodies, and the core is held at it,
the checkpoint request aside, which takes its checkpoint (R99, R100); it resumes in RUN unless the host halts it (R101,
R477); a hold-off that reaches the limit is reported once (R102); ICACHE_INV empties the instruction cache (R82). -/
def Obligations.DcStops : Prop :=
  (∀ (s : State) (t : Tile) (f : DcR) (b : DcB) (l : DcL), DcGo s t →
    let c := s.core t
    (f.func ≠ 0 → ∀ i ∈ [Instr.dcAdd t f, .dcSub t f, .dcAnd t f, .dcOr t f, .dcXor t f, .dcMovp t f, .dcMvfp t f,
        .dcMovq t f, .dcClra t f, .dcNop t f, .dcRot t f, .dcRiss t f, .dcSiss t f, .dcMovs t f, .dcTsig t f,
        .dcTsub t f, .dcTwait t f, .dcTrd t f, .dcTag t f, .dcShed t f, .dcEnd t f],
      Gives i s (DcHalts s t eIllegalOp 0)) ∧
    (c.delay.isSome = true → Gives (.dcB t b) s (DcHalts s t eIllegalOp 1)) ∧
    (c.delay = none → c.rep.isSome = true → Gives (.dcB t b) s (DcHalts s t eIllegalOp 2)) ∧
    (f.sd = 0 → f.func = 0 → c.rep.isSome = true → Gives (.dcTwait t f) s (DcHalts s t eIllegalOp 2)) ∧
    (l.size ≠ 3 → accessOk (pattern 32 ((pReg c l.p).toNat + l.disp.toInt)) (2 ^ l.size.toNat) = false →
      Gives (.dcLd t l) s (DcHalts s t eIllegalOp 4) ∧ Gives (.dcSt t l) s (DcHalts s t eIllegalOp 4))) ∧
  (∀ (s : State) (t : Tile), s.live = true →
    let c := s.core t
    (∀ n, n ≤ 2 → firstIrq c = some n → (c.status = .run ∨ c.status = .stall) → c.delay = none → c.rep = none →
      Gives (.interruptTake t) s fun u => (u.core t).status = .held ∧ (u.core t).pc = c.pc ∧ (u.core t).s = c.s ∧
        (u.core t).irq = c.irq &&& ~~~(BitVec.ofNat 4 (2 ^ n))) ∧
    (c.status = .held → s.flag (dbgBase + 0xC) t = false →
      Gives (.digitCoreResume t) s fun u => u.core t = { c with status := .run, heldBy := none } ∧
        ∀ k, k ≠ t.val → u.core k = s.core k) ∧
    (∀ n, overdueRequest s t = some n → Gives (.digitHoldoffExceeded t) s fun u =>
      u = raise (s.setCore t { c with holdoffLogged := c.holdoffLogged ||| BitVec.ofNat 4 (2 ^ n) }) eHoldoff 1 t
        c.pc.toNat (holdoffOf c n)) ∧
    (∀ n < 4, c.irq = BitVec.ofNat 4 (2 ^ n) → c.holdoffLogged = 0 → (c.status = .run ∨ c.status = .stall) →
      1 ≤ s.fld (dcBase t + 0xC) 15 0 →
      overdueRequest s t = if s.fld (dcBase t + 0xC) 15 0 ≤ holdoffOf c n then some n else none) ∧
    (s.swapping t = false → Gives (.icacheInv t) s fun u => u = s.setCore t { c with icache := [] }))

/-- What the instructions that work within a digit core leave alone, whatever they meet: every other core, memory, the
engines, channels, tallies, jobs, links and time, and every unit outside the tile but the error log, the write-backs
and the taint that an error in the fetched line brings (R76, R195, R196). -/
def Obligations.DcFrame : Prop :=
  ∀ (s u : State) (t : Tile) (f : DcR) (g : DcI) (b : DcB) (p : DcP),
    ∀ i ∈ [Instr.dcNop t f, .dcAdd t f, .dcSub t f, .dcAnd t f, .dcOr t f, .dcXor t f, .dcShl t f, .dcShr t f,
      .dcSar t f, .dcAddi t g, .dcLui t g, .dcCmp t f, .dcMaxx t f, .dcMinx t f, .dcMovp t f, .dcMvfp t f,
      .dcMovq t f, .dcClra t f, .dcMova t f, .dcB t b, .dcCall t b, .dcRetn t b, .dcRep t p, .dcRot t f,
      .dcAiss t f, .dcRiss t f, .dcSiss t f, .dcAwait t g, .dcRwait t g, .dcMovs t f, .dcShed t f],
    exec i s = .next u →
      (∀ k, k ≠ t.val → u.core k = s.core k) ∧
      u = { s with
        cores := u.cores, regs := u.regs, free := u.free, writebacks := u.writebacks, carriers := u.carriers,
        sent := u.sent, integ := u.integ, dbg := u.dbg }

/-! ### Bead arrays and Quick Sum paths -/

/-- A command at the head of the array queue that may start leaves the queue. A legal pass is in flight with the
descriptor read from the board, and its step is on record; a legal MATVEC holds the path with its vector in the
buffer; one that meets a cause of Table 4.6 is a fault of its partition, and one of a stopped partition completes
without effect, whatever it would wait for (R110, R116, R120–R122, R136–R138); one whose predecessor still presents
K-steps, or that a withheld pass or a pending row map holds back, waits (R110, R133, R368). Nothing starts or drains
while the tile is stopped for a save (R126). No board holds an error, and no signal of the core waits. -/
def Obligations.ArrayAdmission : Prop :=
  (∀ (s : State) (t : Tile) (p : Fin 4) (f : CarryFault), s.live = true → rodHeld s t = true →
    ∀ i ∈ [Instr.passAdmit t, .passComplete t p f, .matvecStart t, .matvecComplete t f], exec i s = .next s) ∧
  (∀ (s : State) (t : Tile) (q : ArrayCommand) (r : List ArrayCommand), s.live = true → rodHeld s t = false →
    (s.core t).signals = [] → (s.core t).arrayQ = q :: r →
    (q.quickSum = false → arrPart q.word < partCount s t → partStopped s t (arrPart q.word) = true →
      Gives (.passAdmit t) s fun u => (u.core t).arrayQ = r ∧ u.array t = s.array t ∧ u.mem = s.mem) ∧
    (q.quickSum = true → partStopped s t 4 = true →
      Gives (.matvecStart t) s fun u => (u.core t).arrayQ = r ∧ u.array t = s.array t ∧ u.mem = s.mem)) ∧
  ∀ (s : State) (t : Tile) (q : ArrayCommand) (r : List ArrayCommand), s.live = true → s.ecc = [] → rodHeld s t = false →
    (s.core t).signals = [] → (s.core t).arrayQ = q :: r → lsAhead s t = false → depsMet s t q = true →
    let p := arrPart q.word
    let o := baBase t + 0x18
    let l := s.readBytes (s.boardStore t (arrDesc q.word)) 64
    (q.quickSum = false → p < partCount s t →
      (partStopped s t p = false → (presenting s t p).isSome = true ∨ partWithheld s t p = true ∨ mapPending s t p = true →
        exec (.passAdmit t) s = .next s) ∧
      (partStopped s t p = false → presenting s t p = none → partWithheld s t p = false → mapPending s t p = false →
        onBoard (arrDesc q.word) 64 = true →
        (passCause s t p q.word (passDesc l) = none → Gives (.passAdmit t) s fun u =>
          (u.core t).arrayQ = r ∧ (∃ x, (u.array t).passes = (s.array t).passes ++ [x] ∧ x.cmd = q ∧ x.part = p ∧
            x.desc = l ∧ x.withheld = false) ∧
          stepRecord u t p = recordAfter (stepRecord s t p) (passDesc l).step ∧ u.mem = s.mem ∧ u.regs = s.regs ∧
          ∀ k, k ≠ t.val → u.core k = s.core k ∧ u.array k = s.array k) ∧
        (∀ k, passCause s t p q.word (passDesc l) = some k → Gives (.passAdmit t) s fun u =>
          (u.core t).arrayQ = r ∧ u.array t = s.array t ∧ u.flag o p = true ∧ u.fld o (11 + 4 * p) (8 + 4 * p) = k ∧
          u.mem = s.mem))) ∧
    (q.quickSum = true →
      (partStopped s t 4 = false → qsPresenting s t = true → exec (.matvecStart t) s = .next s) ∧
      (partStopped s t 4 = false → qsPresenting s t = false → onBoard (arrDesc q.word) 64 = true →
        (qsCause q.word (qsDesc l) = none → Gives (.matvecStart t) s fun u =>
          (u.core t).arrayQ = r ∧ (∃ x, (u.array t).quickSum = (s.array t).quickSum ++ [x] ∧ x.cmd = q ∧
            x.desc = l ∧ x.withheld = false ∧
            x.vector = s.readBytes (s.boardStore t (qsDesc l).xAddr) (spanBytes (qsDesc l).optype (qsDesc l).k)) ∧
          (u.array t).passes = (s.array t).passes ∧
          (∀ j < spanBytes (qsDesc l).optype (qsDesc l).k, tget (fun _ => 0) (u.array t).qsVector j =
            s.byte (s.boardStore t (qsDesc l).xAddr + j)) ∧ u.mem = s.mem ∧ u.regs = s.regs) ∧
        (∀ k, qsCause q.word (qsDesc l) = some k → Gives (.matvecStart t) s fun u =>
          (u.core t).arrayQ = r ∧ u.array t = s.array t ∧ u.flag o 4 = true ∧ u.fld o 27 24 = k ∧ u.mem = s.mem)))

/-- A pass that completes without an error, outside lock-step: the results of Table 4.2 stand where the descriptor
says, each formed by shift, rounding and saturation from the carry and the holding-buffer entry of its position; the
entries are left as the step says; no other byte of memory, register of a rod or entry changes; the pass leaves, and
the checkers raise nothing (R107, R115–R119, R366, R367). Results that overlap one another are not claimed. A MATVEC
that completes without an error, outside lock-step: every output is the drained sum of Table 4.8, at its element of
the board or the rod registers, and nothing else in memory changes; the MATVECs behind it stay (R136, R137). No signal
of the core waits; what the core has not yet been told of is marked for it (R95). -/
def Obligations.ArrayResults : Prop :=
  (∀ (s : State) (t : Tile) (p : Fin 4) (x : PassInFlight) (i : Nat), s.live = true → s.ecc = [] → lsActive s t = false →
    (s.core t).signals = [] → rodHeld s t = false → nextPass s t p = some (x, i) → passOnBoard (passDesc x.desc) = true →
    let d := passDesc x.desc
    let h (r c : Nat) : BitVec 48 := tget (fun _ => 0) (s.array t).holding (posKey p r c)
    let out (r c : Nat) : List Byte :=
      drainBytes d.dtype (drained d.step (h r c) (carryOf s t d r c)) d.shift d.mode (passDraw s d r c)
    let at' (r c : Nat) : Nat := s.boardStore t (drainAddr d r c)
    1 ≤ d.rows → d.rows ≤ 32 → 1 ≤ d.cols → d.cols ≤ 32 → d.dtype ≤ 2 →
    Gives (.passComplete t p .none) s fun u =>
      (u.array t).passes = (s.array t).passes.take i ++ (s.array t).passes.drop (i + 1) ∧
      (∀ r < d.rows, ∀ c < d.cols, tget (fun _ => 0) (u.array t).holding (posKey p r c) =
        heldAfter d.step (h r c) (carryOf s t d r c)) ∧
      (stepWrites d.step = true → d.dRod = false → d.cols * stepParts d.step * dBytes d.dtype ≤ d.dStride →
        ∀ r < d.rows, ∀ c < d.cols, ∀ j < dBytes d.dtype, u.byte (at' r c + j) = (out r c).getD j 0) ∧
      (stepWrites d.step = true → d.dRod = true →
        ∀ r < d.rows, ∀ c < d.cols, ∀ j < dBytes d.dtype,
          regByte (u.rod t) (rodDrainPos d r c + j) = (out r c).getD j 0) ∧
      (∀ a, (stepWrites d.step = true → d.dRod = false →
        ∀ r < d.rows, ∀ c < d.cols, ∀ j < dBytes d.dtype, a ≠ at' r c + j) → u.byte a = s.byte a) ∧
      (stepWrites d.step = false ∨ d.dRod = false → u.rods = s.rods) ∧
      (∀ k, k ≠ t.val → u.array k = s.array k ∧ u.rod k = s.rod k ∧ u.core k = s.core k) ∧
      u.core t = { s.core t with unseen := (u.core t).unseen } ∧ u.tallies = s.tallies) ∧
  (∀ (s : State) (t : Tile) (x : PassInFlight) (r : List PassInFlight), s.live = true → s.ecc = [] → lsActive s t = false →
    (s.core t).signals = [] → rodHeld s t = false → (s.array t).quickSum = x :: r → x.withheld = false →
    let d := qsDesc x.desc
    qsOnBoard d = true →
    let e := dBytes d.dtype
    let out (i : Nat) : List Byte := drainBytes d.dtype (signed 32 (qsCarry s t x.vector d i)) d.shift d.mode
      (if d.mode = 2 then (draw (seedOf s) d.stream (d.drawBase + i)).toNat else 0)
    d.n ≤ (if d.dRod then 1024 else 1048575) → d.dtype ≤ 2 →
    Gives (.matvecComplete t .none) s fun u =>
      (u.array t).quickSum = r ∧ (u.array t).passes = (s.array t).passes ∧
      (∀ i < d.n, ∀ j < e, if d.dRod then regByte (u.rod t) (d.dAddr % 32 * 2048 + i * e + j) = (out i).getD j 0
        else u.byte (s.boardStore t (d.dAddr + i * e) + j) = (out i).getD j 0) ∧
      (∀ a, d.dRod = true ∨ a < s.boardStore t d.dAddr ∨ s.boardStore t d.dAddr + d.n * e ≤ a → u.byte a = s.byte a) ∧
      (∀ k, k ≠ t.val → u.array k = s.array k ∧ u.rod k = s.rod k ∧ u.core k = s.core k) ∧
      u.core t = { s.core t with unseen := (u.core t).unseen } ∧ u.tallies = s.tallies)

/-- The nines checker and the drain shadow, where IG_CTL enables them, see what nature does to one result of a pass: a
carry that changes by an amount other than 0 and 1 modulo 65,535, or bytes written that differ. The mismatch is reported
and the pass is kept, withheld; a parity error is a fault of the partition under cause 4, which a fault that stands
keeps, and the passes behind it complete without effect (R122, R366–R368). Feeder time-outs are reported once while a
freeze lasts (R125); the filler level of a partition falls by one from its 256th beat without a K-step on, one every
RAMP beats (R129); a committed row map takes effect once no pass is in flight in its half, withheld ones aside (R133,
R368); PART_MODE of an idle array takes a legal value and clears the step records, and a running one keeps it (R127,
R128); BA_FAULT bits written with 1 clear (R122). -/
def Obligations.ArrayErrors : Prop :=
  (∀ (s : State) (t : Tile) (p : Fin 4) (x : PassInFlight) (i row col : Nat) (v : Word), s.live = true → s.ecc = [] →
    rodHeld s t = false → nextPass s t p = some (x, i) →
    let d := passDesc x.desc
    let l := s.array t
    let kept (u : State) : Prop :=
      (u.array t).passes = l.passes.take i ++ [{ x with withheld := true, steps := passKb x }] ++ l.passes.drop (i + 1)
    let o := baBase t + 0x18
    (row < d.rows → col < d.cols → s.flag igBase 0 = true → 2 ≤ v.toNat % 65535 →
      Gives (.passComplete t p (.carry row col v)) s fun u => kept u ∧
        ∃ w k, u = raise w eResidue 1 t (p + x.descAddr * 256) k) ∧
    (row < d.rows → col < d.cols → s.flag igBase 0 = true → stepWrites d.step = true → v.toNat % 256 ^ dBytes d.dtype ≠ 0 →
      Gives (.passComplete t p (.drain row col v)) s fun u => kept u ∧
        ∃ w, u = raise w eResidue 1 t (p + 8 + x.descAddr * 256) 0) ∧
    Gives (.passComplete t p .parity) s fun u =>
      (u.array t).passes = l.passes.take i ++ [{ x with withheld := true, steps := passKb x }] ++
        (l.passes.drop (i + 1)).filter (·.part ≠ p.val) ∧
      u.mem = s.mem ∧ u.flag o p = true ∧
      u.fld o (11 + 4 * p.val) (8 + 4 * p.val) = if s.flag o p then s.fld o (11 + 4 * p.val) (8 + 4 * p.val) else 4) ∧
  (∀ (s : State) (t : Tile), s.live = true →
    (∀ (p : Fin 4) (n : Word), (s.array t).passes.any (·.part = p) = true → 1 ≤ s.fld (baBase t + 0x14) 15 0 →
      s.fld (baBase t + 0x14) 15 0 ≤ n.toNat → tget (fun _ => false) (s.array t).timedOut p = false →
      Gives (.baFeederTimeout t p n) s fun u =>
        (∃ w, u = raise w eFeederTimeout 1 t p n.toNat) ∧ tget (fun _ => false) (u.array t).timedOut p = true ∧
        exec (.baFeederTimeout t p n) u = .next u) ∧
    (∀ p : Fin 4, presenting s t p = none → 1 ≤ fillerLevel s t p →
      let f := fillerOf s t p
      (256 + f.falls * fillerRamp s t ≤ f.idle → Gives (.fillerRampDown t p) s fun u =>
        fillerLevel u t p = fillerLevel s t p - 1 ∧ (fillerOf u t p).falls = f.falls + 1 ∧
        (∀ k : Fin 4, k ≠ p → fillerOf u t k = fillerOf s t k) ∧ (u.array t).passes = (s.array t).passes) ∧
      (f.idle < 256 + f.falls * fillerRamp s t → exec (.fillerRampDown t p) s = .next s)) ∧
    (∀ (p : PhysTile) (lower : Bool) (v : Nat), tget (fun _ => none) s.integ.rowPending (2 * p + b2n lower) = some v →
      (∀ k, logicalOf s p = some k → (s.array k).passes.all fun x => x.withheld || !inHalf s k x.part lower) →
      Gives (.rowMapSwitch p lower) s fun u =>
        (if lower then u.fld (physBase p + 4) 13 8 = v % 64 else u.fld (physBase p + 4) 4 0 = v % 32) ∧
        tget (fun _ => none) u.integ.rowPending (2 * p + b2n lower) = none ∧ u.mem = s.mem) ∧
    (∀ (src : Writer) (v : Word), s.swapping t = false →
      (arrayIdle s t = true → bits v 1 0 ≠ 3 → Gives (.partModeWrite src t v) s fun u =>
        partMode u t = bits v 1 0 ∧ ∀ p, stepRecord u t p = 0) ∧
      (arrayIdle s t = false ∨ bits v 1 0 = 3 → Gives (.partModeWrite src t v) s fun u =>
        partMode u t = partMode s t ∧ u.arrays = s.arrays) ∧
      (Gives (.baFaultClear src t v) s fun u =>
        (∀ i < 5, u.flag (baBase t + 0x18) i = (s.flag (baBase t + 0x18) i && !bit v i)) ∧
        u.fld (baBase t + 0x18) 31 5 = s.fld (baBase t + 0x18) 31 5 ∧
        u = { s with regs := u.regs })))

/-! ### Rod engines -/

/-- Element-wise commands: integers are computed exactly and wrapped, or saturated with SAT; complex products combine
both parts; SHR rounds as RMODE says with the draw of its part; floating-point types follow the arithmetic of Number
Formats; logic, SEL and MOV copy bits (Table 6.4, R60, R143, R170). Masks and settings: comparisons write one bit for
each element taken, mask logic, MSET, BSET and DRAWSET write their register alone, NOP nothing, COUNT and ANY post
what they count (Tables 6.4 and 6.5, R162, R165, R168, R175). -/
def Obligations.RodElements : Prop :=
  (∀ (s : State) (t : Tile) (op : Nat) (c : RodCmd) (ty : Elem), RodStarts s t op c → elemOfRod c.type = some ty →
    let e := s.rod t
    let a := regPart e ty c.va
    let b := partOfB e (regByte e) c ty
    let A (k : Nat) : Int := ty.toInt (a k)
    let B (k : Nat) : Int := ty.toInt (b k)
    let lim (v : Int) : Nat := ty.ofInt (if c.sat then clampInt ty.lo ty.hi v else v)
    let writes (i : Instr) (n : Nat) (val : Nat → Nat) : Prop := op = n → Gives i s fun u =>
      RodLeaves s t [] u ∧ RodWrites e (u.rod t) c ty ty.parts (viewParts ty) val ∧ u.mem = s.mem ∧
        (u.rod t).clipacc = e.clipacc
    writes (.rodAdd ⟨t, false⟩) 0x08 (fun k => if ty.float then (fadd ty.fmt (a k) (b k)).val else lim (A k + B k)) ∧
    writes (.rodSub ⟨t, false⟩) 0x09 (fun k => if ty.float then (fsub ty.fmt (a k) (b k)).val else lim (A k - B k)) ∧
    writes (.rodMul ⟨t, false⟩) 0x0A (fun k =>
      if ty.float then (fmul ty.fmt (a k) (b k)).val
      else if ty.complex then
        let r := k / 2 * 2
        lim (if k % 2 = 0 then A r * B r - A (r + 1) * B (r + 1) else A r * B (r + 1) + A (r + 1) * B r)
      else lim (A k * B k)) ∧
    writes (.rodMin ⟨t, false⟩) 0x0B (fun k => if ty.float then (fminmax ty.fmt false (a k) (b k)).val
      else if A k ≤ B k then a k else b k) ∧
    writes (.rodMax ⟨t, false⟩) 0x0C (fun k => if ty.float then (fminmax ty.fmt true (a k) (b k)).val
      else if A k ≤ B k then b k else a k) ∧
    writes (.rodAbs ⟨t, false⟩) 0x0D (fun k => if ty.float then (fabs ty.fmt (a k)).val else ty.ofInt (A k).natAbs) ∧
    writes (.rodNeg ⟨t, false⟩) 0x0E (fun k => if ty.float then (fneg ty.fmt (a k)).val else ty.ofInt (-(A k))) ∧
    writes (.rodShr ⟨t, false⟩) 0x0F (fun k => ty.ofInt (roundShift (A k) (b k % 64) c.rmode
      (if c.rmode = 2 then (draw (seedOf s) c.stream (e.db.toNat + k / (viewCols ty * ty.parts) * e.drs.toNat
        + k % (viewCols ty * ty.parts))).toNat else 0))) ∧
    writes (.rodShl ⟨t, false⟩) 0x10 (fun k => lim (A k * (2 ^ (b k % 64) : Nat))) ∧
    writes (.rodAnd ⟨t, false⟩) 0x11 (fun k => a k &&& b k) ∧
    writes (.rodOr ⟨t, false⟩) 0x12 (fun k => a k ||| b k) ∧
    writes (.rodXor ⟨t, false⟩) 0x13 (fun k => a k ^^^ b k) ∧
    writes (.rodSel ⟨t, false⟩) 0x14 (fun k => if maskBit e c.msk (k / ty.parts) then a k else b k) ∧
    writes (.rodMov ⟨t, false⟩) 0x16 a) ∧
  (∀ (s : State) (t : Tile) (op : Nat) (c : RodCmd), RodStarts s t op c →
    let e := s.rod t
    let engine (i : Instr) (n : Nat) (e' : RodEngine) : Prop := op = n → Gives i s fun u =>
      RodLeaves s t [] u ∧ u.rod t = e' ∧ u.mem = s.mem
    let mask (i : Instr) (n : Nat) (m : BitVec 1024) : Prop := op = n → Gives i s fun u =>
      RodLeaves s t [] u ∧ u.mem = s.mem ∧ u.rod t = { e with m := (u.rod t).m } ∧ maskReg (u.rod t) c.vd = m ∧
        ∀ k < 8, k ≠ c.vd % 8 → maskReg (u.rod t) k = maskReg e k
    engine (.rodNop ⟨t, false⟩) 0x00 e ∧
    mask (.rodMand ⟨t, false⟩) 0x1A (maskReg e c.va &&& maskReg e c.vb) ∧
    mask (.rodMor ⟨t, false⟩) 0x1B (maskReg e c.va ||| maskReg e c.vb) ∧
    mask (.rodMxor ⟨t, false⟩) 0x1C (maskReg e c.va ^^^ maskReg e c.vb) ∧
    mask (.rodMnot ⟨t, false⟩) 0x1D (~~~(maskReg e c.va)) ∧
    mask (.rodMset ⟨t, false⟩) 0x1E (if c.sb.testBit 0 then BitVec.allOnes 1024 else 0) ∧
    (op = 0x05 → Gives (.rodBset ⟨t, false⟩) s fun u =>
      RodLeaves s t [] u ∧ u.rod t = { e with b := (u.rod t).b } ∧ bcastReg (u.rod t) c.vd = BitVec.ofNat 32 c.sb ∧
        ∀ k < 8, k ≠ c.vd % 8 → bcastReg (u.rod t) k = bcastReg e k) ∧
    (op = 0x06 → Gives (.rodDrawset ⟨t, false⟩) s fun u =>
      RodLeaves s t [] u ∧ u.rod t = { e with db := (u.rod t).db, drs := (u.rod t).drs } ∧
        (c.vd = 0 → (u.rod t).db.toNat = e.db.toNat / 2 ^ 32 * 2 ^ 32 + c.sb ∧ (u.rod t).drs = e.drs) ∧
        (c.vd = 1 → (u.rod t).db.toNat = c.sb * 2 ^ 32 + e.db.toNat % 2 ^ 32 ∧ (u.rod t).drs = e.drs) ∧
        (c.vd = 2 → (u.rod t).drs = BitVec.ofNat 32 c.sb ∧ (u.rod t).db = e.db)) ∧
    ∀ ty, elemOfRod c.type = some ty →
      let n := viewElems ty
      let a := regPart e ty c.va
      let b := partOfB e (regByte e) c ty
      let compared (i : Instr) (k : Nat) (rel : Nat → Bool) : Prop := op = k → Gives i s fun u =>
        RodLeaves s t [] u ∧ u.mem = s.mem ∧ u.rod t = { e with m := (u.rod t).m } ∧
          ∀ j < n, maskBit (u.rod t) c.vd j =
            if taken e c j then rel j else if c.zero then false else maskBit e c.vd j
      compared (.rodCmplt ⟨t, false⟩) 0x18 (fun j =>
        if ty.float then fless ty.fmt (a j) (b j) else decide (ty.toInt (a j) < ty.toInt (b j))) ∧
      compared (.rodCmpeq ⟨t, false⟩) 0x19 (fun j =>
        if ty.float then fequal ty.fmt (a j) (b j)
        else if ty.complex then decide (a (2 * j) = b (2 * j)) && decide (a (2 * j + 1) = b (2 * j + 1))
        else decide (a j = b j)) ∧
      let ones := (List.range n).countP fun j => maskBit e c.msk j
      (op = 0x25 → Gives (.rodCount ⟨t, false⟩) s fun u =>
        RodLeaves s t [BitVec.ofNat 32 ones] u ∧ u.rod t = e ∧ u.mem = s.mem) ∧
      (op = 0x26 → Gives (.rodAny ⟨t, false⟩) s fun u =>
        RodLeaves s t [if 0 < ones then 1 else 0] u ∧ u.rod t = e ∧ u.mem = s.mem))

/-- Loads and stores of the rod engine, on boards that hold no error: the 32 rows of LDR and STR at ADDR + r × S, int4
elements widened and saturated, masked elements left; LDM and STM move one mask; CLIPFLUSH adds CLIPACC to its counter
and clears it (R169, R181). A byte that two rows of a STR write is not claimed. Faults of the rod engine: an illegal
command, or an LDR or STR off the board, has no effect but zero summaries and leaves the engine FAULTED under its cause,
and so does a parity error, under cause 11; until FAULT is written with 1 later commands complete with zero summaries
and no effect; a command whose DEP_ARR is not met, or whose summaries do not fit, waits (R96, R166, R182, R184). -/
def Obligations.RodMovesAndFaults : Prop :=
  (∀ (s : State) (t : Tile) (op : Nat) (c : RodCmd), RodStarts s t op c → s.ecc = [] →
    let e := s.rod t
    let st (o : Nat) : Nat := s.boardStore t o
    (∀ ty, elemOfRod c.type = some ty → ldrBad e c ty = false →
      let per := viewParts ty / 32
      let S := ldrStride e c
      (op = 0x01 → Gives (.rodLdr ⟨t, false⟩) s fun u =>
        RodLeaves s t [] u ∧ u.mem = s.mem ∧ RodWrites e (u.rod t) c ty ty.parts (viewParts ty) fun k =>
          let row := ldrAddr c + k / per * S
          if ty = .int4 then
            pattern 8 (signed 4 ((s.byte (st (row + k % per / 2))).toNat / 16 ^ (k % 2)))
          else leNat (s.readBytes (st (row + k % per * partBytes ty)) (partBytes ty))) ∧
      (op = 0x02 → Gives (.rodStr ⟨t, false⟩) s fun u =>
        RodLeaves s t [] u ∧ u.rod t = e ∧
        (∀ a, (∀ r < 32, ∀ j < rowBytes ty, a ≠ st (ldrAddr c + r * S) + j) → u.byte a = s.byte a) ∧
        (rowBytes ty ≤ S → ∀ r < 32, ∀ j < rowBytes ty,
          let a := st (ldrAddr c + r * S) + j
          if ty = .int4 then
            ∀ h < 2, (u.byte a).toNat / 16 ^ h % 16 =
              if taken e c (r * per + 2 * j + h)
              then pattern 4 (clampInt (-8) 7 (signed 8 (regPart e ty c.va (r * per + 2 * j + h))))
              else (s.byte a).toNat / 16 ^ h % 16
          else u.byte a =
            if taken e c ((r * per + j / partBytes ty) / ty.parts) then regByte e (c.va * 2048 + r * 64 + j)
            else s.byte a))) ∧
    (ldrAddr c % 128 = 0 → onBoard (ldrAddr c) 128 = true →
      (op = 0x03 → Gives (.rodLdm ⟨t, false⟩) s fun u =>
        RodLeaves s t [] u ∧ u.mem = s.mem ∧ u.rod t = { e with m := (u.rod t).m } ∧
          maskReg (u.rod t) c.vd = BitVec.ofNat 1024 (leNat (s.readBytes (st (ldrAddr c)) 128)) ∧
          ∀ k < 8, k ≠ c.vd % 8 → maskReg (u.rod t) k = maskReg e k) ∧
      (op = 0x04 → Gives (.rodStm ⟨t, false⟩) s fun u =>
        RodLeaves s t [] u ∧ u.rod t = e ∧ ∀ a, u.byte a =
          if st (ldrAddr c) ≤ a ∧ a < st (ldrAddr c) + 128
          then (natLE 128 (maskReg e c.va).toNat).getD (a - st (ldrAddr c)) 0 else s.byte a)) ∧
    (op = 0x07 →
      let common := c.sb.testBit 27
      let o := if common then c.sb % 2 ^ 27 else c.sb % 2 ^ 25
      let w := if common then commonStore o else st o
      o % 4 = 0 → o + 4 ≤ (if common then commonSize else boardSize) →
      Gives (.rodClipflush ⟨t, false⟩) s fun u =>
        RodLeaves s t [] u ∧ u.rod t = { e with clipacc := 0 } ∧
        signed 32 (leNat (u.readBytes w 4)) = min 0x7FFF_FFFF (signed 32 (leNat (s.readBytes w 4)) + e.clipacc) ∧
        ∀ a, a < w ∨ w + 4 ≤ a → u.byte a = s.byte a)) ∧
  (∀ (s : State) (t : Tile) (q : RodCommand) (r : List RodCommand), s.live = true → (s.core t).rodQ = q :: r →
    let c := rodCmd q.word
    let o := rodBase t + 0xC
    let zeros : List Word := List.replicate (rodPosts c) 0
    (s.core t).signals = [] →
    let faults (i : Instr) (cause : Nat) : Prop := Gives i s fun u =>
      RodLeaves s t zeros u ∧ u.rods = s.rods ∧ u.mem = s.mem ∧
        u.reg o = BitVec.ofNat 32 (1 + cause * 2 ^ 8 + c.op * 2 ^ 16)
    let ready := rodHeld s t = false ∧ (s.core t).sumQ.length + rodPosts c ≤ 8 ∧
      (rodFaulted s t = true ∨ (c.depArr = true → arrayDoneBefore s t q.arrBefore = true))
    (ready → rodFaulted s t = false → rodBad c = true → (c.op = 0x08 ∨ rodUses c.op = none) →
      faults (.rodAdd ⟨t, false⟩) 8) ∧
    (ready → rodFaulted s t = false → rodBad c = false → ∀ ty, elemOfRod c.type = some ty →
      ldrBad (s.rod t) c ty = true →
      (c.op = 0x01 → faults (.rodLdr ⟨t, false⟩) 9) ∧ (c.op = 0x02 → faults (.rodStr ⟨t, false⟩) 9)) ∧
    (ready → rodFaulted s t = false → ∀ i ∈ [(Instr.rodNop ⟨t, true⟩, 0x00), (.rodAdd ⟨t, true⟩, 0x08), (.rodLdr ⟨t, true⟩, 0x01),
        (.rodStr ⟨t, true⟩, 0x02), (.rodArgmax ⟨t, true⟩, 0x23)], c.op = i.2 ∨ rodUses c.op = none → faults i.1 11) ∧
    (ready → rodFaulted s t = true → c.op = 0x08 → ∀ e, Gives (.rodAdd ⟨t, e⟩) s fun u =>
      RodLeaves s t zeros u ∧ u.rods = s.rods ∧ u.mem = s.mem ∧ u.reg o = s.reg o) ∧
    (¬ready → ∀ e, ∀ i ∈ [(Instr.rodNop ⟨t, e⟩, 0x00), (.rodAdd ⟨t, e⟩, 0x08), (.rodLdr ⟨t, e⟩, 0x01), (.rodStr ⟨t, e⟩, 0x02),
        (.rodArgmax ⟨t, e⟩, 0x23)], c.op = i.2 → exec i.1 s = .next s) ∧
    (∀ (src : Writer) (v : Word), s.swapping t = false → Gives (.rodFaultClear src t v) s fun u =>
      rodFaulted u t = (rodFaulted s t && !bit v 0) ∧ u = { s with regs := u.regs }))

/-- Reductions fold the taken elements of each row, column or the whole register, an integer sum without SAT being
exact modulo the type; ARGMAX and ARGMIN post the extreme and its lowest index; COMPRESS packs the elements of MSK
from the offset on and EXPAND spreads them, both advancing the offset register (R172–R178). Conversions: CVT converts
part by part with the draw of each; APPLY quantises with the codes of VB and counts the clips of elements taken in
CLIPACC; DEQUANT forms the value of each code; MEASURE leaves the extremes of each group of 32 elements (R152, R171,
R179, R180). -/
def Obligations.RodSummaries : Prop :=
  (∀ (s : State) (t : Tile) (op : Nat) (c : RodCmd) (ty : Elem), RodStarts s t op c → elemOfRod c.type = some ty →
    let e := s.rod t
    let n := viewElems ty
    let cols := viewCols ty
    let a := regPart e ty c.va
    let lanes (j : Nat) : List Nat := match c.axis with
      | 0 => (List.range 32).map fun r => r * cols + j
      | 1 => (List.range cols).map fun k => j * cols + k
      | _ => List.range n
    let outs := match c.axis with
      | 0 => cols | 1 => 32 | _ => 1
    let takenOf (j : Nat) : List Nat := (lanes j).filter fun i => taken e c i
    (∀ i ∈ [(Instr.rodRsum ⟨t, false⟩, 0x20), (.rodRmax ⟨t, false⟩, 0x21), (.rodRmin ⟨t, false⟩, 0x22)], op = i.2 → Gives i.1 s fun u =>
      (∃ sums, RodLeaves s t sums u ∧ (sums = [] ↔ ¬(c.post = true ∧ c.axis = 2)) ∧
        (∀ w ∈ sums, w = summaryOf ty (reduce e (regByte e) c ty (lanes 0)).val)) ∧
      u.mem = s.mem ∧ u.rod t = { e with v := (u.rod t).v } ∧
      ∀ j < outs,
        let x := regPart (u.rod t) ty c.vd j
        x = (reduce e (regByte e) c ty (lanes j)).val % 2 ^ (8 * partBytes ty) ∧
        (ty.float = false → c.sat = false → op = 0x20 →
          x = ty.ofInt ((takenOf j).foldl (fun v i => v + ty.toInt (a i)) 0)) ∧
        (ty.float = false → op = 0x21 → (takenOf j ≠ [] → ∃ i ∈ takenOf j, x = a i) ∧
          ∀ i ∈ takenOf j, ty.toInt (a i) ≤ ty.toInt x) ∧
        (ty.float = false → op = 0x22 → (takenOf j ≠ [] → ∃ i ∈ takenOf j, x = a i) ∧
          ∀ i ∈ takenOf j, ty.toInt x ≤ ty.toInt (a i))) ∧
    (∀ i ∈ [(Instr.rodArgmax ⟨t, false⟩, 0x23), (.rodArgmin ⟨t, false⟩, 0x24)], op = i.2 → Gives i.1 s fun u =>
      let key (k : Nat) : Int :=
        (if op = 0x23 then 1 else -1) * (if ty.float then fkey ty.fmt (a k) else ty.toInt (a k))
      let counted (k : Nat) : Prop :=
        k < n ∧ taken e c k = true ∧ (ty.float = true → (fdecode ty.fmt (a k)).isNan = false)
      u.mem = s.mem ∧ u.rod t = e ∧
      ((∀ k, ¬counted k) → RodLeaves s t [summaryOf ty (identity op ty), 0xFFFF_FFFF] u) ∧
      (∀ k, counted k → (∀ j, counted j → key j ≤ key k ∧ (j < k → key j < key k)) →
        RodLeaves s t [summaryOf ty (a k), BitVec.ofNat 32 k] u)) ∧
    (∀ i ∈ [(Instr.rodCompress ⟨t, false⟩, 0x28), (.rodExpand ⟨t, false⟩, 0x29)], op = i.2 →
      let o := (bcastReg e c.vb).toNat
      let els := (List.range n).filter fun j => maskBit e c.msk j
      o < n → Gives i.1 s fun u =>
        RodLeaves s t (if c.post then [BitVec.ofNat 32 els.length] else []) u ∧ u.mem = s.mem ∧
        u.rod t = { e with v := (u.rod t).v, b := (u.rod t).b } ∧
        bcastReg (u.rod t) c.vb = BitVec.ofNat 32 (o + els.length) ∧
        (∀ k < 8, k ≠ c.vb % 8 → bcastReg (u.rod t) k = bcastReg e k) ∧
        ∀ j x, els[j]? = some x → ∀ p < ty.parts,
          if op = 0x28 then regPart (u.rod t) ty c.vd ((o + j) * ty.parts + p) = regPart e ty c.va (x * ty.parts + p)
          else regPart (u.rod t) ty c.vd (x * ty.parts + p) = regPart e ty c.va ((o + j) * ty.parts + p))) ∧
  (∀ (s : State) (t : Tile) (op : Nat) (c : RodCmd) (ty dt : Elem), RodStarts s t op c → elemOfRod c.type = some ty →
    elemOfRod c.dtype = some dt →
    let e := s.rod t
    let a := regPart e ty c.va
    let n := viewParts ty
    let per := if ty.complex || dt.complex then 2 else 1
    let grp := if dt.complex then 2 else 1
    let u' (k : Nat) : Nat := if c.rmode = 2 then
        (draw (seedOf s) c.stream (e.db.toNat + k / (n / 32) * e.drs.toNat + k % (n / 32))).toNat
      else 0
    let code (k : Nat) : Nat := (regByte e (c.vb * 2048 + k / 32)).toNat
    let step := (bcastReg e 6).toNat
    let zero := signed 16 (bcastReg e 7).toNat
    let one (k : Nat) : Int × Bool :=
      applyPart ty dt (a k) (code (k / grp)) step zero c.rmode (u' k) (Config.freeWord (s.free + k)).toNat
    (op = 0x15 → c.zero = false → Gives (.rodCvt ⟨t, false⟩) s fun u =>
      RodLeaves s t [] u ∧ u.mem = s.mem ∧ (u.rod t).clipacc = e.clipacc ∧
        RodWrites e (u.rod t) c dt per n fun k => (convertPart ty dt (a k) c.rmode (u' k)).val) ∧
    (op = 0x31 → c.zero = false → Gives (.rodApply ⟨t, false⟩) s fun u =>
      RodLeaves s t [] u ∧ u.mem = s.mem ∧
        (u.rod t).clipacc = min 0x7FFF_FFFF
          (e.clipacc + (List.range n).countP fun k => taken e c (k / grp) && (one k).2) ∧
        RodWrites e (u.rod t) c dt per n fun k => (regElem dt).ofInt (one k).1) ∧
    (op = 0x32 → c.zero = false → Gives (.rodDequant ⟨t, false⟩) s fun u =>
      RodLeaves s t [] u ∧ u.mem = s.mem ∧ (u.rod t).clipacc = e.clipacc ∧
        RodWrites e (u.rod t) c dt per n fun k =>
          (dequantPart (regElem ty) dt (a k) (code (k / (if ty.complex then 2 else 1))) step zero).val) ∧
    (∀ i ∈ [(Instr.rodCvt ⟨t, false⟩, 0x15), (.rodApply ⟨t, false⟩, 0x31), (.rodDequant ⟨t, false⟩, 0x32)], op = i.2 → c.zero = true →
      Gives i.1 s fun u => RodLeaves s t [] u ∧ u.mem = s.mem ∧
        ∀ k < n, taken e c (k / per) = false → regPart (u.rod t) dt c.vd k = 0) ∧
    (op = 0x30 → Gives (.rodMeasure ⟨t, false⟩) s fun u =>
      RodLeaves s t [] u ∧ u.mem = s.mem ∧ u.rod t = { e with v := (u.rod t).v } ∧
        ∀ g < viewElems ty / 32,
          let m := measureGroup e (regByte e) c ty g
          regPart (u.rod t) .int32 c.vd (2 * g) = m.1 % 2 ^ 32 ∧
          regPart (u.rod t) .int32 c.vd (2 * g + 1) = m.2 % 2 ^ 32))

/-! ### Boards and HBM -/

/-- Scrubbers, on boards and HBM that hold no error: each read moves its scrubber to the next unit, the last one
wrapping; a word found with a single-bit error is queued for write-back as it stands, one found uncorrectable stays so,
and no other byte changes. The write-back stores its word and makes it good (R195–R197, R200, R202). Refresh changes
nothing that it holds (R203). A retraining window opens for the next pseudo-channel in turn; the third failure in a row
sets its bit of HBM_TRAIN_FAIL and reports it, and a success clears the count (R204). An extra retraining of a flagged
pseudo-channel clears the bit, or reports a fatal failure (R381). -/
def Obligations.MemoryUpkeep : Prop :=
  (∀ (s : State) (t : Tile) (pc : Fin 32), s.live = true → s.ecc = [] →
    let scrubs (i : Upset → Instr) (b a words n : Nat) : Prop :=
      let moved (u : State) : Prop := scrubPos u b = (scrubPos s b + 1) % n ∧ ∀ k, k ≠ b → scrubPos u k = scrubPos s k
      (Gives (i .none) s fun u => moved u ∧ u = { s with scrub := u.scrub }) ∧
      ∀ k < words, let w := a / 8 + k
        (Gives (i (.single k)) s fun u => moved u ∧ u.mem = s.mem ∧ u.ecc = [(w, 1)] ∧
          u.writebacks = if s.writebacks.any (·.1 = w) then s.writebacks
            else s.writebacks ++ [(w, s.readBytes (8 * w) 8)]) ∧
        (Gives (i (.double k)) s fun u => moved u ∧ u.ecc = [(w, 2)] ∧ u.writebacks = s.writebacks ∧
          ∀ x, x / 8 ≠ w → u.byte x = s.byte x)
    (s.flag (brdBase t) 0 = true → scrubs (.boardScrubRead (.tile t)) (s.physOf t)
      (s.boardStore t 0 + 128 * (scrubPos s (s.physOf t) % 147456)) 16 147456) ∧
    (∀ p, s.spare = some p → scrubs (.boardScrubRead .spare) p (physStore p 0 + 128 * (scrubPos s p % 147456)) 16 147456) ∧
    (s.flag cbBase 0 = true → scrubs (.boardScrubRead .common) 17
      (commonStore 0 + 128 * (scrubPos s 17 % 786432)) 16 786432) ∧
    (s.flag hbmBase 0 = true → scrubs (.hbmScrubRead pc) (18 + pc)
      (hbmAddr pc (64 * (scrubPos s (18 + pc) % 0xC0_0000))) 8 0xC0_0000)) ∧
  (∀ (s : State) (w : Nat) (l : List Byte) (r : List (Nat × List Byte)), s.live = true → s.writebacks = (w, l) :: r →
    l.length = 8 →
    Gives .boardEccWriteback s fun u => u.writebacks = r ∧ u.eccOf w = 0 ∧ (∀ k, k ≠ w → u.eccOf k = s.eccOf k) ∧
      (∀ a, u.byte a = if a / 8 = w then l.getD (a % 8) 0 else s.byte a) ∧
      u = { s with mem := u.mem, ecc := u.ecc, writebacks := u.writebacks }) ∧
  (∀ (s : State) (p : Fin 32) (bank : Fin 48), s.live = true →
    let fails (u : State) (k : Nat) : Nat := tget (fun _ => 0) u.integ.trainFails k
    exec (.hbmRefresh p bank) s = .next s ∧
    (s.fld hbmBase 23 16 ≠ 0 → ∀ ok, Gives (.hbmRetrainWindow ok) s fun u =>
      let k := s.integ.trainNext % 32
      u.fld (hbmBase + 4) 7 3 = k ∧ u.flag (hbmBase + 4) 2 = true ∧ u.integ.trainNext = (k + 1) % 32 ∧
      fails u k = (if ok then 0 else fails s k + 1) ∧
      u.flag (hbmBase + 0x1C) k = (s.flag (hbmBase + 0x1C) k || (!ok && decide (2 ≤ fails s k))) ∧ u.mem = s.mem) ∧
    (s.fld hbmBase 23 16 = 0 → ∀ ok, exec (.hbmRetrainWindow ok) s = .next s) ∧
    (s.flag (hbmBase + 0x1C) p = false → ∀ ok, exec (.hbmExtraRetrain p ok) s = .next s) ∧
    (s.flag (hbmBase + 0x1C) p = true →
      (Gives (.hbmExtraRetrain p true) s fun u => u.flag (hbmBase + 0x1C) p = false ∧ fails u p = 0 ∧
        ∀ k < 32, k ≠ p.val → u.flag (hbmBase + 0x1C) k = s.flag (hbmBase + 0x1C) k) ∧
      (Gives (.hbmExtraRetrain p false) s fun u => u = raise s eHbmUncorr 4 p 0 (2 ^ 31))))

/-! ### Slide engines -/

/-- SLIDE_SUBMIT takes an address from Ledger alone (R209). A COPY or STREAM at the head of a source joins its
channel, which turns to it when IDLE; an invalid one halts the channel under cause 1; a full channel, or a CANCEL at
the head, leaves it where it is, and a channel that is not enabled drops it with an error (R210, R211, R215, R216,
R220, R232, R245). A CANCEL at the head of a source takes its descriptors, those of its channels whose CTALLY is its
own, out of their channels and leaves the others, and the channels it touches are CANCELLING; where it selects no
descriptor that has begun, no memory changes. When the peer has acknowledged what they wrote there, it is done: its
KTALLY gains 1, the cancelled channels go on or turn to what is left, and the count is reported (R216, R233–R237). No
signal of a core waits for the cancel. -/
def Obligations.SlideQueues : Prop :=
  (∀ (s : State) (e : Fin 4) (a : Word), s.live = true →
    (Gives (.slideSubmit .ledger e a) s fun u => source u (16 + e) = source s (16 + e) ++ [a] ∧ u.mem = s.mem ∧
      ∀ k, k ≠ 16 + e.val → u.engine k = s.engine k) ∧
    exec (.slideSubmit .pcie e a) s = .next s) ∧
  (∀ (s : State) (e : EngineNo) (a : Word) (r : List Word), s.live = true → s.ecc = [] → source s e = a :: r →
    let l := headBytes s e a
    let d := headDesc s e a
    let c := s.chan e d.channel
    let ok := slideFieldsOk l d && (slideOutside s e d).isNone && (chPriv s e d.channel || !slidePrivileged c d)
    descAddrOk e d = true →
    (d.cancel = true → exec (.slideDescriptorAccept e) s = .next s) ∧
    (d.cancel = false → chEnabled s e d.channel = true →
      (channelLimit e ≤ c.q.length → exec (.slideDescriptorAccept e) s = .next s) ∧
      (c.q.length < channelLimit e → Gives (.slideDescriptorAccept e) s fun u =>
        let v := u.chan e d.channel
        source u e = r ∧ v.q = c.q ++ [{ d with bad := !ok }] ∧ u.mem = s.mem ∧
        (c.status = .idle → c.q = [] → ok = true → v.status = .active ∧ v.pos = 0) ∧
        (c.status = .idle → c.q = [] → ok = false →
          v.status = .halted ∧ v.haltCause = 1 ∧ u.flag (chBase e d.channel + 8) 4 = true) ∧
        (c.status ≠ .idle → v = { c with q := v.q }) ∧ ∀ k < 32, k ≠ d.channel → u.chan e k = s.chan e k)) ∧
    (d.cancel = false → chEnabled s e d.channel = false → Gives (.slideDescriptorAccept e) s fun u =>
      source u e = r ∧ u.channels = s.channels ∧ u.mem = s.mem ∧
        ∃ w x y, u = raise w eSlideBus 3 e x y)) ∧
  (∀ (s : State) (e : EngineNo) (a : Word) (r : List Word), s.live = true → s.ecc = [] → source s e = a :: r →
    let l := headBytes s e a
    let x := headDesc s e a
    descAddrOk e x = true → x.cancel = true → slideFieldsOk l x = true → chEnabled s e x.channel = true →
    slideOutside s e x = none →
    Gives (.slideCancel e) s fun u =>
      source u e = r ∧ u.tallies = s.tallies ∧
      (∀ ch < 32, (u.chan e ch).q = (s.chan e ch).q.filter fun d => !(x.chmask.testBit ch && d.ctally = x.ctally)) ∧
      (∀ ch < 32, x.chmask.testBit ch = false → u.chan e ch = s.chan e ch) ∧
      (∀ ch < 32, ∀ d q, (s.chan e ch).q = d :: q → x.chmask.testBit ch = true → d.ctally = x.ctally →
        (u.chan e ch).status = .cancelling) ∧
      (∀ ch < 32, (∃ d ∈ (s.chan e ch).q, selects x ch d = true) → (s.chan e ch).status = .active →
        (u.chan e ch).status = .cancelling) ∧
      (∃ k, (u.engine e).cancels = (s.engine e).cancels ++ [k] ∧ k.desc = x ∧
        k.count = ((List.range 32).map fun ch => ((s.chan e ch).q.filter (selects x ch)).length).sum) ∧
      ((∀ ch < 32, ∀ d q, (s.chan e ch).q = d :: q → selects x ch d = false) → u.mem = s.mem)) ∧
  (∀ (s : State) (e : EngineNo) (x : CancelInFlight) (r : List CancelInFlight), s.live = true →
    (s.engine e).cancels = x :: r →
    (cancelWaits s e x.desc = true → exec (.slideCancelDone e) s = .next s) ∧
    (cancelWaits s e x.desc = false → x.credits = [] → NoSignals s e →
    Gives (.slideCancelDone e) s fun u =>
      (u.engine e).cancels = r ∧ u.mem = s.mem ∧
      (x.desc.noKtally = false → PlainTally s e x.desc.ktally →
        (u.tally x.desc.ktally).count = min 0x7FFF_FFFF ((s.tally x.desc.ktally).count + 1)) ∧
      (∀ m, x.desc.noKtally = true ∨ m ≠ x.desc.ktally → u.tally m = s.tally m) ∧
      (∀ ch < 32, (x.desc.chmask.testBit ch = false ∨ (s.chan e ch).status ≠ .cancelling) →
        u.chan e ch = s.chan e ch) ∧
      (∀ ch < 32, x.desc.chmask.testBit ch = true → (s.chan e ch).status = .cancelling →
        let c := s.chan e ch
        (c.resumes = true → u.chan e ch = { c with status := .active, resumes := false }) ∧
        (c.resumes = false → c.q = [] → (u.chan e ch).status = .idle))))

/-- A COPY from memory to memory, of bytes that lie apart, on memories that hold no error: where a buffer block is free,
a second one for a copy that goes on in the next block, and the bucket has its tokens, every byte arrives, no other byte
of memory changes, the descriptor leaves its channel and CTALLY gains 1 (R212, R214, R218, R219, R223, R239). A channel
that is not ACTIVE, or is HELD for a save, moves nothing (R216, R238). Channels: buckets refill up to their depth, and
with RATE 0 are full (R223); a failed access is issued again, or halts the channel once the retries are used up, and an
access that fails for the first time waits for its retry or, with RETRY_LIMIT 0, halts the channel, and a parity error
of its buffer halts it at once (R231, R232); clearing HALT resumes the channel with its buffer as it was, without the
invalid descriptor it may have halted on (R232); a channel takes its configuration while idle, PRIV from Ledger alone,
and stays disabled when the reserves would pass 128 (R217, R220). -/
def Obligations.SlideTransfers : Prop :=
  (∀ (s : State) (e : EngineNo) (ch : ChannelNo) (d : SlideDesc) (r : List SlideDesc), s.live = true → s.ecc = [] →
    (s.chan e ch).q = d :: r → d.stream = false →
    let c := s.chan e ch
    let n := slideTotal d
    let lo := c.pos
    (chActive s e ch = false → exec (.slideCopyComplete e ch) s = .next s) ∧
    (chActive s e ch = true → c.failed = none → shadowPending s e ch = false → NoSignals s e → Settled c → c.taken = c.pos / 512 →
    NoPeer s e ch → blockFree s e ch = true →
    ((n - 1) / 512 = lo / 512 ∨ blockFree (s.setChan e ch { c with taken := c.taken + 1 }) e ch = true) → TokensFor s e ch (n - lo) → lo < n → Apart s d 0 lo n → Open s d 0 lo n →
    Gives (.slideCopyComplete e ch) s fun u =>
      Moved s u d 0 lo n ∧ (u.chan e ch).q = r ∧ (u.chan e ch).pos = 0 ∧ (r = [] → (u.chan e ch).status = .idle) ∧
      (∀ m, d.noCtally = true ∨ m ≠ d.ctally → u.tally m = s.tally m) ∧
      (d.noCtally = false → PlainTally s e d.ctally →
        (u.tally d.ctally).count = min 0x7FFF_FFFF ((s.tally d.ctally).count + 1)) ∧
      ∀ k m, ¬(k = e.val ∧ m = ch.val) → m < 32 → u.chan k m = s.chan k m)) ∧
  (∀ (s : State) (e : EngineNo) (ch : ChannelNo), s.live = true →
    let c := s.chan e ch
    let b := chBase e ch
    (Gives .tokenBucketRefill s fun u => u = { s with channels := u.channels } ∧
      ∀ k < 20, ∀ m < 32, let x := s.chan k m
        let rate := s.fld (chBase k m + 4) 15 0
        u.chan k m = { x with
          tokens := if rate = 0 then none else some (min (burstBytes s k m) (tokenLevel s k m + rate)) }) ∧
    (c.status ≠ .active → ∀ x, exec (.slideRetry e ch x) s = .next s) ∧
    (c.status = .active → Gives (.slideRetry e ch .parity) s fun u =>
      let v := u.chan e ch
      u.mem = s.mem ∧ v.q = c.q ∧ v.held = c.held ∧ v.status = .halted ∧ v.haltCause = 2 ∧ u.flag (b + 8) 4 = true) ∧
    (∀ d r, c.status = .active → c.failed = none → c.q = d :: r → exec (.slideRetry e ch .ok) s = .next s ∧
      Gives (.slideRetry e ch .failed) s fun u =>
        let v := u.chan e ch
        u.mem = s.mem ∧ v.q = c.q ∧ v.held = c.held ∧
        (s.fld (slideBase e) 3 0 = 0 → v.status = .halted ∧ v.haltCause = 0 ∧ v.invalid = false) ∧
        (s.fld (slideBase e) 3 0 ≠ 0 → v.status = .active ∧ v.failed = some (nextAccess s e ch d, 0))) ∧
    (∀ a n, c.status = .active → c.failed = some (a, n) → c.q ≠ [] → ∀ x, x ≠ .parity → Gives (.slideRetry e ch x) s fun u =>
      let v := u.chan e ch
      let ok := x = .ok
      u.mem = s.mem ∧ v.q = c.q ∧
      (ok ∧ accessFails s a = false → v.status = .active ∧ v.failed = none) ∧
      (¬(ok ∧ accessFails s a = false) → s.fld (slideBase e) 3 0 ≤ n + 1 →
        v.status = .halted ∧ v.haltCause = 0 ∧ u.reg64 (b + 0xC) = a % 2 ^ 64 ∧ u.flag (b + 8) 4 = true) ∧
      (¬(ok ∧ accessFails s a = false) → n + 1 < s.fld (slideBase e) 3 0 →
        v.status = .active ∧ v.failed = some (a, n + 1))) ∧
    (e.val < 16 → s.swapping e = false) →
    (∀ src, c.status = .halted → Gives (.slideHaltClear src e ch) s fun u =>
      let v := u.chan e ch
      (c.invalid = false → v = { c with status := if c.q.isEmpty then .idle else .active, failed := none } ∧
        u.flag (b + 8) 4 = false ∧ u.mem = s.mem) ∧
      (c.invalid = true → v.q = c.q.drop 1 ∧ (c.q.length ≤ 1 → v.status = .idle ∧ u.flag (b + 8) 4 = false))) ∧
    (∀ src v, let total := (List.range 32).foldl (fun n k => n +
          if k = ch.val then bits v 15 8 else if chEnabled s e k then chRes s e k else 0) 0
      (channelIdle s e ch = true → Gives (.slideChannelEnable src e ch v) s fun u =>
        u.fld b 15 8 = bits v 15 8 ∧ u.fld b 23 16 = bits v 23 16 ∧
        u.flag b 30 = (if src = .ledger then bit v 30 else s.flag b 30) ∧
        u.flag b 31 = decide (total ≤ 128) ∧ (128 < total → u.flag (b + 8) 5 = true) ∧ u.channels = s.channels) ∧
      (channelIdle s e ch = false → Gives (.slideChannelEnable src e ch v) s fun u =>
        u.reg b = s.reg b ∧ u.channels = s.channels)))

/-- A STREAM: where its next block lacks a credit and a buffer block is free, CREDIT_TAKE takes one of each, or waits on
the tally; otherwise it does nothing. A block that has its credit and its buffer block and may move goes to its ring
place, CTALLY gains 1, and the ring position advances; the last block ends the descriptor (R219, R221, R222, R227).
The backstop of R225: where its detector fires, the channel above its reserve of the highest PRIO number moves the
blocks above its reserve whose data has been read, in order, to free slots of its spill area, which stand apart, and
the stall is reported; without such a channel the firing is counted alone, and where the detector does not fire nothing
happens (R225, R226). -/
def Obligations.SlideStreamFlow : Prop :=
  (∀ (s : State) (e : EngineNo) (ch : ChannelNo) (d : SlideDesc) (r : List SlideDesc), s.live = true → s.ecc = [] →
    (s.chan e ch).q = d :: r → chActive s e ch = true → d.stream = true →
    let c := s.chan e ch
    let ring := ringPos s e ch % max 1 d.ringLen
    (lacksCredit s e ch d = false ∨ blockFree s e ch = false → exec (.creditTake e ch) s = .next s) ∧
    (lacksCredit s e ch d = true → blockFree s e ch = true →
      (slideTakes s e d.ktally = true → Gives (.creditTake e ch) s fun u =>
        u.chan e ch = { c with creditsTaken := c.creditsTaken + 1, taken := c.taken + 1, waitOn := none } ∧
        (16 ≤ e.val → (u.tally d.ktally).count + 1 = (s.tally d.ktally).count) ∧
        (∀ m, m ≠ d.ktally → u.tally m = s.tally m) ∧ u.mem = s.mem) ∧
      (slideTakes s e d.ktally = false → Gives (.creditTake e ch) s fun u =>
        u = s.setChan e ch { c with waitOn := some d.ktally })) ∧
    (c.failed = none → shadowPending s e ch = false → NoSignals s e → Settled c → NoPeer s e ch →
      c.taken = c.pos / 512 + 1 ∨ c.taken = c.pos / 512 ∧ creditHere s e ch d = true ∧ blockFree s e ch = true →
      TokensFor s e ch 512 → c.pos % 512 = 0 → c.pos + 512 ≤ slideTotal d → Apart s d ring c.pos (c.pos + 512) →
      Open s d ring c.pos (c.pos + 512) →
      Gives (.streamBlockWritten e ch) s fun u =>
        Moved s u d ring c.pos (c.pos + 512) ∧
        (c.pos + 512 < slideTotal d → let v := u.chan e ch
          v.q = d :: r ∧ v.pos = c.pos + 512 ∧ v.creditsTaken = c.creditsTaken - 1 ∧ Settled v ∧
            heldBlocks v = c.dropBlocks ∧ ringPos u e ch = (ring + 1) % max 1 d.ringLen) ∧
        (c.pos + 512 = slideTotal d → (u.chan e ch).q = r) ∧
        (∀ m, d.noCtally = true ∨ m ≠ d.ctally → u.tally m = s.tally m) ∧
        (d.noCtally = false → PlainTally s e d.ctally →
          (u.tally d.ctally).count = min 0x7FFF_FFFF ((s.tally d.ctally).count + 1)))) ∧
  (∀ (s : State) (e : EngineNo), s.live = true →
    (detectorFires s e = false → exec (.slideCreditStall e) s = .next s) ∧
    (detectorFires s e = true → spillChoice s e = none → Gives (.slideCreditStall e) s fun u =>
      u.channels = s.channels ∧ u.mem = s.mem ∧ (u.engine e).quiet = 0)) ∧
  (∀ (s : State) (e : EngineNo) (ch : Nat) (d : SlideDesc) (r : List SlideDesc), s.live = true → s.ecc = [] →
    detectorFires s e = true → spillChoice s e = some ch → accessFails s (spillAddr s e 0) = false →
    (s.chan e ch).q = d :: r →
    let c := s.chan e ch
    let x := spillable s e ch
    let slots := (freeSlots s e).take x.2
    let off := x.1 * 512 - c.pos
    (slots = [] → Gives (.slideCreditStall e) s fun u =>
      u.channels = s.channels ∧ u.mem = s.mem ∧ ∃ w, u = raise w eCreditStall 3 e ch 0) ∧
    (slots ≠ [] →
      (∀ k ∈ slots, ∀ m ∈ slots, ∀ a b, spillStore s e k = some a → spillStore s e m = some b →
        k = m ∨ a + 512 ≤ b ∨ b + 512 ≤ a) →
      Gives (.slideCreditStall e) s fun u =>
      u.chan e ch = { c with
        held := c.held.take off, slots := slots, tail := c.held.drop (off + 512 * slots.length) } ∧
      (∀ k < 32, k ≠ ch → u.chan e k = s.chan e k) ∧
      (∃ w, u = raise w eCreditStall 3 e ch slots.length) ∧
      (∀ i k a, slots[i]? = some k → spillStore s e k = some a → ∀ j < 512, off + 512 * i + j < c.held.length →
        u.byte (a + j) = c.held.getD (off + 512 * i + j) 0) ∧
      ∀ b, (∀ k ∈ slots, ∀ a, spillStore s e k = some a → b < a ∨ a + 512 ≤ b) → u.byte b = s.byte b))

/-! ### Radio access -/

/-- CC_CTRL: enabling an idle context takes its fields and, where R278 finds no cause against it, sets ENABLE and
starts the context; otherwise ENABLE stays 0 and CC_STATUS shows the cause. Disabling clears ENABLE, leaves what is in
progress, and in a live context no other field changes (R14, R277, R278, R307). A TYPE of LINK that would make a ninth
LINK context is refused by every write (R277; that it is shown under cause 3 is the model's choice, log entry 90). -/
def Obligations.CarrierControl : Prop :=
  ∀ (s : State) (src : Writer) (c : Carrier) (v : Word), s.live = true →
    let o := carrierBase c
    let ninth := bit v 30 && !bit (s.reg o) 30 && 8 ≤ linkContexts s && !s.ccLive c
    let kept (u : State) : Prop := ∀ k, u.carrier k = { s.carrier k with signalled := (u.carrier k).signalled }
    (ninth = true → Gives (.ccEnable src c v) s fun u => u.ccLink c = false ∧ u.ccEnabled c = s.ccEnabled c ∧
      u.flag (o + 4) 1 = true ∧ u.fld (o + 4) 11 8 = 3 ∧ kept u ∧ u.links = s.links ∧ u.mem = s.mem) ∧
    (s.ccLive c = false → ninth = false →
      let w := blend (mask 30 2) (s.reg o) v
      let s' := s.setReg o w
      let cause := if bit v 30 then linkCause s' c else accessCause s' c
      Gives (.ccEnable src c v) s fun u =>
        (∀ i, 2 ≤ i → i ≤ 30 → bit (u.reg o) i = bit v i) ∧
        (cause = 0 → u.ccEnabled c = true ∧
          (bit v 30 = false → u.carrier c = { s.carrier c with prach := 0, signalled := (u.carrier c).signalled } ∧
            u.mem = s.mem) ∧
          (bit v 30 = true → u.link c = {
            rxTables := defaultTable, txTables := defaultTable, done := (u.ccSlot c).toNat * frameLen u c })) ∧
        (cause ≠ 0 → u.ccEnabled c = false ∧ u.flag (o + 4) 1 = true ∧ u.fld (o + 4) 11 8 = cause ∧
          kept u ∧ u.links = s.links ∧ u.mem = s.mem)) ∧
    Gives (.ccDisable src c v) s fun u =>
      u.ccEnabled c = false ∧ kept u ∧ u.links = s.links ∧ u.mem = s.mem ∧
      ∀ i, 2 ≤ i → i ≤ 30 → bit (u.reg o) i =
        if s.ccLive c then bit (s.reg o) i else bit v i && !(ninth && decide (i = 30))

/-- A frame that R271 does not accept is dropped and counted. The PRBs of an accepted section of a scheduled symbol
are decompressed into region 0, and the symbol's tally is signalled when its last PRB has come (R22, R271–R274, R281,
R282). When its window closes first, the PRBs that did not come are written as zeros, the loss is counted and the
tally is signalled; a symbol that no plan schedules is signalled alone (R23, R282). -/
def Obligations.FronthaulReception : Prop :=
  (∀ (s : State) (l : Fin 8) (f : EthFrame), s.live = true → linkExists s l = true → s.portDown (fhPort l) = false →
    (frameOk s l f = false → s.integ.batch = none → Gives (.ethernetFrameRx l f) s fun u =>
      u = s.setReg (fhBase l + 0x10) (BitVec.ofNat 32 (satAdd 32 (s.reg (fhBase l + 0x10)).toNat 1))) ∧
    (∀ m frame sub slot k x c n, frameOk s l f = true → f.body = .ecpri m → ecpriOk m = true →
      m.payload = .oran frame sub slot k [x] → eaxcCarrier s l m.eaxc false = some c → s.ecc = [] →
      (∀ y < 24, ccLinkNo s y = l.val → (s.proof y).running = none) →
      let a := m.eaxc.toNat % 32
      let np := sectionPrbs s c x
      let place (i : Nat) : Nat := symbolAt s c 0 (ccUl s c) n k a + 48 * (x.startPrb + i)
      let got := (bitmapOf s c n k a).mapIdx fun i b => b || (x.startPrb ≤ i && i < x.startPrb + np)
      let all := got.all id && (List.range (ccUl s c)).all fun y => y = a || (bitmapOf s c n k y).all id
      a < ccUl s c → x.ef = false → x.sectionType = 1 → k < 14 → ulOpen s c < ulClose s c →
      sectionSlot s c frame sub slot k = .ok n → ulScheduled s c n k = true → x.startPrb + np ≤ ccNprb s c →
      featuresOk s c x = true → jobServes s c = true → decompresses s c x = true →
      (∀ i < np, ccBufOff s c 0 ≤ place i ∧ place i + 48 ≤ ccBufOff s c 0 + ccBufSize s c 0) →
      Gives (.ethernetFrameRx l f) s fun u =>
        (∀ i d, x.prbs[i]? = some d →
          u.readBytes (commonStore (place i)) 48 = prbBytes (ccMeth s c 0) (ccWidth s c 0) d) ∧
        (∀ b, (∀ i < np, b < commonStore (place i) ∨ commonStore (place i) + 48 ≤ b) → u.byte b = s.byte b) ∧
        (all = true → (n, k) ∈ (u.carrier c).signalled) ∧
        (all = false → bitmapOf u c n k a = got ∧ (u.carrier c).signalled = (s.carrier c).signalled ∧
          u.tallies = s.tallies))) ∧
  (∀ (s : State) (c : Carrier) (n : Word) (k : Fin 14), s.live = true → s.ccLive c = true → s.ccLink c = false →
    (n, k.val) ∉ (s.carrier c).signalled → -1 ≤ (s.ccSlot c - n).toInt → (s.ccSlot c - n).toInt < 64 → s.ecc = [] →
    let place (a i : Nat) : Nat := symbolAt s c 0 (ccUl s c) n k a + 48 * i
    let lost (a i : Nat) : Prop := a < ccUl s c ∧ (bitmapOf s c n k a)[i]? = some false ∧
      ccBufOff s c 0 ≤ place a i ∧ place a i + 48 ≤ ccBufOff s c 0 + ccBufSize s c 0
    Gives (.receptionWindowClose c n k) s fun u =>
      (n, k.val) ∈ (u.carrier c).signalled ∧
      (ulScheduled s c n k = false → u.mem = s.mem ∧ u.reg (carrierBase c + 0xC0) = s.reg (carrierBase c + 0xC0)) ∧
      (ulScheduled s c n k = true →
        u.reg (carrierBase c + 0xC0) = BitVec.ofNat 32 (satAdd 32 (s.reg (carrierBase c + 0xC0)).toNat 1) ∧
        (∀ a i, lost a i → ∀ j < 48, u.byte (commonStore (place a i) + j) = 0) ∧
        ∀ b, (∀ a i, lost a i → b < commonStore (place a i) ∨ commonStore (place a i) + 48 ≤ b) → u.byte b = s.byte b))

/-- The downlink of a slot: one C-plane message for every symbol and stream of the plan, in order (R284); a payload
fetched from the host, its failure withholding the item (R301, R370); the coded bits of an item in region 4, with its
encode tally (R286, R301); and in the transmit window of a symbol that the job has completed, one U-plane message for
every stream, of the bytes in region 1, while a symbol not ready is counted (R28, R275, R285). A symbol whose turn in slot
order has not come has no window yet (R285). -/
def Obligations.FronthaulTransmission : Prop :=
  ∀ (s : State) (c : Carrier) (n : Word) (p : Plan), s.live = true → planOf s c false n = some p → p.checked = false →
    (jobServes s c = false → exec (.cPlaneSend c n 0) s = .next s) ∧
    (jobServes s c = true → p.cSent = false → planOf s c true n = none → s.host.downPorts = [] →
      Gives (.cPlaneSend c n 0) s fun u =>
        (∃ q : Nat → Nat → Nat, u.sent = s.sent ++ (List.range 14).flatMap fun k =>
          if p.symMask.testBit k then (List.range (ccDl s c)).map fun a => .cPlane c p.slot k a (q k a) {
            dl := true, type := 1, numPrb := ccNprb s c, beam := beamOf p k }
          else []) ∧
        planOf u c false n = some { p with cSent := true } ∧ u.mem = s.mem) ∧
    (∀ i x, itemOf p i = some x → x.fetched = none → x.withheld = false →
      let item (u : State) : Option ItemState := (planOf u c false n).bind fun p => itemOf p i
      (Gives (.dlPayloadFetch c n i true) s fun u => u.mem = s.mem ∧
        item u = some { x with fetched := some (s.readBytes (hostStore x.item.payload) (x.item.tbs / 8)) }) ∧
      (Gives (.dlPayloadFetch c n i false) s fun u => u.mem = s.mem ∧ item u = some { x with withheld := true } ∧
        ∃ w y z, u = raise w eSlideBus 3 16 y z)) ∧
    (∀ i x l, itemOf p i = some x → x.fetched = some l → x.encoded = false → earlierEncoded p i = true → s.ecc = [] →
      let b := commonStore (ccBufOff s c 4 + x.item.softbuf % 2 ^ 32)
      let size := (x.item.g + 7) / 8
      Gives (.encodeItem c n i) s fun u =>
        ((planOf u c false n).bind fun p => itemOf p i) = some { x with encoded := true } ∧
        u.readBytes b size = bytesOfBits size (dlCoded x.item.params (bitsMsb l)) ∧
        (∀ a, a < b ∨ b + size ≤ a → u.byte a = s.byte a) ∧
        ∀ k m, s.runningSlot = some k → encTally s c k = some m →
          (u.tally m).count = min 0x7FFF_FFFF ((s.tally m).count + 1)) ∧
    (∀ k : Fin 14, transmitTurn s c p k = false → s.integ.batch = none → exec (.dlTransmitWindow c n k) s = .next s) ∧
    (∀ k : Fin 14, p.symMask.testBit k = true → k.val ∉ p.windows → transmitTurn s c p k = true → p.tainted = false →
      s.ecc = [] → s.host.downPorts = [] → ((openItems p).all fun x => x.1.item.symStart ≠ k.val || x.1.encoded) = true →
      Gives (.dlTransmitWindow c n k) s fun u =>
        (dlReady s c = true →
          ∃ q : Nat → Nat, u.sent = s.sent ++ (List.range (ccDl s c)).map fun a =>
            let l := partsOf (s.readBytes (commonStore (symbolAt s c 1 (ccDl s c) n k a)) (48 * ccNprb s c))
            let hdr := if ccHdr s c 16 then some (ccMeth s c 16, ccWidth s c 16) else none
            .uPlane c n k a (q a) hdr ((List.range (ccNprb s c)).map fun i =>
              codePrb (ccMeth s c 16) (ccWidth s c 16) ((l.drop (24 * i)).take 24))) ∧
        (dlReady s c = true → u.mem = s.mem ∧ u.reg (carrierBase c + 0xC8) = s.reg (carrierBase c + 0xC8)) ∧
        (dlReady s c = false →
          u.reg (carrierBase c + 0xC8) = BitVec.ofNat 32 (satAdd 32 (s.reg (carrierBase c + 0xC8)).toNat 1)) ∧
        (∀ j, s.runningSlot = some j → expectedOf s c j + 1 < 0x4000_0000 →
          expectedOf u c j = expectedOf s c j + 1))

/-- Decode requests: the next record of region 3 is taken when the request tally shows it; one that R291 discards has
RESULT 3 and is counted, a measurement RESULT 4, either signalling DONE, and any other joins those waiting for an
engine (R289–R291, R294). A block that an engine has decoded: its LLRs, combined with the soft buffer that its item
began anew, give the bits and iterations of R292; RESULT and ITERS stand in the record, DONE is signalled, and where
the check fails the combined values go to the soft buffer (R291–R293, R296, R297). A polar codeword ends likewise
(R295). A decoded item in an untainted slot is delivered to the host buffer and answered; a tainted one is answered
without delivery (R26, R300, R369). -/
def Obligations.DecodeUnitWork : Prop :=
  (∀ (s : State) (c : Carrier) (k n : Nat), s.live = true → s.ecc = [] → s.runningSlot = some k → reqTally s c k = some n →
    takenOf s c k < (s.tally n).count → s.ccLink c = false → 64 ≤ ccBufSize s c 3 → takenOf s c k + 1 < 0x4000_0000 →
    recordAt s c (takenOf s c k) + 64 ≤ commonSize →
    let off := recordAt s c (takenOf s c k)
    let r := s.readBytes (commonStore off) 64
    let answered (u : State) (v : Nat) : Prop := u.readBytes (commonStore (off + 0x3C)) 2 = [BitVec.ofNat 8 v, 0] ∧
      u.decodes = s.decodes ∧
      ∀ m, doneTally s c k = some m → (u.tally m).count = min 0x7FFF_FFFF ((s.tally m).count + 1)
    Gives (.decodeRecordTake c) s fun u =>
      takenOf u c k = takenOf s c k + 1 ∧
      (recordTarget s c r = none → answered u 3 ∧
        u.reg (carrierBase c + 0xD4) = BitVec.ofNat 32 (satAdd 32 (s.reg (carrierBase c + 0xD4)).toNat 1)) ∧
      (∀ p i x, recordTarget s c r = some (p, i, x) →
        (field r 0 1 = 2 → answered u 4) ∧
        (field r 0 1 < 2 → u.decodeNo = s.decodeNo + 1 ∧ ∃ d ∈ u.decodes, d.no = s.decodeNo ∧ d.cc = c.val ∧
          d.slot = p.slot ∧ d.item = i ∧ d.cb = recordCb r ∧ d.kind = field r 0 1 ∧ d.record = off ∧
          d.llrOff = field r 8 4 ∧ d.e = field r 0xC 4 ∧ d.maxIter = clamp 1 32 (field r 0x12 1) ∧ d.jobSlot = k))) ∧
  (∀ (s : State) (e : Fin 8) (d : DecodeJob) (p : Plan) (x : ItemState), s.live = true → s.ecc = [] →
    jobOfEngine s 0 e = some d → planOf s d.cc true d.slot = some p → itemOf p d.item = some x →
    x.item.isNew = true → llrsOk d.llrOff d.e = true → d.offsOff = 0xFFFF_FFFF → d.record + 64 ≤ commonSize →
    (x.item.cbs = 1 ∧ x.blocks = [] ∨ x.blocks.length + 1 < x.item.cbs) →
    let par := ldpcParam x.item.params d.cb
    let recv := receivedAt (rateRecover x.item.params d.cb) (par 4)
      (int8s (s.readBytes (commonStore d.llrOff) d.e))
    let soft := (List.range (par 4)).map fun j => sat8 (recv.getD j 0)
    let res := ldpcDecode { bg2 := x.item.bg2, zc := par 1 } (fun _ => s.fld (carrierBase d.cc + 0x24) 7 0) d.maxIter
      (par 2) (par 3) soft
    let bits := res.1.take (par 2 - par 3)
    let pass : Bool := if x.item.cbs = 1 then crc24a bits = 0 else crc24b bits = 0
    softAt x.item (par 4) d.cb + par 4 ≤ hbmSize →
    Gives (.ldpcDecodeDone e) s fun u =>
      u.readBytes (commonStore (d.record + 0x3C)) 2 = [if pass then 1 else 2, BitVec.ofNat 8 res.2] ∧
      (∀ y ∈ u.decodes, y.no ≠ d.no) ∧
      (pass = false → u.readBytes (softAt x.item (par 4) d.cb) (par 4) = soft.map fun v => BitVec.ofInt 8 v) ∧
      (∀ m, doneTally s d.cc d.jobSlot = some m → (u.tally m).count = min 0x7FFF_FFFF ((s.tally m).count + 1))) ∧
  (∀ (s : State) (e : Fin 2) (d : DecodeJob) (p : Plan) (x : ItemState), s.live = true → s.ecc = [] →
    jobOfEngine s 1 e = some d → planOf s d.cc true d.slot = some p → itemOf p d.item = some x →
    x.item.cbs = 1 → x.blocks = [] → llrsOk d.llrOff d.e = true → d.record + 64 ≤ commonSize →
    let pass := (polarDecode x.item.tbs d.e (int8s (s.readBytes (commonStore d.llrOff) d.e))).2
    x.item.kind = 1 →
    Gives (.polarDecodeDone e) s fun u =>
      u.readBytes (commonStore (d.record + 0x3C)) 2 = [if pass then 1 else 2, 0] ∧ (∀ y ∈ u.decodes, y.no ≠ d.no)) ∧
  (∀ (s : State) (c : Carrier) (n : Word) (i : Nat) (p : Plan) (x : ItemState), s.live = true →
    planOf s c true n = some p → itemOf p i = some x → p.checked = false → x.answered = false → itemDecoded x = true →
    x.item.kind ≤ 1 → cplRoom s (ccRing s c) = false → s.cpl.queue.length < 65536 →
    Gives (.tbDeliver c n i true) s fun u =>
      ((planOf u c true n).bind fun p => itemOf p i) = some { x with answered := true, lost := false } ∧
      ∃ y : CplEntry, u.cpl.queue = s.cpl.queue ++ [y] ∧ y.ring = ccRing s c ∧ y.htag = p.htag ∧
        (p.tainted = false → x.withheld = false → y.code = 0x30 ∧
          u.mem = (s.writeBytes (hostStore x.item.payload) (payloadOf x)).mem) ∧
        (p.tainted = true ∨ x.withheld = true → y.code = 0x31 ∧ u.mem = s.mem ∧
          ((y.body.getD 2 0).toNat % 256 = 2)))

/-! ### Nuzan Link -/

/-- A LINK context that sends: at a transmit burst slot the burst made for it leaves with its header and samples, each
of its messages counted and numbered, and at a receive slot the front has one more slot to process (R308, R309, R311); a
burst whose slot has passed or become a receive slot is not sent, and its link messages wait again (R332); the queue's
CONS passes the packets of the burst sent before it (R331, R332). A received table is stored and acknowledged with its
sixth part, a malformed message is counted, an acknowledgement ends the proposal it names, and a proposal not
acknowledged in time is sent again (R326, R327). Clearing the last status bit makes the queue resume (R331). -/
def Obligations.LinkTransmission : Prop :=
  ∀ (s : State) (c : Carrier) (k : Fin 8), s.live = true → s.ccLink c = true →
    let l := s.link c
    let f := s.ccSlot c
    let count (u : State) (i n : Nat) : Prop := u.reg (carrierBase c + 0x480 + 4 * i) =
      BitVec.ofNat 32 (satAdd 32 (s.reg (carrierBase c + 0x480 + 4 * i)).toNat n)
    let sends := s.flag (carrierBase c + 0x400) (24 + k)
    (∀ b, l.sending = none → s.host.downPorts = [] → sends = true →
      (∀ x ∈ l.txBursts, 0 ≤ (x.frame - f).toInt ∧ (x.frame = f → k.val ≤ x.slotK)) →
      (l.txBursts.find? fun b => b.frame = f && b.slotK = k.val) = some b →
      let q := tget (fun _ => 0) (s.carrier c).seqTx (eaxcOf s c 0)
      let y := sentBurst s c f k b l.txCount q
      let tx := fhBase (ccLinkNo s c) + 0x2C
      Gives (.burstSlotStart c k) s fun u =>
        u.sent = s.sent ++ [y] ∧ u.mem = s.mem ∧
        tget (fun _ => 0) (u.carrier c).seqTx (eaxcOf s c 0) = (q + y.messages.length) % 256 ∧
        u.reg tx = BitVec.ofNat 32 (satAdd 32 (s.reg tx).toNat y.messages.length) ∧
        u.link c = { l with
          txCount := l.txCount + 1, sending := some b,
          txBursts := l.txBursts.filter fun x => !(x.frame = f && x.slotK = k.val) }) ∧
    (l.sending = none → sends = false → s.ccEnabled c = true →
      (∀ x ∈ l.txBursts, 0 ≤ (x.frame - f).toInt ∧ (x.frame = f → k.val < x.slotK)) →
      Gives (.burstSlotStart c k) s fun u => u = s.setLink c { l with rxNext := l.rxNext ++ [(k.val, f)] }) ∧
    (∀ x, l.sending = none → l.txBursts = [x] → l.txNext = none →
      (x.frame - f).toInt < 0 ∨ x.frame = f ∧ (x.slotK < k.val ∨ x.slotK = k.val ∧ sends = false) →
      Gives (.burstSlotStart c k) s fun u => u.sent = s.sent ∧ u.mem = s.mem ∧ (u.link c).txBursts = [] ∧
        (u.link c).txCount = l.txCount ∧ (u.link c).outbox = x.msgs ++ l.outbox) ∧
    (∀ b, l.sending = some b → b.consumed ≠ 0 → txqStopped s c = false → s.ecc = [] →
      Gives (.burstSlotStart c k) s fun u =>
        readCons u c = readCons s c + BitVec.ofNat 32 b.consumed ∧
        ∀ a, a < txqBase s c + 4 ∨ txqBase s c + 8 ≤ a → u.byte a = s.byte a) ∧
    (∀ m rest, takeInbox l 1 = some (m, rest) →
      (partOk m = false → Gives (.blTable c) s fun u => u.link c = { l with inbox := rest } ∧ count u 6 1) ∧
      (partOk m = true →
        let blt := field m 1 1
        let id := blt / 128
        let old := ((tget (fun _ => none) l.parts id).filter (·.blt = blt)).map (·.held)
        let held := tset (fun _ => []) (old.getD []) (field m 2 1) (partEntries m)
        Gives (.blTable c) s fun u => (u.link c).inbox = rest ∧
          (held.length < 6 → tget (fun _ => none) (u.link c).parts id = some ⟨blt, held⟩ ∧
            (u.link c).txTables = l.txTables ∧ (u.link c).outbox = l.outbox) ∧
          (6 ≤ held.length → tget (fun _ => none) (u.link c).parts id = none ∧
            tableOf (u.link c).txTables blt = some (held.flatMap (·.2)) ∧
            (u.link c).outbox = l.outbox ++ [[2, BitVec.ofNat 8 blt]] ∧ (u.link c).txNext = some (blt, none)))) ∧
    (∀ m rest, takeInbox l 2 = some (m, rest) → l.proposal = none →
      Gives (.blAck c) s fun u => u = s.setLink c { l with inbox := rest }) ∧
    (∀ m rest p, takeInbox l 2 = some (m, rest) → l.proposal = some p →
      Gives (.blAck c) s fun u => u.link c = { l with
          inbox := rest, proposal := if p.blt = field m 1 1 then none else some p } ∧
        u.flag (carrierBase c + 0x44C) 16 = (s.flag (carrierBase c + 0x44C) 16 && decide (p.blt ≠ field m 1 1))) ∧
    (∀ p, l.proposal = some p → s.ccEnabled c = true → s.fld (carrierBase c + 0x414) 31 28 ≤ p.frames →
      Gives (.blRetransmit c) s fun u => count u 8 1 ∧ u.link c = { l with
        outbox := l.outbox ++ tableParts p.blt p.table, proposal := some { p with frames := 0 } }) ∧
    (∀ v : Word, Gives (.lkTxqStatusClear c v) s fun u =>
      (∀ i < 32, u.flag (carrierBase c + 0x46C) i = (s.flag (carrierBase c + 0x46C) i && !(decide (i < 2) && bit v i))) ∧
      (txqStopped s c = true → txqStopped u c = false → (u.link c).resync = true) ∧
      (txqStopped s c = false → u.links = s.links))

/-- A LINK context that receives: a window takes the next 16 samples, those that have not arrived as zeros and counted,
and until sync the front is FROZEN exactly when a preamble has been met (R308, R315, R316); 256 samples without the sync
word are a false detection (R318). A header whose CRC holds admits its burst, and another is counted (R311, R322, R333);
a sync whose slot ends first keeps its samples until then (R333); a code block that an LDPC engine has decoded is
counted by its CRC and leaves the engine (R294, R324); at the deadline the open blocks fail and the burst ends (R324,
R333). -/
def Obligations.LinkReception : Prop :=
  ∀ (s : State) (c : Carrier), s.live = true → s.ccLink c = true →
    let l := s.link c
    let count (u : State) (i n : Nat) : Prop := u.reg (carrierBase c + 0x480 + 4 * i) =
      BitVec.ofNat 32 (satAdd 32 (s.reg (carrierBase c + 0x480 + 4 * i)).toNat n)
    (∀ k f, l.rx = some (k, f) → l.gained.length + 16 < burstLen s c → l.bursts = [] →
      let xs := (List.range 16).map fun i => tget (fun _ => none) l.arrived (l.done + i)
      let gs := xs.map fun x => (gainPart (lkGain s c) (x.getD (0, 0)).1, gainPart (lkGain s c) (x.getD (0, 0)).2)
      Gives (.linkWindow c) s fun u =>
        (u.link c).rx = some (k, f) ∧ (u.link c).done = l.done + 16 ∧ (u.link c).gained = gs.reverse ++ l.gained ∧
        (xs.countP (·.isNone) ≠ 0 → u.reg (carrierBase c + 0xC0) =
          BitVec.ofNat 32 (satAdd 32 (s.reg (carrierBase c + 0xC0)).toNat (xs.countP (·.isNone)))) ∧
        (xs.countP (·.isNone) = 0 → u.reg (carrierBase c + 0xC0) = s.reg (carrierBase c + 0xC0)) ∧
        (2 ≤ lkFront s c → lkFront u c = lkFront s c) ∧
        (lkFront s c = 0 → (lkFront u c = 1 ↔ detected s c (u.link c).recent = true ∧
          max 1 (s.fld (carrierBase c + 0x40C) 11 8) ≤ l.hits + 1)) ∧
        u.mem = s.mem) ∧
    (∀ k f q, l.rx = some (k, f) → burstLen s c ≤ l.gained.length + 16 → l.bursts = [] → lkFront s c = 2 →
      l.syncEnd = some q → Gives (.linkWindow c) s fun u =>
        (u.link c).rx = none ∧ (u.link c).syncEnd = none ∧ u.mem = s.mem ∧
        ∃ y, (u.link c).waiting = l.waiting ++ [y] ∧ y.slotK = k ∧ y.frame = f ∧ y.syncEnd = q ∧ y.freq = l.freq) ∧
    (l.rx.isSome = true → lkFront s c = 1 → 256 ≤ l.sinceDetect → Gives (.linkFalseDetection c) s fun u =>
      lkFront u c = 0 ∧ count u 1 1 ∧ u.link c = { l with freq := l.freq0, hits := 0, input := [] }) ∧
    (∀ k f q, l.rx = some (k, f) → l.syncEnd = some q → lkFront s c = 2 → q + 200 ≤ l.gained.length → l.waiting = [] →
      l.bursts = [] →
      let h := headerBits s c (equalise s c (slotSample l.gained.reverse.toArray l.freq (burstKey c f k)) q)
      let v := bitsNat (h.take 32)
      Gives (.linkHeaderDecode c) s fun u =>
        (u.link c).syncEnd = none ∧
        (headerOk h = true → (u.link c).rxCount = l.rxCount + 1 ∧
          u.fld (carrierBase c + 0x44C) 15 8 = slice v 16 9 ∧
          (v.testBit 31 = false → mcsOk false (slice v 30 27) = true → 1 ≤ slice v 26 17 →
            ∃ b, (u.link c).bursts = [b] ∧ b.slotK = k ∧ b.frame = f ∧ b.no = l.rxCount ∧ b.multi = false ∧
              b.mcs = slice v 30 27 ∧ b.ncb = slice v 26 17 ∧ b.seq = slice v 8 0 ∧ b.blocks = [])) ∧
        (headerOk h = false → (u.link c).rxCount = l.rxCount ∧ (u.link c).bursts = [] ∧ count u 2 1)) ∧
    (∀ y r, l.waiting = y :: r →
      let x := slotSample y.samples.toArray y.freq (burstKey c y.frame y.slotK)
      let ok := headerOk (headerBits s c (equalise s c x y.syncEnd))
      Gives (.linkHeaderDecode c) s fun u => (u.link c).waiting = r ∧ (u.link c).syncEnd = l.syncEnd ∧
        (u.link c).rxCount = l.rxCount + b2n ok ∧ (ok = false → count u 2 1)) ∧
    (∀ cb, linkJob s c cb = none → exec (.linkCodeBlockDecode c cb) s = .next s) ∧
    (∀ b d cb i, l.bursts = [b] → linkJob s c cb = some (d, b) → i < b.ncb → i ≠ cb →
      tget (fun _ => none) b.blocks i = none →
      let r := decodeBlock s c b cb
      Gives (.linkCodeBlockDecode c cb) s fun u =>
        count u (if r.1.isSome then 3 else 4) 1 ∧
        (u.link c).bursts = [{ b with
          blocks := tset (fun _ => none) b.blocks cb (some r.1), iters := max b.iters r.2 }] ∧
        (∀ y ∈ u.decodes, y.no ≠ d.no) ∧ u.mem = s.mem) ∧
    (∀ b, l.bursts = [b] → b.samples.isSome = true →
      let n := ((List.range b.ncb).filter fun i => (tget (fun _ => none) b.blocks i).isNone).length
      Gives (.linkCodeBlockDeadline c) s fun u => (u.link c).bursts = [] ∧ (n ≠ 0 → count u 4 n))

/-! ### The error log and recovery -/

/-- A write of ERRLOG_CONS consumes the entries up to its value, which are valid ones, and enters as many of the held
ERRLOG_OVERFLOW entries, each at its number with the words of Table 13.2; a value past the last valid entry changes
nothing (R359, R361). Checkpoints. One that is due once its tile stands quiet in TWAIT or IG_CKPT.WAIT beats have
passed, or an extra one at a journal of 224 entries, saves the tile's context at once where its core can stop, through
Ledger SRAM into Mequel's region and with the fences of the tile taken down, and otherwise leaves a request of priority
3 pending (R99, R377, R378, R380; the places are the model's, log entry 31). The channels hold no data. A line of code
or constants with an uncorrectable word is written again from the board image, and nothing else is (R370). -/
def Obligations.LogAndCheckpoints : Prop :=
  (∀ (s : State) (v : Word), s.live = true →
    let n := (v - s.reg 0x1004).toNat
    let e := s.reg 0x1000
    Gives (.errlogConsWrite v) s fun t =>
      (validEntries s < n → t = s) ∧
      (n ≤ validEntries s → OnlyLog s t ∧ t.reg 0x1004 = v ∧ t.integ.overflow = s.integ.overflow.drop n ∧
        t.reg 0x1000 = e + BitVec.ofNat 32 (min n s.integ.overflow.length) ∧
        ∀ r, s.integ.overflow = [r] → 1 ≤ n → ∀ k < 8,
          t.reg (0x2000 + e.toNat % 64 * 0x20 + 4 * k) = (entryWords r e).getD k 0)) ∧
  (∀ (s : State) (t : Tile), s.live = true → s.flag igBase 2 = true → s.anyRunning = true →
    (s.core t).status ≠ .halted →
    let c := s.core t
    let runs : Prop := c.status = .run ∨ c.status = .stall
    (checkpointNow s t = false → exec (.slotCheckpoint t) s = .next s) ∧
    ((tget (fun _ => []) s.integ.journals t).length < 224 → exec (.journalCheckpoint t) s = .next s) ∧
    ∀ i, i = .slotCheckpoint t ∧ checkpointNow s t = true ∨
        i = .journalCheckpoint t ∧ 224 ≤ (tget (fun _ => []) s.integ.journals t).length →
      (c.status = .held ∨ runs ∧ (heldOff c = true ∨ c.irq &&& 7 ≠ 0) → Gives i s fun u =>
        u.core t = { c with irq := c.irq ||| 8 } ∧ u.integ = { s.integ with ckptDue := u.integ.ckptDue } ∧
          u.regs = s.regs ∧ u.mem = s.mem) ∧
      (c.status = .idle ∨ runs ∧ heldOff c = false ∧ c.irq &&& 7 = 0 → s.ecc = [] →
        (∀ ch < 32, (s.chan t ch).held = []) → Gives i s fun u =>
          (∃ x, tget (fun _ => none) u.integ.checkpoints t = some x ∧ x.core = savedCore c ∧
            x.array.passes = (s.array t).passes ∧ x.array.holding = (s.array t).holding ∧ x.rod = s.rod t ∧
            x.engine = { s.engine t with quiet := 0 } ∧ x.exc = s.reg (rodBase t + 8)) ∧
          u.readBytes (checkpointArea t) contextSize = u.readBytes (checkpointStage t) contextSize ∧
          (∀ a, (a < checkpointStage t ∨ checkpointStage t + contextSize ≤ a) →
            (a < checkpointArea t ∨ checkpointArea t + contextSize ≤ a) → u.byte a = s.byte a) ∧
          u.fld (igBase + 0x100 + 4 * t.val) 4 0 = 0 ∧ u.arrays = s.arrays ∧ u.rods = s.rods ∧
          ∀ j, j ≠ t.val → u.core j = s.core j)) ∧
  (∀ (s : State) (b : Board) (line : Fin 786432) (k m un w : Nat) (r : BoardRange), s.live = true →
    s.runningSlot = some k → boardOf b = some (m, un) → m = 1 ∨ line.val < 147456 →
    let o := 128 * line.val
    let a := rangeStore s (m, un, o, 128)
    w < 16 → s.eccOf (a / 8 + w) = 2 → eccTouched s (boardImageAt k m un o) 128 = [] → r ∈ repairable (s.job k).image → r.1 = m → m = 1 ∨ r.2.1 = un →
    r.2.2.1 < o + 8 * w + 8 → o + 8 * w < r.2.2.1 + r.2.2.2 →
    Gives (.eccLineRewrite b line) s fun u =>
      (∀ i < 128, u.byte (a + i) = s.byte (boardImageAt k m un o + i)) ∧ (∀ j < 16, u.eccOf (a / 8 + j) = 0) ∧
      (∀ c, c < a ∨ a + 128 ≤ c → u.byte c = s.byte c) ∧ u.regs = s.regs)

/-- The recovery levels, outside lock-step. A re-reckon that would end past a pending deadline check taints the tile's
carriers, in the slots that have an uplink plan, and lets the pass complete as it stands; one without an error lets it
complete with its results formed anew (R369, R373–R375). A fence stops the part until the next checkpoint, its withheld
passes counting as completed (R380). A restart waits until its interrupt has stopped the tile (R100), loads the
checkpoint and has the journal absorb what the tile did since (R379). A recovery that does not end in 20 µs goes to the
next level that applies, and at level 4 a fatal entry is logged (R363, R364, R385). Each of the others ends the handling
of its error (R362). -/
def Obligations.RecoveryLevels : Prop :=
  (∀ (s : State) (t : Tile) (p : Fin 5) (f : CarryFault) (x : PassInFlight) (i : Nat) (r : LogRecord), s.live = true →
    lsActive s t = false → (s.core t).signals = [] → withheldPass s t p = some (x, i) →
    let gone (u : State) : Prop := u.integ.handling = s.integ.handling.drop 1 ∧
      if p.val = 4 then (u.array t).quickSum = (s.array t).quickSum.drop 1
      else (u.array t).passes = (s.array t).passes.take i ++ (s.array t).passes.drop (i + 1)
    let d := passDesc x.desc
    let w := viewOn s t (s.physOf t) (rerunEarlier s t (s.physOf t) p x).2
    (headAt s 1 t (· = p.val) = some r → pastDeadline s t p x = true →
      Gives (.reReckon t p f) s fun u => gone u ∧ u.mem = s.mem ∧ ∀ c ∈ carrierSet s t, s.ccLink c = false →
        ∀ y ∈ (u.carrier c).plans, y.ul = true → y.checked = false →
          ∀ q ∈ (u.carrier c).plans, q.slot = y.slot → q.checked = true ∨ q.tainted = true) ∧
    (headAt s 1 t (· = p.val) = some r → pastDeadline s t p x = false → onSpare s p x = false → s.ecc = [] →
      (p.val < 4 → passOnBoard d = true) →
      Gives (.reReckon t p .none) s fun u => gone u ∧ u.carriers = s.carriers ∧
        (p.val < 4 → (u.array t).holding = (s.array t).holding ∧
          (stepWrites d.step = true → d.dRod = false → d.dtype ≤ 2 → d.rows ≤ 32 → d.cols ≤ 32 →
            d.cols * stepParts d.step * dBytes d.dtype ≤ d.dStride →
            ∀ a < d.rows, ∀ b < d.cols, ∀ j < dBytes d.dtype, u.byte (s.boardStore t (drainAddr d a b) + j) =
              (drainBytes d.dtype (drained d.step (tget (fun _ => 0) (w.array t).holding (posKey p a b)) (carryOf w t d a b))
                d.shift d.mode (passDraw w d a b)).getD j 0))) ∧
    (headAt s 2 t (· = p.val) = some r →
      Gives (.partitionFence t p) s fun u => u.flag (igBase + 0x100 + 4 * t.val) p = true ∧
        u.integ.handling = s.integ.handling.drop 1 ∧ (wantsReload r = false → u.mem = s.mem) ∧
        (p.val < 4 → (u.array t).passes = (s.array t).passes.filter fun y => !(y.part = p.val && y.withheld)))) ∧
  (∀ (s : State) (t : Tile) (r : LogRecord) (k : Nat) (c : TileContext), s.live = true →
    headAt s 2 t (· = 5) = some r → wantsReload r = false → s.runningSlot = some k → s.ecc = [] →
    tget (fun _ => none) s.integ.checkpoints t = some c →
    (stoodStill (recoveryStop s t) t = false → exec (.tileRestart t) s = .next (recoveryStop s t)) ∧
    (stoodStill (recoveryStop s t) t = true → Gives (.tileRestart t) s fun u =>
      let w := discardSlides (recoveryStop s t) t
      let x := { c with array := freshPasses c.array }
      (w.readBytes (checkpointArea t) contextSize = contextBytes (loadTile w t x) t →
        u.core t = { c.core with irq := standingIrq s t } ∧ u.rod t = c.rod ∧
        (u.array t).holding = c.array.holding ∧ (∀ x ∈ (u.array t).passes, x.withheld = false)) ∧
      u.integ.handling = s.integ.handling.drop 1 ∧ (∀ j, j ≠ t.val → u.core j = s.core j ∧ u.rod j = s.rod j) ∧
      ∀ n e, (n, e) ∈ tget (fun _ => []) s.integ.journals t → (n, { e with
        absorbAdds := e.adds, absorbSubs := e.subs, absorbTakes := e.takes }) ∈ tget (fun _ => []) u.integ.journals t)) ∧
  (∀ (s : State) (h : LogRecord) (hs : List LogRecord) (r : Recovery) (rs : List Recovery), s.live = true →
    s.integ.handling = h :: hs → s.integ.recoveries = r :: rs → r.level < 4 →
    (s.counter.toNat < r.began + 25000 → exec .recoveryTimeout s = .next s) ∧
    (r.began + 25000 ≤ s.counter.toNat → Gives .recoveryTimeout s fun u =>
      let k := firstLevel s (r.level + 1) h.inst (partOf h)
      r.level < k ∧ k ≤ 4 ∧
      u.integ.handling = { h with level := k, escalated := true, severity := severityAt k h.severity } :: hs ∧
      u.integ.recoveries = ⟨k, s.counter.toNat⟩ :: rs ∧
      (k = 4 → u.integ.resetWanted = true ∧ (logFull s = false → u.reg 0x1000 = s.reg 0x1000 + 1)) ∧
      (k < 4 → u.reg 0x1000 = s.reg 0x1000 ∧ u.sent = s.sent) ∧ OnlyLog s u))

/-- Self-test of a spare or quarantined tile: START clears DONE and begins it, and on an active tile is refused as a
write of a running block; its end reports the failing rows, and Mequel makes a tile whose halves both serve the spare
when there is none (R384, Table 13.12). A spare-tile swap puts the logical tile on the spare and quarantines its
physical tile, once the recovery request has stopped it. One that a run of mismatches asks for goes on with the tile's
own context and with every byte of its board copied (R376, R382, R383); one of an error's level 3 loads the checkpoint
(R384). No other logical tile moves. -/
def Obligations.SelfTestsAndSwaps : Prop :=
  (∀ (s : State) (p : PhysTile) (v : Word), s.live = true → bit v 0 = true →
    (s.roleOf p ≠ 0 → Gives (.bistStart p v) s fun u => u.flag (physBase p + 8) 1 = false ∧
      u.integ.bist.any (fun b => decide (b.1 = p.val)) = true ∧ u.mem = s.mem) ∧
    (s.roleOf p = 0 →
      exec (.bistStart p v) s = .next (raise s eLockedWrite 2 p (physBase p + 8) v.toNat))) ∧
  (∀ (s : State) (p : PhysTile) (rows : List (Fin 34)) (fail mequel : Bool), s.live = true →
    s.integ.bist.find? (fun b => decide (b.1 = p.val)) = some (p.val, mequel) →
    let l := rows.map (·.val)
    Gives (.bistDone p rows fail) s fun u =>
      u.flag (physBase p + 8) 1 = true ∧ u.flag (physBase p + 8) 2 = (fail || !rows.isEmpty) ∧
      u.flag (physBase p + 8) 16 = fail ∧ u.integ.bist = s.integ.bist.filter (fun b => decide (b.1 ≠ p.val)) ∧
      (mequel = true → s.roleOf p = 2 → s.integ.fusedOut ≠ some p.val → s.spare = none → fail = false →
        halfServes s p l false = true → halfServes s p l true = true →
        if halfFails l false = [16] ∧ halfFails l true = [33] then u.integ.role = s.integ.role else u.roleOf p = 1) ∧
      (fail = true ∨ mequel = false → u.integ.role = s.integ.role)) ∧
  (∀ (s : State) (t : Tile) (y : Nat), s.live = true → s.spare = some y → s.roleOf (s.physOf t) = 0 → s.ecc = [] →
    (∀ ch < 32, (s.chan t ch).held = []) → stoodStill (recoveryStop s t) t = true →
    let x := s.physOf t
    let moved (u : State) : Prop := u.physOf t = y ∧ u.roleOf y = 0 ∧ u.roleOf x = 2 ∧
      ∀ k : Tile, k ≠ t → u.physOf k = s.physOf k
    (MemOk s → s.integ.swapDue.contains x = true → s.integ.recoveries = [] → s.integ.handling = [] →
      Gives (.spareTileSwap t true) s fun u => moved u ∧ u.core t = { savedCore (s.core t) with
            irq := (u.core t).irq, holdoff := (u.core t).holdoff, holdoffLogged := (u.core t).holdoffLogged } ∧
        (∀ k, u.rod k = s.rod k ∧ (k ≠ t.val → u.core k = s.core k)) ∧
        (∀ o < boardSize, u.byte (physStore y o) = s.byte (physStore x o)) ∧
        (∀ o < boardSize, u.byte (physStore x o) = s.byte (physStore x o)) ∧
        u.reg (igBase + 0x408) = BitVec.ofNat 32 (satAdd 32 (s.reg (igBase + 0x408)).toNat 1)) ∧
    (∀ r c, headAt s 3 t (fun _ => true) = some r → trustedSwap r = false →
      tget (fun _ => none) s.integ.checkpoints t = some c →
      let w := remapTile (abandonOn (flushTile (recoveryStop s t) t) y) t x y
      Gives (.spareTileSwap t false) s fun u => moved u ∧ u.integ.handling = s.integ.handling.drop 1 ∧
        (w.readBytes (checkpointArea t) contextSize =
            contextBytes (loadTile w t { c with array := freshPasses c.array }) t →
          u.core t = { c.core with irq := standingIrq s t } ∧ u.rod t = c.rod)))

/-- Proof patterns. A due proof starts in blanking that is long enough on a tile that is idle and alone, with its data
in the tile's proof area; otherwise it is counted as deferred (R388, R390). Its end installs the area's bytes and
compares the signature with the set's: a match leaves the log alone, a mismatch is reported and repeated (R387, R391).
An abandoned proof leaves nothing but its count (R389). -/
def Obligations.ProofPatterns : Prop :=
  (∀ (s : State) (c : Carrier) (p e : Nat), s.live = true → s.flag igBase 1 = true → (s.proof c).running = none →
    let x := (s.proof c).loaded
    x ≠ [] → s.ccLive c = true → s.ccLink c = false → s.fld (igBase + 0xC) 23 8 ≤ (s.proof c).slotsSince →
    blankFor s c 0 = true → proofPlace s c = some (p, e) →
    (s.flag 0x4_0020 9 = false → blankFor s c (field x 0x18 4) = true → proofIdle s p = true → proofAlone s c p = true →
      Gives (.proofStart c) s fun u => (u.proof c).running = some (p, e) ∧ u.regs = s.regs ∧
        (∀ i < field x 0x14 4, u.byte (physStore p proofArea + i) = (bytesAt x (field x 0x10 4) (field x 0x14 4)).getD i 0) ∧
        (u.proof c).nextEngine = (e + 1) % 8 ∧ u.arrays = s.arrays ∧
        ∀ k, u.core k = { s.core k with stirred := (u.core k).stirred }) ∧
    (s.flag 0x4_0020 9 = true ∨ proofIdle s p = false →
      Gives (.proofStart c) s fun u => (u.proof c).running = none ∧ u.mem = s.mem ∧
        u.fld (proofStatus c) 7 0 = min 255 (s.fld (proofStatus c) 7 0 + 1))) ∧
  (∀ (s : State) (c : Carrier) (fault : DWord) (p e : Nat), s.live = true → (s.proof c).running = some (p, e) →
    proofQuiet s p = true → s.flag 0x4_0020 9 = false → (s.proof c).repeats = [] →
    let x := (s.proof c).loaded
    let r := runProof s c p x
    let ok := decide (r.2 ^^^ fault.toNat = field x 0x20 8)
    Gives (.proofComplete c fault) s fun u => (u.proof c).running = none ∧ (u.proof c).slotsSince = 0 ∧
      u.readBytes (physStore p proofArea) proofSize = r.1 ∧ u.cores = s.cores ∧ u.arrays = s.arrays ∧
      (ok = true → u.sent = s.sent ∧ u.reg 0x1000 = s.reg 0x1000 ∧ (u.proof c).repeats = []) ∧
      (ok = false → (u.proof c).repeats = [(p, e, false)] ∧ u.flag (proofStatus c) 10 = true)) ∧
  (∀ (s : State) (c : Carrier) (p e : Nat), s.live = true → (s.proof c).running = some (p, e) →
    Gives (.proofAbandon c) s fun u => (u.proof c).running = none ∧ u.mem = s.mem ∧
      u.reg (igBase + 0x414) = BitVec.ofNat 32 (satAdd 32 (s.reg (igBase + 0x414)).toNat 1))

/-! ### The bridge port and lock-step -/

/-- The bridge link. Up from training it holds a full CTL pool and full pools of every paired slot, with equal ranks it
stays in training and says so, and after retraining it keeps its pools (R398, R402, R404, R409). A bad flit is a replay,
the sixteenth within a millisecond starts retraining; flits that follow it wait for their replay; a good one other than
CTL returns its credit at once, and an answer gives its channel the data (R399, R402, R405). A link that does not return
within a millisecond loses every credit and fails what is outstanding, and a two-chip job that runs faults (R409). The
pools compared at an exchange: one whose credits do not add up is suspect, and at the second such exchange running it is
reset with a message on CTL; the others are clear, and a full agreement sends nothing (R403). -/
def Obligations.BridgeLinkState : Prop :=
  (∀ (s : State) (rank : Bool), s.live = true → s.flag brBase 31 = true → bridgeUp s = false →
    s.portDown .bridge = false →
    let quiet := s.bridge.txQ = [] ∧ s.bridge.sigQ = []
    Gives (.bridgeLinkUp rank) s fun u =>
      (rank = s.flag brBase 30 → bridgeState u = 1 ∧ u.flag (brBase + 4) 4 = true ∧ u.bridge = s.bridge) ∧
      (rank ≠ s.flag brBase 30 → s.bridge.leftUp.isSome = true →
        bridgeState u = 2 ∧ (quiet → u.bridge = { s.bridge with leftUp := none })) ∧
      (rank ≠ s.flag brBase 30 → s.bridge.leftUp = none →
        bridgeState u = 2 ∧ (quiet → u.bridge.rxSeq = 0 ∧ creditsOf u .ctl 0 = 64 ∧
        ∀ k < 4, (isPaired s k = true → creditsOf u .req k = 112 ∧ creditsOf u .rsp k = 112 ∧ creditsOf u .sig k = 16) ∧
          (isPaired s k = false → creditsOf u .req k = creditsOf s .req k))) ∧
      u.mem = s.mem ∧ u.tallies = s.tallies) ∧
  (∀ (s : State) (f : Flit), s.live = true → bridgeUp s = true → s.portDown .bridge = false →
    let l := s.bridge.replays.filter fun c => decide (s.counter.toNat < c + 1250000)
    Gives (.bridgeFlitRx f) s fun u =>
      (f.crcOk = false → u.reg (brBase + 0x48) = BitVec.ofNat 32 (satAdd 32 (s.reg (brBase + 0x48)).toNat 1) ∧
        (l.length < 15 → bridgeState u = 2 ∧ u.bridge = { s.bridge with replays := s.counter.toNat :: l }) ∧
        (15 ≤ l.length → bridgeState u = 3 ∧ u.bridge.leftUp = some s.counter.toNat)) ∧
      (f.crcOk = true → f.seq ≠ s.bridge.rxSeq → u = s) ∧
      (∀ a x d r, f.crcOk = true → f.seq = s.bridge.rxSeq → f.cls = .rsp → f.answer = some a →
        s.bridge.outstanding = [x] → x.id = a.id → x.drops = false → x.write = false → a.ok = true →
        (s.chan x.engine x.channel).q = d :: r → u.bridge.outstanding = [] ∧
          u.chan x.engine x.channel = landBytes (s.chan x.engine x.channel) (bytesAt a.data 0 x.len)) ∧
      (f.crcOk = true → f.seq = s.bridge.rxSeq → (f.cls = .rsp → f.answer = none) → u.bridge.rxSeq = f.seq + 1 ∧
        u.reg (brBase + 0x44) = BitVec.ofNat 32 (satAdd 32 (s.reg (brBase + 0x44)).toNat 1) ∧
        (f.cls ≠ .ctl →
          (s.bridge.txQ = [] → 0 < creditsOf s .ctl 0 → u.sent = s.sent ++ [.creditReturn f.cls f.slot 1] ∧
            creditsOf u .ctl 0 = creditsOf s .ctl 0 - 1 ∧ tget (fun _ => 0) u.bridge.free (poolKey f.cls f.slot) =
              tget (fun _ => 0) s.bridge.free (poolKey f.cls f.slot)) ∧
          (creditsOf s .ctl 0 = 0 → u.sent = s.sent ∧
            u.bridge.txQ = s.bridge.txQ ++ [(.ctl, 0, .creditReturn f.cls f.slot 1)] ∧
            tget (fun _ => 0) u.bridge.free (poolKey f.cls f.slot) =
              tget (fun _ => 0) s.bridge.free (poolKey f.cls f.slot) + 1)) ∧
        (f.cls = .ctl → s.bridge.sigQ = [] → s.bridge.txQ = [] → ∀ c k n,
          (f.message = .credits c k n → (c = .req → k.val ∉ s.bridge.recalled) →
            creditsOf u c k = min (poolSize c) (creditsOf s c k + n)) ∧
          (f.message = .credits .req k n → k.val ∈ s.bridge.recalled → 1 ≤ creditsOf s .ctl 0 →
            creditsOf u .req k = creditsOf s .req k ∧ u.sent = s.sent ++ [.peerCtl (.handBack .req k n)]) ∧
          (f.message = .grant k n → (s.job k).state ≠ .preempted → k.val ∉ u.bridge.recalled ∧
            creditsOf u .req k = min 112 (creditsOf s .req k + n)) ∧
          (f.message = .resetPool c k n → creditsOf u c k = min (poolSize c) n) ∧
          (f.message = .recall k → creditsOf u .req k = 0 ∧ k.val ∈ u.bridge.recalled ∧
            (2 ≤ creditsOf s .ctl 0 → u.sent = s.sent ++
              [.peerCtl (.handBack .req k (creditsOf s .req k)), .peerCtl (.recallAck k)])) ∧
          (f.message = .handBack c k n → c ≠ .ctl → (c = .req → k.val ∈ s.bridge.recalled) →
            tget (fun _ => 0) u.bridge.free (poolKey c k) =
            min (poolSize c) (tget (fun _ => 0) s.bridge.free (poolKey c k) + n)) ∧
          (f.message = .lockstepEnd false → lsState s = 2 ∨ lsState s = 3 → lsState u = 4 ∧ u.jobs = s.jobs) ∧
          (f.message = .recallAck k → k.val ∉ u.bridge.recallPending)))) ∧
  (∀ s : State, s.live = true →
    (bridgeUp s = true ∨ s.bridge.leftUp.all (fun c => decide (s.counter.toNat < c + 1250000)) = true →
      exec .bridgeLinkDown s = .next s) ∧
    (∀ c, bridgeUp s = false → bridgeState s ≠ 0 → s.bridge.leftUp = some c → c + 1250000 ≤ s.counter.toNat →
      (∀ x ∈ s.bridge.outstanding, x.drops = false → (s.chan x.engine x.channel).q ≠ []) →
      Gives .bridgeLinkDown s fun u => bridgeState u = 0 ∧ u.bridge.credits = [] ∧
      u.bridge.free = [] ∧ u.bridge.txQ = [] ∧ u.bridge.outstanding = [] ∧
      ∀ k, s.runningSlot = some k → (s.job k).image.chipCount = 2 → (u.job k).state = .faulted)) ∧
  (∀ (s : State) (held : List Nat), s.live = true → bridgeUp s = true → held.length = 13 →
    let counts := poolOrder.map fun x => creditsOf s x.1 x.2
    let told := sendFlit s .ctl 0 (.creditCounts counts)
    let bad (i : Nat) : Bool := match poolOrder[i]? with
      | some (c, k) => (c = .ctl || isPaired s k) &&
          held.getD i 0 + tget (fun _ => 0) told.bridge.free (poolKey c k) ≠ poolSize c
      | none => false
    Gives (.bridgeCreditExchange held) s fun u =>
      (∀ i c k, poolOrder[i]? = some (c, k) → tget (fun _ => false) u.bridge.suspect (poolKey c k) =
        (bad i && !tget (fun _ => false) s.bridge.suspect (poolKey c k))) ∧
      (s.portDown .bridge = false → s.bridge.txQ = [] → 0 < creditsOf s .ctl 0 →
        ∃ w, u.sent = s.sent ++ .creditCounts counts :: w) ∧
      ((∀ i < 13, bad i = false) → u.sent = told.sent ∧ u.regs = told.regs ∧ u.integ = s.integ) ∧
      (∀ i < 13, bad i = true → (∀ j < 13, j ≠ i → bad j = false) → ∀ c k, poolOrder[i]? = some (c, k) →
        tget (fun _ => false) s.bridge.suspect (poolKey c k) = true → s.portDown .bridge = false →
        s.bridge.txQ = [] → 2 ≤ creditsOf s .ctl 0 → ∃ w, u.sent = w ++ [.peerCtl (.resetPool c (slotNo k) (poolSize c -
          tget (fun _ => 0) told.bridge.free (poolKey c k)))]) ∧
      u.mem = s.mem ∧ u.jobs = s.jobs)

/-- What the peer does here. Its access reaches memory only inside the placements of the job it is paired with, or for
a privileged request any HBM, common board or tile board; any other is refused and counted (R401, R408). Its signal
acts on the shared tally of that handle and is not sent back (R406). A transaction that it does not answer within
BR_CFG.TIMEOUT is reported and its channel halts or keeps the failure to retry (R400, R409). No memory word met holds an
error. -/
def Obligations.BridgePeer : Prop :=
  (∀ (s : State) (r : PeerRequest), s.live = true → bridgeUp s = true → s.portDown .bridge = false →
    let n := requestLen r
    let ok := (r.priv || withinPartner s r.slot r.addr n) && !s.bridge.writtenOff.contains r.slot.val && decide (n ≠ 0)
    let answers (data : List Byte) := s.bridge.txQ = [] ∧ (flitParts data).length ≤ creditsOf s .rsp r.slot
    (ok = false ∨ peerStore s r.addr n = none → Gives (.bridgePeerAccess r) s fun u => u.mem = s.mem ∧
      (answers [] → u.sent = s.sent ++ [.peerReply r.id false []]) ∧
      u.reg (brBase + 0x54) = BitVec.ofNat 32 (satAdd 32 (s.reg (brBase + 0x54)).toNat 1)) ∧
    (∀ a, ok = true → peerStore s r.addr n = some a → eccTouched s a n = [] →
      Gives (.bridgePeerAccess r) s fun u =>
        (r.write = true → (answers [] → u.sent = s.sent ++ [.peerReply r.id true []] ∧
            creditsOf u .rsp r.slot = creditsOf s .rsp r.slot - 1) ∧
          (∀ i, (∀ x ∈ r.bytes, a + x.1 ≠ i) → u.byte i = s.byte i) ∧
          ((r.bytes.map (·.1)).Nodup → ∀ x ∈ r.bytes, u.byte (a + x.1) = x.2)) ∧
        (r.write = false → u.mem = s.mem ∧ ((∀ i < n, unannounced s (a + i - commonStore 0) = false) →
          answers (s.readBytes a n) →
            u.sent = s.sent ++ (flitParts (s.readBytes a n)).map (.peerReply r.id true) ∧
            creditsOf u .rsp r.slot = creditsOf s .rsp r.slot - (flitParts (s.readBytes a n)).length)) ∧
        (∀ t, u.core t = { s.core t with unseen := (u.core t).unseen }) ∧ u.tallies = s.tallies)) ∧
  (∀ (s : State) (k : Fin 4) (h : Nat) (sub : Bool) (v : Word), s.live = true →
    let b := (s.job k).image
    let n := b.nsBase + h
    let shared := isPaired s k = true ∧ ∃ d, b.tallies[h]? = some d ∧ d.kind = 3
    (¬ shared → Gives (.bridgeSignalRx k h sub v) s fun u => u.tallies = s.tallies ∧
      u.reg (brBase + 0x50) = BitVec.ofNat 32 (satAdd 32 (s.reg (brBase + 0x50)).toNat 1)) ∧
    (shared → Gives (.bridgeSignalRx k h sub v) s fun u =>
      (u.tally n).count = (if sub then (s.tally n).count - v.toNat else min 0x7FFF_FFFF ((s.tally n).count + v.toNat)) ∧
      (∀ m, m ≠ n → u.tally m = s.tally m) ∧ u.bridge = s.bridge)) ∧
  (∀ (s : State) (id : Nat), s.live = true →
    (s.bridge.outstanding.find? (fun x => decide (x.id = id)) = none → exec (.bridgeTimeout id) s = .next s) ∧
    (∀ x, s.bridge.outstanding.find? (fun x => decide (x.id = id)) = some x → s.counter.toNat < x.since + peerTimeout s →
      exec (.bridgeTimeout id) s = .next s) ∧
    (∀ x, s.bridge.outstanding.find? (fun x => decide (x.id = id)) = some x → x.since + peerTimeout s ≤ s.counter.toNat →
      x.drops = true → Gives (.bridgeTimeout id) s fun u => u.mem = s.mem ∧
        u.bridge.outstanding = s.bridge.outstanding.filter fun y => decide (y.id ≠ id)) ∧
    (∀ x, s.bridge.outstanding.find? (fun x => decide (x.id = id)) = some x → x.since + peerTimeout s ≤ s.counter.toNat →
      (s.chan x.engine x.channel).q ≠ [] →
      s.bridge.outstanding.find? (fun y => y.engine = x.engine && y.channel = x.channel && !y.drops) = some x →
      Gives (.bridgeTimeout id) s fun u =>
      (∀ y ∈ u.bridge.outstanding, y.id ≠ id ∧ (y.engine = x.engine ∧ y.channel = x.channel → y.drops = true)) ∧
      u.mem = s.mem ∧
      (s.fld (slideBase x.engine) 3 0 = 0 → (u.chan x.engine x.channel).status = .halted) ∧
      (s.fld (slideBase x.engine) 3 0 ≠ 0 → (u.chan x.engine x.channel).failed = some (0x4000_0000_0000 + x.addr, 0))))

/-- Lock-step starts, with its records empty and its pass numbers counted from this command on, when every condition
of R411 holds, and is refused with the first that does not (R411, R412, Table 14.7). The peer's record of a pass is
compared with the own one, or kept until that comes; a difference is found once for a tile, and with no other action
chosen the state shows it (R413, R414). -/
def Obligations.LockstepComparisons : Prop :=
  (∀ (s : State) (p : PeerLockstep) (k : Nat), s.live = true → s.runningSlot = some k →
    s.flag (brBase + 0x10) 0 = true → p.enabled = true → p.running = true → lsState s ≠ 2 → lsState s ≠ 3 →
    (lsCause s k p ≠ 0 → Gives (.lockstepStart p) s fun u =>
      lsState u = 5 ∧ u.fld (brBase + 0x14) 11 8 = lsCause s k p ∧ u.bridge = s.bridge) ∧
    (lsCause s k p = 0 → Gives (.lockstepStart p) s fun u =>
      lsState u = 2 ∧ u.reg64 (brBase + 0x58) = 0 ∧ u.bridge.records = [] ∧ u.bridge.diverged = [] ∧
      u.bridge.peerRecords = [] ∧
      (∀ t < 16, tget (fun _ => 0) u.bridge.seqBase t = (s.core t).arrIssued ∧ lsActive u t = true) ∧
      u = { s with regs := u.regs, bridge := u.bridge })) ∧
  (∀ (s : State) (t : Tile) (q : Nat) (sig : DWord) (rows : List Word), s.live = true →
    (lsActive s t = false → exec (.lockstepRecord t q sig rows) s = .next s) ∧
    (lsActive s t = true →
      ((lsRecords s t).find? (fun x => decide (x.seq = q)) = none → Gives (.lockstepRecord t q sig rows) s fun u =>
        lsPeerRecords u t = lsPeerRecords s t ++ [⟨q, sig, rows, 0, 0⟩] ∧
        q + 1 ≤ tget (fun _ => 0) u.bridge.peerSeq t ∧ u = { s with bridge := u.bridge }) ∧
      (∀ own, (lsRecords s t).find? (fun x => decide (x.seq = q)) = some own →
        Gives (.lockstepRecord t q sig rows) s fun u =>
          u.reg64 (brBase + 0x58) = (s.reg64 (brBase + 0x58) + 1) % 2 ^ 64 ∧
          (own.sig = sig → u.bridge.diverged = s.bridge.diverged ∧ lsActive u t = true) ∧
          (own.sig ≠ sig → t.val ∈ u.bridge.diverged ∧ lsActive u t = false ∧
            (s.fld (brBase + 0x10) 2 1 ≠ 1 → lsState u = 3 ∧ u.jobs = s.jobs)))))

/-! ### Power and temperature -/

/-- A power reading of 10 µs: the energy counter takes its energy with the remainder carried, the reading joins those
of the last 10 ms, an interval above SUST is counted for 2 s, and EXHAUSTED is entered and cleared at the counts of
R424. The limiter. In a control period with a demand the step rises by one up to 8; without one, after 10 ms without
demand or change, it falls by one; otherwise it stays (R425, R426). A new step brings its rest number and its sheds,
and proofs end at step 3 (R427). A fast period above the current limit or after a supply warning rests for 64 periods
(R428). -/
def Obligations.PowerManagement : Prop :=
  (∀ (s : State) (r : PowerReading), s.live = true →
    let p := readingSum r
    let e := s.power.energyNj + 10 * p
    let i := s.power.interval + 1
    let kept := s.power.overs.filter fun n => decide (i < n + 200000)
    Gives (.powerReading r) s fun u =>
      u.reg 0x4_0028 = BitVec.ofNat 32 p ∧ u.reg64 0x4_0030 = (s.reg64 0x4_0030 + e / 1000) % 2 ^ 64 ∧
      u.power.energyNj = e % 1000 ∧ u.power.interval = i ∧ u.power.recent = (p :: s.power.recent).take 1000 ∧
      u.power.overs = (if sustMw s < p then i :: kept else kept) ∧
      u.reg 0x4_002C = BitVec.ofNat 32 (u.power.overs.length / 100) ∧
      exhausted u = (if exhausted s then decide (50 * peakMs s < u.power.overs.length)
        else decide (max 1 (100 * peakMs s) ≤ u.power.overs.length)) ∧
      (exhausted s = false → exhausted u = true → limiterStep s = 0 → limiterStep u = 1) ∧
      (exhausted u = exhausted s → limiterStep u = limiterStep s) ∧ u.mem = s.mem ∧ u.cores = s.cores) ∧
  (∀ s : State, s.live = true →
    let k := limiterStep s
    let want := peakDemand s || thermalDemand s || supplyDemand s
    Gives .limiterControlPeriod s fun u =>
      limiterStep u = (if want then (if k < 8 then k + 1 else k) else if mayFall s then k - 1 else k) ∧
      u.flag 0x4_0020 5 = peakDemand s ∧
      (want = true → u.power.lastDemand = s.counter.toNat) ∧
      (limiterStep u ≠ k → u.fld 0x4_0020 11 8 = shedBits (limiterStep u) ∧
        u.fld 0x4_0020 23 16 = stepRest (limiterStep u) ∧ u.power.lastChange = s.counter.toNat ∧
        u.power.rest = max (stepRest (limiterStep u)) (fastRest s) ∧
        u.reg 0x4_0048 = BitVec.ofNat 32 (satAdd 32 (s.reg 0x4_0048).toNat 1) ∧
        ∀ t < 16, u.reg (tileBase t + 0x14) = tileShed (limiterStep u)) ∧
      (k = 2 → limiterStep u = 3 → ∀ c < 24, (u.proof c).running = none) ∧ u.mem = s.mem ∧ u.cores = s.cores) ∧
  (∀ (s : State) (mA : Nat), s.live = true →
    Gives (.fastLimiterPeriod mA) s fun u =>
      let on := 1000 * min 640 (s.fld 0x4_0010 9 0) < mA ∨ s.power.vddWarned = true
      (on → u.power.fastLeft = 64) ∧ (¬ on → u.power.fastLeft = s.power.fastLeft - 1) ∧
      u.power.vddWarned = false ∧ u.flag 0x4_0020 4 = decide (u.power.fastLeft ≠ 0) ∧
      u.power.rest = max (stepRest (limiterStep s)) (fastRest u) ∧
      u = { s with regs := u.regs, power := u.power })

/-- The supply monitor. A value of PWR_VMON whose reset threshold lies within 20 mV of the warning one is refused with
CFG_ERR (R420). One monitor below the reset threshold in two periods running resets the device (R422); otherwise the
lowest average stands in PWR_VDD, and one below the warning threshold begins the episode (R421). Temperature readings
stand in their registers. A thermal demand begins when a sensor is at its throttle point and ends when all are below
theirs by the hysteresis (R430, R431, R433); the junctions, or the stack, at 105 °C in two readings running trip the
device into reset (R432). -/
def Obligations.SupplyAndHeat : Prop :=
  (∀ (s : State) (src : Writer) (v : Word), s.live = true →
    Gives (.pwrVmonWrite src v) s fun u =>
      (resetMv v ≤ warnMv v - 20 → u.reg 0x4_000C = v &&& 0xFF ∧ u.reg 0x4_0020 = s.reg 0x4_0020) ∧
      (warnMv v - 20 < resetMv v → u.reg 0x4_000C = s.reg 0x4_000C ∧ u.flag 0x4_0020 24 = true) ∧
      u = { s with regs := u.regs }) ∧
  (∀ (s : State) (mv : List Nat), s.live = true → mv.length = 4 →
    let under (i : Nat) : Prop := ((mv.getD i 0 : Nat) : Int) < resetMv (s.reg 0x4_000C)
    ((∃ i < 4, under i ∧ s.power.vddLow.getD i false = true) →
      exec (.vddMonitorPeriod mv) s = exec (.hardReset .supply) s) ∧
    ((∀ i < 4, under i → s.power.vddLow.getD i false = false) → Gives (.vddMonitorPeriod mv) s fun u =>
      u.reg 0x4_0038 = BitVec.ofNat 32 (lowest mv) ∧
      (∀ i < 4, u.power.vddLow.getD i false = true ↔ under i) ∧
      ((lowest mv : Int) < warnMv (s.reg 0x4_000C) → supplyDemand u = true ∧ u.power.vddWarned = true) ∧
      (warnMv (s.reg 0x4_000C) ≤ lowest mv → supplyDemand s = false → supplyDemand u = false) ∧
      u.mem = s.mem ∧ u.cores = s.cores)) ∧
  (∀ s : State, s.live = true → s.host.inReset = false →
    let tripsTo (u : State) : Prop := u.power.tripped = true ∧ InReset u
    let judged (u : State) : Prop := thermalDemand u =
      (if thermalDemand s then !((List.range 25).all fun n => decide (tempOf u n < throttleOf s n - hystT s))
       else (List.range 25).any fun n => decide (throttleOf s n ≤ tempOf u n))
    (∀ temps : List Int, temps.length = 24 →
      (105 ≤ hottest temps → s.power.hotJunction = true → Gives (.thermalReading temps) s tripsTo) ∧
      (hottest temps < 105 ∨ s.power.hotJunction = false → Gives (.thermalReading temps) s fun u =>
        (∀ n < 24, -128 ≤ temps.getD n 0 → temps.getD n 0 < 128 → tempOf u n = temps.getD n 0) ∧ judged u ∧
        (u.power.hotJunction = true ↔ 105 ≤ hottest temps) ∧ tempOf u 24 = tempOf s 24 ∧
        u.power.wear100us = s.power.wear100us + (if 95 < hottest temps then 1 else 0) ∧
        u.mem = s.mem ∧ u.cores = s.cores)) ∧
    (∀ temp : BitVec 8,
      (105 ≤ temp.toInt → s.power.hotStack = true → Gives (.hbmTempRead temp) s tripsTo) ∧
      (temp.toInt < 105 ∨ s.power.hotStack = false → Gives (.hbmTempRead temp) s fun u =>
        tempOf u 24 = temp.toInt ∧ judged u ∧ (u.power.hotStack = true ↔ 105 ≤ temp.toInt) ∧
        (∀ n < 24, tempOf u n = tempOf s n) ∧ u.mem = s.mem ∧ u.cores = s.cores)))

/-! ### Resets -/

/-- What each reset keeps (R452, Table 16.6). A power-on reset leaves every register at its reset value; a hard reset,
which a tripped device ignores, keeps the causes and the wear registers; a warm one, level 4 and FLR keep the log and
the lock too, and leave the device out of reset with the roles of its tiles. All empty the queues and units; host
memory and boot flash are kept, every other memory byte reads as unwritten, and the commands that wait still wait. -/
def Obligations.ResetsKeep : Prop :=
  ∀ s : State,
    let cleared (u : State) : Prop := u.counter = 0 ∧ u.cores = [] ∧ u.arrays = [] ∧ u.rods = [] ∧ u.channels = [] ∧
      u.jobs = [] ∧ u.tallies = [] ∧ u.carriers = [] ∧ u.sub = {} ∧ u.cpl = {} ∧ u.bridge = {} ∧ u.pending = s.pending ∧
      ∀ a, u.byte a = if 2 ^ 47 ≤ a ∧ a < 2 ^ 48 ∨ 2 ^ 50 ≤ a then s.byte a else 0
    let kept (u : State) (pwr host : Word) (p : Nat → Bool) : Prop := u.reg 0x4_0080 = s.reg 0x4_0080 ||| (8 ||| pwr) ∧
      u.reg 0x1_001C = s.reg 0x1_001C ||| host ∧
      ∀ o, o ≠ 0x4_0080 → o ≠ 0x1_001C → u.reg o = if o = 0x4_0204 ∨ o = 0x4_020C ∨ p o = true then s.reg o else regReset o
    let log (o : Nat) : Bool := (0x1000 ≤ o && o < 0x3400) || o = 0x5_0000
    let warm (u : State) (host : Word) (p : Nat → Bool) : Prop := cleared u ∧ kept u 0 host p ∧ u.host.inReset = false ∧
      u.locked = s.locked ∧ u.integ.physOf = s.integ.physOf ∧ u.integ.role = s.integ.role ∧
      u.integ.overflow = s.integ.overflow
    (Gives .powerOnReset s fun u => cleared u ∧ InReset u ∧ u.power = {} ∧ ∀ o, u.reg o = regReset o) ∧
    (∀ i pwr host, ((i, pwr, host) : Instr × Word × Word) ∈ [(.hardReset .resetN, 0, 1), (.hardReset .perstN, 0, 2),
        (.hardReset .clock, 4, 0), (.clockFault, 4, 0), (.hardReset .supply, 2, 0)] →
      (s.power.tripped = true → exec i s = .next s) ∧
      (s.power.tripped = false → Gives i s fun u => cleared u ∧ InReset u ∧ kept u pwr host fun _ => false)) ∧
    (s.live = true → Gives (.warmReset false) s fun u => warm u 4 fun o => log o || (0xD_0000 ≤ o && o < 0xD_1000)) ∧
    (s.live = true → ∀ i ∈ [Instr.warmReset true, .deviceResetLevel4],
      (s.integ.resetWanted = false → exec i s = .next s) ∧
      (s.integ.resetWanted = true → Gives i s fun u => warm u 8 fun o => log o || (0xD_0000 ≤ o && o < 0xD_1000))) ∧
    (HostUp s → Gives .flr s fun u => warm u 16 log)

/-- Leaving reset: a device that has not tripped leaves it and begins link training, and after power-on its causes
show POR alone (R432, R452, R493); lock starts the clocks and the device counter at 0, or freezes the device when a
freeze source holds already (R335, R417, R468). A port without its reference clock stays down, the bridge port with
its link (R418). Configuration reads retry until boot has begun, abort while the device is frozen, and else return
their word (R417, R493, Table 17.1). -/
def Obligations.LeavingReset : Prop :=
  (∀ (s : State) (por : Bool), s.host.inReset = true →
    (s.power.tripped = true → exec (.resetRelease por) s = .next s) ∧
    (s.power.tripped = false → Gives (.resetRelease por) s fun u =>
      u.host.inReset = false ∧ u.host.linkTraining = true ∧
      (por = true → u.reg 0x4_0080 = 1 ∧ u.reg 0x1_001C = 0) ∧ (por = false → u.regs = s.regs) ∧
      u = { s with regs := u.regs, host := u.host })) ∧
  (∀ s : State, s.host.inReset = false → s.locked = false → s.dbg.frozen = false →
    Gives .pllLock s fun u => u.locked = true ∧ u.counter = 0 ∧ u.dbg.frozen = (s.dbg.pin || s.flag dbgBase 0) ∧
      u = { s with regs := u.regs, counter := u.counter, dbg := u.dbg }) ∧
  (∀ (s : State) (p : SerdesPort), Gives (.portReferenceClockLoss p) s fun u =>
    u.portDown p = true ∧ (∀ q, q ≠ p → u.portDown q = s.portDown q) ∧
    (p = .bridge → s.live = true → bridgeState u = 0) ∧
    (p ≠ .bridge ∨ s.live = false → u = { s with host := u.host })) ∧
  (∀ (s : State) (i : BitVec 10), hostReaches s = true →
    Gives (.configurationRequest i) s fun u => u = { s with host := u.host } ∧
      (s.dbg.frozen = true → u.host.reply = some ⟨.abort, []⟩) ∧
      (s.dbg.frozen = false → s.locked = false ∨ bootStage s = 0 → u.host.reply = some ⟨.retry, []⟩) ∧
      (s.dbg.frozen = false → s.locked = true → bootStage s ≠ 0 → Returns u (configWord i.toNat)))

/-! ### Boot and security -/

/-- Boot goes through the stages of Table 16.8 in order: the boot record that wins names the slot; a slot that fails
verification for a cause of Table 16.14 is followed by the other one, and a second failure leads to RECOVERY with its
cause; INIT ends with both Ledger pairs on the verified image (R453, R454). In RECOVERY a valid staged image is
installed in slot A and the device resets, and an invalid one leaves its cause (R455). What verification finds is the
model's free value wherever it rests on signatures (log entry 5). No memory word that Mequel reads holds an
error. -/
def Obligations.BootSteps : Prop :=
  (∀ s : State, s.live = true →
    (bootStage s = 0 → Gives (.boot .recordRead) s fun u => bootStage u = 1 ∧ u.mem = s.mem ∧ u.sec.pendingBit = false ∧
      ∀ k, recordCopy s = some k → u.sec.bootSel = (s.byte (bootRecordAt k + 4)).getLsbD 0 ∧
        u.sec.bootSeq = s.readLE (bootRecordAt k) 4) ∧
    (bootStage s = 1 → Gives (.boot .hbmTrained) s fun u => bootStage u = 2 ∧ u.sec = s.sec) ∧
    (bootStage s = 2 → ∀ ok, Gives (.boot (.copied ok)) s fun u => bootStage u = 3 ∧ u.sec.copied = some ok) ∧
    (bootStage s = 3 → ∀ ok, s.sec.copied = some ok → Gives (.boot .verified) s fun u =>
      let f := bootFault s ok
      u.mem = s.mem ∧ u.sec = { s.sec with copied := none } ∧
      (f = 0 → bootStage u = 4 ∧ u.flag 0x1_0010 4 = bootSlot s) ∧
      (f ≠ 0 → bootAlt s = false → bootStage u = 3 ∧ bootAlt u = true ∧ bootSlot u = !bootSlot s) ∧
      (f ≠ 0 → bootAlt s = true → bootStage u = 6 ∧ u.fld 0x1_0010 15 8 = f)) ∧
    (bootStage s = 4 → Gives (.boot .initDone) s fun u =>
      bootStage u = 5 ∧ u.sec.active = fwImage (fwBytes s (slotAt (bootSlot s))) (bootSlot s) ∧
      u.sec.standby = u.sec.active ∧ u.reg 0x0010_0024 = BitVec.ofNat 32 u.sec.active.version ∧
      u.flag 0x1_0024 0 = true ∧ u.mem = s.mem) ∧
    (5 ≤ bootStage s → ∀ e, exec (.boot e) s = .next s)) ∧
  (∀ (s : State) (n : Word), s.live = true → bootStage s = 6 → s.ecc = [] →
    let rd := fwBytes s stagingAt
    let f := if fwSize rd = n.toNat then fwFault s rd else 1
    (f = 0 → Gives (.hostRecovery n) s fun u => (∀ i < n.toNat, u.byte (slotAt false + i) = rd i) ∧ u.jobs = [] ∧
      bootStage u = 0 ∧ u.reg 0x4_0080 = s.reg 0x4_0080 ||| 8 ∧ u.sec.owner = s.sec.owner ∧ u.sec.keys = s.sec.keys) ∧
    (f ≠ 0 → Gives (.hostRecovery n) s fun u => bootStage u = 6 ∧ u.fld 0x1_0010 15 8 = f ∧ u.mem = s.mem ∧
      u = { s with regs := u.regs }))

/-- Key commands and attestation. A key object that passes the checks of R457 and R458, in the order of log entry 57
(the model's), claims the owner, enrols or revokes its slot's key and moves the store's sequence number; one that
fails leaves the key store as it is; either way the completion tells (Table 16.10). A report holds its 512 bytes and
the signature of their hash where the command says (R459, R460). No memory word holds an error. -/
def Obligations.SecurityCommands : Prop :=
  ∀ (s : State) (c : List Byte) (r : List (List Byte)), s.live = true → s.ecc = [] → s.sec.handover = none →
    s.sub.commands = c :: r →
    (∀ i code, ((i, code) : Instr × Nat) ∈ [(.ownerClaim, 0x40), (.keyEnroll, 0x41), (.keyRevoke, 0x42)] →
      entryCode c = code →
      let a := field c 8 8
      let rd (o : Nat) : Byte := (s.readBytes a 3904).getD o 0
      let st := if field c 0x10 4 ≠ 3904 || !inUserHbm a 3904 then 3 else keyStatus s code rd
      let key := (List.range 1793).map fun o => rd (8 + o)
      Gives i s fun u => u.sub.commands = r ∧ Posts s u code (entryTag c) st 0 ∧
        (st ≠ 0 → u.sec = s.sec) ∧
        (st = 0 → u.sec.storeSeq = rdN rd 4 4 ∧ u.flag 0x1_0024 2 = true ∧
          (code = 0x40 → u.sec.owner = some key ∧ u.sec.keys = s.sec.keys) ∧
          (code ≠ 0x40 → u.sec.owner = s.sec.owner ∧ ∀ n, tget (fun _ => none) u.sec.keys n =
            if n = (rd 1).toNat then (if code = 0x41 then some key else none) else tget (fun _ => none) s.sec.keys n))) ∧
    (entryCode c = 0x50 →
      let a := field c 0x28 8
      let body := attestBody s (bytesAt c 8 32) (s.freeBytes 64)
      Gives .attest s fun u => u.sub.commands = r ∧ u.sec = s.sec ∧
        (a % 4096 = 0 → inUserHbm a 2560 = true → Posts s u 0x50 (entryTag c) 0 2560 ∧ u.readBytes a 512 = body ∧
          u.readBytes (a + 8) 32 = bytesAt c 8 32 ∧
          u.readBytes (a + 512) 2048 = identitySig (Config.shake256 body 64)) ∧
        (a % 4096 ≠ 0 ∨ inUserHbm a 2560 = false → Posts s u 0x50 (entryTag c) 3 0))

/-- Firmware commands. An update stores a valid image in the slot that does not boot and keeps it for activation, and
refuses another with its cause; an activation of a compatible one sets PENDING and awaits the handover, which
exchanges the pairs; a commit raises the security minimum and makes the image the one that boots, a revert exchanges
the pairs back, and either ends PENDING (R461–R464). A failed pair is replaced by the standby, which ends a pending
activation; with no standby the device resets (R461; log entry 58). No memory word that an update reads holds an
error. -/
def Obligations.FirmwareCommands : Prop :=
  (∀ (s : State) (c : List Byte) (r : List (List Byte)), s.live = true → s.sec.handover = none →
    s.sub.commands = c :: r →
    let tag := entryTag c
    let x := s.sec.active
    (entryCode c = 0x48 → s.ecc = [] → ∀ flashOk,
      let rd := fwBytes s (field c 8 8)
      let n := field c 0x10 4
      let f := if fwSize rd = n then fwFault s rd else 1
      let slot := !s.sec.bootSel
      Gives (.fwUpdate flashOk) s fun u => u.sub.commands = r ∧ u.sec.active = x ∧
        (inUserHbm (field c 8 8) n = false → Posts s u 0x48 tag 3 0 ∧ u.sec = s.sec) ∧
        (inUserHbm (field c 8 8) n = true → f ≠ 0 →
          Posts s u 0x48 tag (if f = 4 then 0x12 else 0x10) (fwVersion rd) ∧ u.sec = s.sec) ∧
        (inUserHbm (field c 8 8) n = true → f = 0 → flashOk = true → Posts s u 0x48 tag 0 (fwVersion rd) ∧
          u.sec.updated = some (fwImage rd slot) ∧ ∀ i < n, u.byte (slotAt slot + i) = rd i) ∧
        (inUserHbm (field c 8 8) n = true → f = 0 → flashOk = false → Posts s u 0x48 tag 0x14 (fwVersion rd) ∧
          u.sec.updated = none)) ∧
    (entryCode c = 0x49 → Gives .fwActivate s fun u => u.sub.commands = r ∧ u.sec.active = x ∧
      (s.sec.updated = none → Posts s u 0x49 tag 1 0 ∧ u.sec = s.sec) ∧
      ∀ y, s.sec.updated = some y →
        (s.sec.pendingBit = true → Posts s u 0x49 tag 1 y.version ∧ u.sec = s.sec) ∧
        (s.sec.pendingBit = false → y.stateMin ≤ x.stateVer → x.stateVer ≤ y.stateVer →
          u.sec.pendingBit = true ∧ u.sec.standby = y ∧ u.sec.handover = some tag ∧ u.sec.bootSel = s.sec.bootSel ∧
          u.cpl = s.cpl) ∧
        (s.sec.pendingBit = false → x.stateVer < y.stateMin ∨ y.stateVer < x.stateVer →
          Posts s u 0x49 tag 0x15 y.version ∧ u.sec = s.sec)) ∧
    (entryCode c = 0x4A → Gives .fwCommit s fun u => u.sub.commands = r ∧ u.sec.active = x ∧
      (s.sec.pendingBit = false → Posts s u 0x4A tag 1 0 ∧ u.sec = s.sec) ∧
      (s.sec.pendingBit = true → Posts s u 0x4A tag 0 x.version ∧ u.sec.standby = x ∧ u.sec.updated = none ∧
        u.sec.bootSel = x.slot ∧ u.sec.pendingBit = false ∧ u.sec.secMin = max s.sec.secMin x.sec)) ∧
    (entryCode c = 0x4B → Gives .fwRevert s fun u => u.sub.commands = r ∧ u.sec.bootSel = s.sec.bootSel ∧
      u.sec.secMin = s.sec.secMin ∧
      (s.sec.pendingBit = false → Posts s u 0x4B tag 1 0 ∧ u.sec = s.sec) ∧
      (s.sec.pendingBit = true → Posts s u 0x4B tag 0 x.version ∧ u.sec.active = s.sec.standby ∧
        u.sec.standby = x ∧ u.sec.pendingBit = false))) ∧
  (∀ s : State, s.live = true →
    (s.sec.handover = none → exec .fwHandover s = .next s) ∧
    (∀ tag, s.sec.handover = some tag → Gives .fwHandover s fun u => u.sec.active = s.sec.standby ∧
      u.sec.standby = s.sec.active ∧ u.sec.handover = none ∧ Posts s u 0x49 tag 0 s.sec.standby.version) ∧
    (s.flag 0x0010_0020 1 = true → Gives .ledgerFailover s fun u => u.sec.active = s.sec.standby ∧
      u.sec.standby = s.sec.active ∧ u.sec.handover = none ∧
      (s.sec.handover = none → u.sec.pendingBit = false) ∧
      u.fld 0x0010_0020 31 16 = min 65535 (s.fld 0x0010_0020 31 16 + 1) ∧ u.flag 0x1_0024 1 = true ∧ u.jobs = s.jobs) ∧
    (s.flag 0x0010_0020 1 = false → Gives .ledgerFailover s fun u =>
      u.jobs = [] ∧ u.reg 0x4_0080 = s.reg 0x4_0080 ||| 8))

/-! ### The debug unit -/

/-- Freezing and thawing: a freeze source stops every unit at once and drives FREEZE_OUT_N low (R470), and once none is left a thaw starts them again
with the errors of the freeze edge entered and the time frozen counted (R466–R468, R471, R475). Halts are asked for
and ended tile by tile (R477). A snapshot holds every counter of Table 17.4 as it is (R476). -/
def Obligations.FreezeAndHalt : Prop :=
  (∀ (s : State) (pin : Bool), s.locked = true → s.host.inReset = false →
    Gives (.freeze pin) s fun u => u.dbg.frozen = true ∧ u.live = false ∧ u = { s with regs := u.regs, dbg := u.dbg } ∧
      (s.flag dbgBase 1 = true → outputLevel u .freezeOutN = some .low)) ∧
  (∀ s : State, s.dbg.frozen = true → s.portDown .bridge = false →
    Gives .thaw s fun u => u.dbg.frozen = false ∧ u.dbg.pin = false ∧ u.integ.deferred = [] ∧
      u.reg64 (dbgBase + 0x3C) = s.dbg.frozenFor / 8 % 2 ^ 64 ∧ (∀ n < 4, tbArmed u n = true) ∧
      u.mem = s.mem ∧ u.cores = s.cores ∧ u.tallies = s.tallies ∧ u.counter = s.counter ∧
      (s.integ.deferred = [] → u.integ = s.integ)) ∧
  (∀ (s : State) (v : Word), s.host.inReset = false →
    Gives (.dbgHaltWrite v) s fun u => u.reg (dbgBase + 0xC) = v &&& 0xFFFF ∧ ∀ t < 16,
      (bit v t = bit (s.reg (dbgBase + 0xC)) t → u.core t = s.core t) ∧
      (bit v t = true → bit (s.reg (dbgBase + 0xC)) t = false → (u.core t).irq.getLsbD 0 = true) ∧
      (bit v t = false → bit (s.reg (dbgBase + 0xC)) t = true → (u.core t).irq.getLsbD 0 = false ∧
        ((s.core t).status = .held → (s.core t).heldBy = some 0 → s.live = true → (u.core t).status = .run))) ∧
  (∀ s : State, s.host.inReset = false →
    Gives .dbgCsnapTake s fun u => u = { s with dbg := u.dbg } ∧
      ∀ o ∈ snapOffsets, tget (fun _ => 0) u.dbg.snapshot o = counterWord s o)

/-- The readout engine and the TAP. DBG_DATA returns the next word of a memory space of a frozen device and moves on
by 4, and of a device that runs nothing but an error bit. A stream sends a word of its frame in 16 beats: header, data and
CRC, and a thaw cuts it short (R472–R474). The IDCODE, BYPASS and boundary scans shift out what Table 17.5 says; DBG_REG reads the register that the
next scan shifts out; the TAP's reset touches nothing else (R481). What a boundary scan captures is the model's free
value (log entry 3). -/
def Obligations.ReadoutAndTap : Prop :=
  (∀ s : State, HostUp s ∨ s.dbg.frozen = true ∧ hostReaches s = true →
    let a := s.reg64 (dbgBase + 0x24)
    let sp := s.fld (dbgBase + 0x20) 2 0
    let next (u : State) : Prop := u.reg64 (dbgBase + 0x24) = (a + 4) % 2 ^ 64
    (∀ w, s.dbg.frozen = true → readoutStore sp (a / 4 * 4) = some w →
      Gives .dbgDataRead s fun u => Returns u (BitVec.ofNat 32 (s.readLE w 4)) ∧ next u ∧ u.mem = s.mem) ∧
    (s.dbg.frozen = false → 1 ≤ sp → sp ≤ 6 →
      Gives .dbgDataRead s fun u => Returns u 0 ∧ next u ∧ u.flag (dbgBase + 4) 3 = true ∧ u.mem = s.mem)) ∧
  (∀ (s : State) (len : Word), s.host.inReset = false → len.toNat % 4 = 0 → len ≠ 0 →
    let sp := s.fld (dbgBase + 0x20) 2 0
    let a := s.reg64 (dbgBase + 0x24)
    (s.dbg.frozen = false → 1 ≤ sp → sp ≤ 6 → Gives (.dbgStreamLen len) s fun u =>
      u.sent = s.sent ∧ u.flag (dbgBase + 4) 3 = true) ∧
    (s.dbg.frozen = true → s.dbg.stream = none → Gives (.dbgStreamLen len) s fun u =>
      u = s.onDbg fun d => { d with stream := some ⟨sp, a, len.toNat, [], 0⟩ }) ∧
    (s.dbg.frozen = true → s.dbg.stream ≠ none → exec (.dbgStreamLen len) s = .next s)) ∧
  (∀ (s : State) (x : DebugStream), s.dbg.frozen = true → s.pending = [] → s.dbg.stream = some x →
    let n := x.bytes.length
    let grows (u : State) (l : List Byte) : Prop := u.sent = s.sent ∧ u.dbg.stream = some { x with bytes := x.bytes ++ l, age := 0 }
    ∃ u, step s = .next u ∧ u.mem = s.mem ∧
      (x.age < 15 → u.sent = s.sent ∧ u.dbg.stream = some { x with age := x.age + 1 }) ∧
      (15 ≤ x.age → n < 16 → grows u (bytesAt
        ([0xA5, BitVec.ofNat 8 x.space] ++ natLE 6 x.addr ++ natLE 4 x.len ++ natLE 4 0) n 4)) ∧
      (15 ≤ x.age → 16 ≤ n → n < 16 + x.len →
        (∀ w, readoutStore x.space ((x.addr + (n - 16)) / 4 * 4) = some w →
          grows u (natLE 4 (BitVec.ofNat 32 (s.readLE w 4)).toNat))) ∧
      (15 ≤ x.age → 16 + x.len ≤ n → u.dbg.stream = none ∧
        u.sent = s.sent ++ [.debugFrame (x.bytes ++ natLE 4 (crc32c x.bytes))])) ∧
  (∀ (s : State) (x : DebugStream), s.dbg.frozen = true → s.portDown .bridge = false → s.dbg.stream = some x →
    x.space ≠ 0 → Gives .thaw s fun u => u.dbg.stream = none ∧
      (s.integ.deferred = [] → u.sent = s.sent ++ [.debugFrame x.bytes])) ∧
  (∀ s : State, let quiet (u : State) : Prop := u = { s with dbg := u.dbg, free := u.free }
    (Gives .jtagIdcode s fun u => quiet u ∧ u.dbg.scanOut = bitList 32 0x124165C7 ∧ u.dbg.extest = false) ∧
    (∀ b, Gives (.jtagBypass b) s fun u => quiet u ∧ u.dbg.scanOut = [false, b]) ∧
    (∀ l, Gives (.jtagExtest l) s fun u => quiet u ∧ u.dbg.boundary = l ∧ u.dbg.extest = true ∧
      u.dbg.scanOut.length = l.length) ∧
    (∀ l, Gives (.jtagSamplePreload l) s fun u => quiet u ∧ u.dbg.boundary = l ∧ u.dbg.extest = false ∧
      u.dbg.scanOut.length = l.length) ∧
    (Gives .tapReset s fun u => quiet u ∧ u.dbg.ir = 2 ∧ u.dbg.extest = false) ∧
    (s.host.inReset = false → ∀ (i : BitVec 16) (v : Word),
      (i ≠ 11 → Gives (.jtagDbgReg false i v) s fun u => u.dbg.jtagResult = regView s (dbgBase + 4 * i.toNat) ∧
        u.dbg.scanOut.take 32 = bitList 32 s.dbg.jtagResult.toNat ∧ u.mem = s.mem) ∧
      (i ∈ [(8 : BitVec 16), 9, 10] → Gives (.jtagDbgReg true i v) s fun u =>
        u.reg (dbgBase + 4 * i.toNat) = plainWord (dbgBase + 4 * i.toNat) (s.reg (dbgBase + 4 * i.toNat)) v ∧
        u.mem = s.mem)))

/-! ### Reset and what stays so -/

/-- The device right after reset is held in reset with its memory in canonical form, no job resident, no tally counted
and every register of the tables at its reset value; tallies 16,256 and above are Mequel's (Table 9.5), tile 16 is the
spare (log entry 11, the model's choice), and no command waits. -/
def Obligations.ResetState : Prop :=
  InReset State.reset ∧ MemOk State.reset ∧ State.reset.pending = [] ∧ State.reset.power.tripped = false ∧
    (∀ o, State.reset.reg o = regReset o) ∧ (∀ n, State.reset.tally n = ⟨0, false, false, if 16256 ≤ n then 4 else 7⟩) ∧
    (∀ k, (State.reset.job k).state = .empty) ∧ (∀ t, (State.reset.core t).status = .idle) ∧
    State.reset.spare = some 16 ∧ (∀ t, State.reset.physOf t = t) ∧ bootStage State.reset = 0 ∧ ∀ a, State.reset.byte a = 0

/-- Held in reset the device does nothing: whatever comes but the release of reset leaves it there, its counter at 0,
its cores and tallies untouched and no job resident (R417, R452, R493). A thermal trip ends only with the power: no
command but a power-on reset takes the device out of it, the release of reset included (R432). -/
def Obligations.ResetAndTripHold : Prop :=
  (∀ s t : State, InReset s → (∀ por, s.pending.head? ≠ some (.resetRelease por)) → step s = .next t → InReset t) ∧
  (∀ s t : State, InReset s → s.power.tripped = true → s.pending.head? ≠ some .powerOnReset → step s = .next t →
    InReset t ∧ t.power.tripped = true)

/-- A frozen device stands still: whatever comes but a thaw, a reset and the debug unit's own registers leaves memory,
cores, arrays, rods, channels, tallies, jobs, carriers, time and every error as they are, and the device frozen (R467,
Table 17.1). -/
def Obligations.FrozenHolds : Prop :=
  ∀ s t : State, s.dbg.frozen = true → (∀ c, s.pending.head? = some c → wakes c = false) → step s = .next t →
    Still s t ∧ t.dbg.frozen = true
end

