-- ==== Sys2Proof/Laws/Tab.lean ====
section
/-! SUPPORT. Tab.lean: reading after writing a sparse table, and the canonical form kept by its operations. -/

namespace Sys2Proof.Machine

variable {α : Type}

@[simp] theorem tget_nil (d : Nat → α) (i : Nat) : tget d [] i = d i := rfl

theorem tget_cons (d : Nat → α) (j : Nat) (w : α) (r : Tab α) (i : Nat) :
    tget d ((j, w) :: r) i = if i = j then w else tget d r i := rfl

theorem tget_tput_same (d : Nat → α) (i : Nat) (v : α) (t : Tab α) (h : ∀ e ∈ t, e.1 ≠ i) :
    tget d (tput i v t) i = v := by
  induction t with
  | nil => simp [tput, tget]
  | cons e r ih =>
    obtain ⟨j, w⟩ := e
    have hj : i ≠ j := fun q => h (j, w) (by simp) q.symm
    by_cases hl : i < j
    · simp [tput, hl, tget]
    · simp [tput, hl, tget, hj, ih fun e he => h e (by simp [he])]

theorem tget_tput_ne (d : Nat → α) (i k : Nat) (v : α) (t : Tab α) (h : k ≠ i) :
    tget d (tput i v t) k = tget d t k := by
  induction t with
  | nil => simp [tput, tget, h]
  | cons e r ih =>
    obtain ⟨j, w⟩ := e
    by_cases hl : i < j
    · simp [tput, hl, tget, h]
    · simp [tput, hl, tget, ih]

theorem tget_filter_same (d : Nat → α) (i : Nat) (t : Tab α) : tget d (t.filter fun e => e.1 ≠ i) i = d i := by
  induction t with
  | nil => rfl
  | cons e r ih =>
    obtain ⟨j, w⟩ := e
    by_cases hj : j = i
    · simpa [List.filter, hj] using ih
    · have : i ≠ j := fun q => hj q.symm
      simpa [List.filter, hj, tget, this] using ih

/-- Removing indices that a test picks leaves the others as they read. -/
theorem tget_filter_keep (d : Nat → α) (p : Nat → Bool) (k : Nat) (t : Tab α) (h : p k = true) :
    tget d (t.filter fun e => p e.1) k = tget d t k := by
  induction t with
  | nil => rfl
  | cons e r ih =>
    obtain ⟨j, w⟩ := e
    by_cases hj : p j = true
    · simp [List.filter, hj, tget, ih]
    · have hk : k ≠ j := fun q => hj (q ▸ h)
      simp [List.filter, hj, tget, hk, ih]

/-- Removed indices read as unlisted. -/
theorem tget_filter_drop (d : Nat → α) (p : Nat → Bool) (k : Nat) (t : Tab α) (h : p k = false) :
    tget d (t.filter fun e => p e.1) k = d k := by
  induction t with
  | nil => rfl
  | cons e r ih =>
    obtain ⟨j, w⟩ := e
    by_cases hj : p j = true
    · have hk : k ≠ j := fun q => by simp [q, hj] at h
      simp [List.filter, hj, tget, hk, ih]
    · simp [List.filter, hj, ih]

/-- A written index reads as written. -/
theorem tget_tset_same [DecidableEq α] (d : Nat → α) (t : Tab α) (i : Nat) (v : α) : tget d (tset d t i v) i = v := by
  by_cases h : v = d i
  · simpa [tset, h] using tget_filter_same d i t
  · simp only [tset, h, if_false]
    exact tget_tput_same d i v _ fun e he => by simpa using (List.mem_filter.mp he).2

/-- Any other index reads as before. -/
theorem tget_tset_ne [DecidableEq α] (d : Nat → α) (t : Tab α) {i k : Nat} (h : k ≠ i) (v : α) :
    tget d (tset d t i v) k = tget d t k := by
  have hf : tget d (t.filter fun e => e.1 ≠ i) k = tget d t k := by
    simpa using tget_filter_keep d (fun j => decide (j ≠ i)) k t (by simpa using h)
  by_cases hv : v = d i
  · simpa [tset, hv] using hf
  · simp only [tset, hv, if_false]
    rw [tget_tput_ne d i k v _ h, hf]

theorem tget_tclear (d : Nat → α) (t : Tab α) (lo hi k : Nat) :
    tget d (tclear t lo hi) k = if lo ≤ k ∧ k < hi then d k else tget d t k := by
  by_cases h : lo ≤ k ∧ k < hi
  · rw [if_pos h]
    exact tget_filter_drop d (fun j => decide (j < lo) || decide (hi ≤ j)) k t (by simp; omega)
  · rw [if_neg h]
    exact tget_filter_keep d (fun j => decide (j < lo) || decide (hi ≤ j)) k t (by simp; omega)

/-! ### Canonical form -/

/-- The form as a statement: every index lies above `b` and below those after it, and no value is the unlisted one. -/
def tabAbove (d : Nat → α) : Option Nat → Tab α → Prop
  | _, [] => True
  | b, (i, v) :: r => (∀ k ∈ b, k < i) ∧ v ≠ d i ∧ tabAbove d (some i) r

theorem twf_iff [DecidableEq α] (d : Nat → α) (t : Tab α) : twf d t = true ↔ tabAbove d none t := by
  have gen : ∀ (t : Tab α) (b : Option Nat),
      ((match t with | [] => true | (j, _) :: _ => decide (∀ k ∈ b, k < j)) && twf d t) = true ↔ tabAbove d b t := by
    intro t
    induction t with
    | nil => intro b; simp [twf, tabAbove]
    | cons e r ih =>
      intro b
      obtain ⟨i, v⟩ := e
      have h := ih (some i)
      cases r with
      | nil => simp [twf, tabAbove]
      | cons e' r' =>
        obtain ⟨j, w⟩ := e'
        simp only [tabAbove, twf, Bool.and_eq_true, decide_eq_true_eq] at h ⊢
        rw [← h]
        simp
        tauto
  have := gen t none
  cases t with
  | nil => simp [twf, tabAbove]
  | cons e r => obtain ⟨i, v⟩ := e; simpa using this

theorem tabAbove_filter (d : Nat → α) (p : Nat × α → Bool) (t : Tab α) :
    ∀ b, tabAbove d b t → tabAbove d b (t.filter p) := by
  induction t with
  | nil => intro b h; trivial
  | cons e r ih =>
    intro b h
    obtain ⟨i, v⟩ := e
    obtain ⟨h1, h2, h3⟩ := h
    by_cases hp : p (i, v) = true
    · simp only [List.filter, hp]
      exact ⟨h1, h2, ih _ h3⟩
    · simp only [List.filter, hp]
      refine ih b ?_
      cases r with
      | nil => trivial
      | cons e' r' =>
        obtain ⟨j, w⟩ := e'
        obtain ⟨g1, g2, g3⟩ := h3
        exact ⟨fun k hk => lt_trans (h1 k hk) (g1 i rfl), g2, g3⟩

theorem tabAbove_tput (d : Nat → α) (i : Nat) (v : α) (hv : v ≠ d i) (t : Tab α) :
    ∀ b, (∀ k ∈ b, k < i) → (∀ e ∈ t, e.1 ≠ i) → tabAbove d b t → tabAbove d b (tput i v t) := by
  induction t with
  | nil => intro b hb _ _; exact ⟨hb, hv, trivial⟩
  | cons e r ih =>
    intro b hb hn h
    obtain ⟨j, w⟩ := e
    obtain ⟨h1, h2, h3⟩ := h
    by_cases hl : i < j
    · simp only [tput, hl, if_true]
      exact ⟨hb, hv, fun k hk => by simp at hk; omega, h2, h3⟩
    · simp only [tput, hl, if_false]
      have hj : j ≠ i := hn (j, w) (by simp)
      exact ⟨h1, h2, ih _ (fun k hk => by simp at hk; omega) (fun e he => hn e (by simp [he])) h3⟩

/-- Writing keeps the canonical form. -/
theorem twf_tset [DecidableEq α] (d : Nat → α) (t : Tab α) (i : Nat) (v : α) (h : twf d t = true) :
    twf d (tset d t i v) = true := by
  rw [twf_iff] at h ⊢
  have hf := tabAbove_filter d (fun e => decide (e.1 ≠ i)) t none h
  by_cases hv : v = d i
  · simpa [tset, hv] using hf
  · simp only [tset, hv, if_false]
    exact tabAbove_tput d i v hv _ none (by simp) (fun e he => by simpa using (List.mem_filter.mp he).2) hf

/-- Removing entries keeps the canonical form. -/
theorem twf_filter [DecidableEq α] (d : Nat → α) (t : Tab α) (p : Nat × α → Bool) (h : twf d t = true) :
    twf d (t.filter p) = true := by
  rw [twf_iff] at h ⊢
  exact tabAbove_filter d p t none h

theorem twf_tclear [DecidableEq α] (d : Nat → α) (t : Tab α) (lo hi : Nat) (h : twf d t = true) :
    twf d (tclear t lo hi) = true := twf_filter d t _ h

end Sys2Proof.Machine
end

