-- ==== Sys2Proof/Laws/State.lean ====
section
/-! SUPPORT. State.lean: what each named write of State leaves alone, field by field and read by read, and what it makes
the read of its own field. -/

namespace Sys2Proof.Machine.State

variable (s : State)

/-! ### Fields that a write leaves alone -/

@[simp] theorem setReg_shadows (o : Nat) (w : Word) : (s.setReg o w).shadows = s.shadows := rfl
@[simp] theorem setReg_acct (o : Nat) (w : Word) : (s.setReg o w).acct = s.acct := rfl
@[simp] theorem setReg_mem (o : Nat) (w : Word) : (s.setReg o w).mem = s.mem := rfl
@[simp] theorem setReg_ecc (o : Nat) (w : Word) : (s.setReg o w).ecc = s.ecc := rfl
@[simp] theorem setReg_writebacks (o : Nat) (w : Word) : (s.setReg o w).writebacks = s.writebacks := rfl
@[simp] theorem setReg_scrub (o : Nat) (w : Word) : (s.setReg o w).scrub = s.scrub := rfl
@[simp] theorem setReg_counter (o : Nat) (w : Word) : (s.setReg o w).counter = s.counter := rfl
@[simp] theorem setReg_drawSeed (o : Nat) (w : Word) : (s.setReg o w).drawSeed = s.drawSeed := rfl
@[simp] theorem setReg_free (o : Nat) (w : Word) : (s.setReg o w).free = s.free := rfl
@[simp] theorem setReg_bases (o : Nat) (w : Word) : (s.setReg o w).bases = s.bases := rfl
@[simp] theorem setReg_tallies (o : Nat) (w : Word) : (s.setReg o w).tallies = s.tallies := rfl
@[simp] theorem setReg_cores (o : Nat) (w : Word) : (s.setReg o w).cores = s.cores := rfl
@[simp] theorem setReg_arrays (o : Nat) (w : Word) : (s.setReg o w).arrays = s.arrays := rfl
@[simp] theorem setReg_rods (o : Nat) (w : Word) : (s.setReg o w).rods = s.rods := rfl
@[simp] theorem setReg_engines (o : Nat) (w : Word) : (s.setReg o w).engines = s.engines := rfl
@[simp] theorem setReg_regWrites (o : Nat) (w : Word) : (s.setReg o w).regWrites = s.regWrites := rfl
@[simp] theorem setReg_channels (o : Nat) (w : Word) : (s.setReg o w).channels = s.channels := rfl
@[simp] theorem setReg_jobs (o : Nat) (w : Word) : (s.setReg o w).jobs = s.jobs := rfl
@[simp] theorem setReg_nextJob (o : Nat) (w : Word) : (s.setReg o w).nextJob = s.nextJob := rfl
@[simp] theorem setReg_lastRun (o : Nat) (w : Word) : (s.setReg o w).lastRun = s.lastRun := rfl
@[simp] theorem setReg_carriers (o : Nat) (w : Word) : (s.setReg o w).carriers = s.carriers := rfl
@[simp] theorem setReg_harq (o : Nat) (w : Word) : (s.setReg o w).harq = s.harq := rfl
@[simp] theorem setReg_decodes (o : Nat) (w : Word) : (s.setReg o w).decodes = s.decodes := rfl
@[simp] theorem setReg_decodeNo (o : Nat) (w : Word) : (s.setReg o w).decodeNo = s.decodeNo := rfl
@[simp] theorem setReg_links (o : Nat) (w : Word) : (s.setReg o w).links = s.links := rfl
@[simp] theorem setReg_sub (o : Nat) (w : Word) : (s.setReg o w).sub = s.sub := rfl
@[simp] theorem setReg_cpl (o : Nat) (w : Word) : (s.setReg o w).cpl = s.cpl := rfl
@[simp] theorem setReg_host (o : Nat) (w : Word) : (s.setReg o w).host = s.host := rfl
@[simp] theorem setReg_sent (o : Nat) (w : Word) : (s.setReg o w).sent = s.sent := rfl
@[simp] theorem setReg_integ (o : Nat) (w : Word) : (s.setReg o w).integ = s.integ := rfl
@[simp] theorem setReg_bridge (o : Nat) (w : Word) : (s.setReg o w).bridge = s.bridge := rfl
@[simp] theorem setReg_power (o : Nat) (w : Word) : (s.setReg o w).power = s.power := rfl
@[simp] theorem setReg_sec (o : Nat) (w : Word) : (s.setReg o w).sec = s.sec := rfl
@[simp] theorem setReg_dbg (o : Nat) (w : Word) : (s.setReg o w).dbg = s.dbg := rfl
@[simp] theorem setReg_pending (o : Nat) (w : Word) : (s.setReg o w).pending = s.pending := rfl

@[simp] theorem setFld_shadows (o hi lo v : Nat) : (s.setFld o hi lo v).shadows = s.shadows := rfl
@[simp] theorem setFld_acct (o hi lo v : Nat) : (s.setFld o hi lo v).acct = s.acct := rfl
@[simp] theorem setFld_mem (o hi lo v : Nat) : (s.setFld o hi lo v).mem = s.mem := rfl
@[simp] theorem setFld_ecc (o hi lo v : Nat) : (s.setFld o hi lo v).ecc = s.ecc := rfl
@[simp] theorem setFld_writebacks (o hi lo v : Nat) : (s.setFld o hi lo v).writebacks = s.writebacks := rfl
@[simp] theorem setFld_scrub (o hi lo v : Nat) : (s.setFld o hi lo v).scrub = s.scrub := rfl
@[simp] theorem setFld_counter (o hi lo v : Nat) : (s.setFld o hi lo v).counter = s.counter := rfl
@[simp] theorem setFld_drawSeed (o hi lo v : Nat) : (s.setFld o hi lo v).drawSeed = s.drawSeed := rfl
@[simp] theorem setFld_free (o hi lo v : Nat) : (s.setFld o hi lo v).free = s.free := rfl
@[simp] theorem setFld_bases (o hi lo v : Nat) : (s.setFld o hi lo v).bases = s.bases := rfl
@[simp] theorem setFld_tallies (o hi lo v : Nat) : (s.setFld o hi lo v).tallies = s.tallies := rfl
@[simp] theorem setFld_cores (o hi lo v : Nat) : (s.setFld o hi lo v).cores = s.cores := rfl
@[simp] theorem setFld_arrays (o hi lo v : Nat) : (s.setFld o hi lo v).arrays = s.arrays := rfl
@[simp] theorem setFld_rods (o hi lo v : Nat) : (s.setFld o hi lo v).rods = s.rods := rfl
@[simp] theorem setFld_engines (o hi lo v : Nat) : (s.setFld o hi lo v).engines = s.engines := rfl
@[simp] theorem setFld_regWrites (o hi lo v : Nat) : (s.setFld o hi lo v).regWrites = s.regWrites := rfl
@[simp] theorem setFld_channels (o hi lo v : Nat) : (s.setFld o hi lo v).channels = s.channels := rfl
@[simp] theorem setFld_jobs (o hi lo v : Nat) : (s.setFld o hi lo v).jobs = s.jobs := rfl
@[simp] theorem setFld_nextJob (o hi lo v : Nat) : (s.setFld o hi lo v).nextJob = s.nextJob := rfl
@[simp] theorem setFld_lastRun (o hi lo v : Nat) : (s.setFld o hi lo v).lastRun = s.lastRun := rfl
@[simp] theorem setFld_carriers (o hi lo v : Nat) : (s.setFld o hi lo v).carriers = s.carriers := rfl
@[simp] theorem setFld_harq (o hi lo v : Nat) : (s.setFld o hi lo v).harq = s.harq := rfl
@[simp] theorem setFld_decodes (o hi lo v : Nat) : (s.setFld o hi lo v).decodes = s.decodes := rfl
@[simp] theorem setFld_decodeNo (o hi lo v : Nat) : (s.setFld o hi lo v).decodeNo = s.decodeNo := rfl
@[simp] theorem setFld_links (o hi lo v : Nat) : (s.setFld o hi lo v).links = s.links := rfl
@[simp] theorem setFld_sub (o hi lo v : Nat) : (s.setFld o hi lo v).sub = s.sub := rfl
@[simp] theorem setFld_cpl (o hi lo v : Nat) : (s.setFld o hi lo v).cpl = s.cpl := rfl
@[simp] theorem setFld_host (o hi lo v : Nat) : (s.setFld o hi lo v).host = s.host := rfl
@[simp] theorem setFld_sent (o hi lo v : Nat) : (s.setFld o hi lo v).sent = s.sent := rfl
@[simp] theorem setFld_integ (o hi lo v : Nat) : (s.setFld o hi lo v).integ = s.integ := rfl
@[simp] theorem setFld_bridge (o hi lo v : Nat) : (s.setFld o hi lo v).bridge = s.bridge := rfl
@[simp] theorem setFld_power (o hi lo v : Nat) : (s.setFld o hi lo v).power = s.power := rfl
@[simp] theorem setFld_sec (o hi lo v : Nat) : (s.setFld o hi lo v).sec = s.sec := rfl
@[simp] theorem setFld_dbg (o hi lo v : Nat) : (s.setFld o hi lo v).dbg = s.dbg := rfl
@[simp] theorem setFld_pending (o hi lo v : Nat) : (s.setFld o hi lo v).pending = s.pending := rfl

@[simp] theorem orReg_shadows (o : Nat) (w : Word) : (s.orReg o w).shadows = s.shadows := rfl
@[simp] theorem orReg_acct (o : Nat) (w : Word) : (s.orReg o w).acct = s.acct := rfl
@[simp] theorem orReg_mem (o : Nat) (w : Word) : (s.orReg o w).mem = s.mem := rfl
@[simp] theorem orReg_ecc (o : Nat) (w : Word) : (s.orReg o w).ecc = s.ecc := rfl
@[simp] theorem orReg_writebacks (o : Nat) (w : Word) : (s.orReg o w).writebacks = s.writebacks := rfl
@[simp] theorem orReg_scrub (o : Nat) (w : Word) : (s.orReg o w).scrub = s.scrub := rfl
@[simp] theorem orReg_counter (o : Nat) (w : Word) : (s.orReg o w).counter = s.counter := rfl
@[simp] theorem orReg_drawSeed (o : Nat) (w : Word) : (s.orReg o w).drawSeed = s.drawSeed := rfl
@[simp] theorem orReg_free (o : Nat) (w : Word) : (s.orReg o w).free = s.free := rfl
@[simp] theorem orReg_bases (o : Nat) (w : Word) : (s.orReg o w).bases = s.bases := rfl
@[simp] theorem orReg_tallies (o : Nat) (w : Word) : (s.orReg o w).tallies = s.tallies := rfl
@[simp] theorem orReg_cores (o : Nat) (w : Word) : (s.orReg o w).cores = s.cores := rfl
@[simp] theorem orReg_arrays (o : Nat) (w : Word) : (s.orReg o w).arrays = s.arrays := rfl
@[simp] theorem orReg_rods (o : Nat) (w : Word) : (s.orReg o w).rods = s.rods := rfl
@[simp] theorem orReg_engines (o : Nat) (w : Word) : (s.orReg o w).engines = s.engines := rfl
@[simp] theorem orReg_regWrites (o : Nat) (w : Word) : (s.orReg o w).regWrites = s.regWrites := rfl
@[simp] theorem orReg_channels (o : Nat) (w : Word) : (s.orReg o w).channels = s.channels := rfl
@[simp] theorem orReg_jobs (o : Nat) (w : Word) : (s.orReg o w).jobs = s.jobs := rfl
@[simp] theorem orReg_nextJob (o : Nat) (w : Word) : (s.orReg o w).nextJob = s.nextJob := rfl
@[simp] theorem orReg_lastRun (o : Nat) (w : Word) : (s.orReg o w).lastRun = s.lastRun := rfl
@[simp] theorem orReg_carriers (o : Nat) (w : Word) : (s.orReg o w).carriers = s.carriers := rfl
@[simp] theorem orReg_harq (o : Nat) (w : Word) : (s.orReg o w).harq = s.harq := rfl
@[simp] theorem orReg_decodes (o : Nat) (w : Word) : (s.orReg o w).decodes = s.decodes := rfl
@[simp] theorem orReg_decodeNo (o : Nat) (w : Word) : (s.orReg o w).decodeNo = s.decodeNo := rfl
@[simp] theorem orReg_links (o : Nat) (w : Word) : (s.orReg o w).links = s.links := rfl
@[simp] theorem orReg_sub (o : Nat) (w : Word) : (s.orReg o w).sub = s.sub := rfl
@[simp] theorem orReg_cpl (o : Nat) (w : Word) : (s.orReg o w).cpl = s.cpl := rfl
@[simp] theorem orReg_host (o : Nat) (w : Word) : (s.orReg o w).host = s.host := rfl
@[simp] theorem orReg_sent (o : Nat) (w : Word) : (s.orReg o w).sent = s.sent := rfl
@[simp] theorem orReg_integ (o : Nat) (w : Word) : (s.orReg o w).integ = s.integ := rfl
@[simp] theorem orReg_bridge (o : Nat) (w : Word) : (s.orReg o w).bridge = s.bridge := rfl
@[simp] theorem orReg_power (o : Nat) (w : Word) : (s.orReg o w).power = s.power := rfl
@[simp] theorem orReg_sec (o : Nat) (w : Word) : (s.orReg o w).sec = s.sec := rfl
@[simp] theorem orReg_dbg (o : Nat) (w : Word) : (s.orReg o w).dbg = s.dbg := rfl
@[simp] theorem orReg_pending (o : Nat) (w : Word) : (s.orReg o w).pending = s.pending := rfl

@[simp] theorem bump_shadows (o k : Nat) : (s.bump o k).shadows = s.shadows := rfl
@[simp] theorem bump_acct (o k : Nat) : (s.bump o k).acct = s.acct := rfl
@[simp] theorem bump_mem (o k : Nat) : (s.bump o k).mem = s.mem := rfl
@[simp] theorem bump_ecc (o k : Nat) : (s.bump o k).ecc = s.ecc := rfl
@[simp] theorem bump_writebacks (o k : Nat) : (s.bump o k).writebacks = s.writebacks := rfl
@[simp] theorem bump_scrub (o k : Nat) : (s.bump o k).scrub = s.scrub := rfl
@[simp] theorem bump_counter (o k : Nat) : (s.bump o k).counter = s.counter := rfl
@[simp] theorem bump_drawSeed (o k : Nat) : (s.bump o k).drawSeed = s.drawSeed := rfl
@[simp] theorem bump_free (o k : Nat) : (s.bump o k).free = s.free := rfl
@[simp] theorem bump_bases (o k : Nat) : (s.bump o k).bases = s.bases := rfl
@[simp] theorem bump_tallies (o k : Nat) : (s.bump o k).tallies = s.tallies := rfl
@[simp] theorem bump_cores (o k : Nat) : (s.bump o k).cores = s.cores := rfl
@[simp] theorem bump_arrays (o k : Nat) : (s.bump o k).arrays = s.arrays := rfl
@[simp] theorem bump_rods (o k : Nat) : (s.bump o k).rods = s.rods := rfl
@[simp] theorem bump_engines (o k : Nat) : (s.bump o k).engines = s.engines := rfl
@[simp] theorem bump_regWrites (o k : Nat) : (s.bump o k).regWrites = s.regWrites := rfl
@[simp] theorem bump_channels (o k : Nat) : (s.bump o k).channels = s.channels := rfl
@[simp] theorem bump_jobs (o k : Nat) : (s.bump o k).jobs = s.jobs := rfl
@[simp] theorem bump_nextJob (o k : Nat) : (s.bump o k).nextJob = s.nextJob := rfl
@[simp] theorem bump_lastRun (o k : Nat) : (s.bump o k).lastRun = s.lastRun := rfl
@[simp] theorem bump_carriers (o k : Nat) : (s.bump o k).carriers = s.carriers := rfl
@[simp] theorem bump_harq (o k : Nat) : (s.bump o k).harq = s.harq := rfl
@[simp] theorem bump_decodes (o k : Nat) : (s.bump o k).decodes = s.decodes := rfl
@[simp] theorem bump_decodeNo (o k : Nat) : (s.bump o k).decodeNo = s.decodeNo := rfl
@[simp] theorem bump_links (o k : Nat) : (s.bump o k).links = s.links := rfl
@[simp] theorem bump_sub (o k : Nat) : (s.bump o k).sub = s.sub := rfl
@[simp] theorem bump_cpl (o k : Nat) : (s.bump o k).cpl = s.cpl := rfl
@[simp] theorem bump_host (o k : Nat) : (s.bump o k).host = s.host := rfl
@[simp] theorem bump_sent (o k : Nat) : (s.bump o k).sent = s.sent := rfl
@[simp] theorem bump_integ (o k : Nat) : (s.bump o k).integ = s.integ := rfl
@[simp] theorem bump_bridge (o k : Nat) : (s.bump o k).bridge = s.bridge := rfl
@[simp] theorem bump_power (o k : Nat) : (s.bump o k).power = s.power := rfl
@[simp] theorem bump_sec (o k : Nat) : (s.bump o k).sec = s.sec := rfl
@[simp] theorem bump_dbg (o k : Nat) : (s.bump o k).dbg = s.dbg := rfl
@[simp] theorem bump_pending (o k : Nat) : (s.bump o k).pending = s.pending := rfl

@[simp] theorem setReg64_shadows (o v : Nat) : (s.setReg64 o v).shadows = s.shadows := rfl
@[simp] theorem setReg64_acct (o v : Nat) : (s.setReg64 o v).acct = s.acct := rfl
@[simp] theorem setReg64_mem (o v : Nat) : (s.setReg64 o v).mem = s.mem := rfl
@[simp] theorem setReg64_ecc (o v : Nat) : (s.setReg64 o v).ecc = s.ecc := rfl
@[simp] theorem setReg64_writebacks (o v : Nat) : (s.setReg64 o v).writebacks = s.writebacks := rfl
@[simp] theorem setReg64_scrub (o v : Nat) : (s.setReg64 o v).scrub = s.scrub := rfl
@[simp] theorem setReg64_counter (o v : Nat) : (s.setReg64 o v).counter = s.counter := rfl
@[simp] theorem setReg64_drawSeed (o v : Nat) : (s.setReg64 o v).drawSeed = s.drawSeed := rfl
@[simp] theorem setReg64_free (o v : Nat) : (s.setReg64 o v).free = s.free := rfl
@[simp] theorem setReg64_bases (o v : Nat) : (s.setReg64 o v).bases = s.bases := rfl
@[simp] theorem setReg64_tallies (o v : Nat) : (s.setReg64 o v).tallies = s.tallies := rfl
@[simp] theorem setReg64_cores (o v : Nat) : (s.setReg64 o v).cores = s.cores := rfl
@[simp] theorem setReg64_arrays (o v : Nat) : (s.setReg64 o v).arrays = s.arrays := rfl
@[simp] theorem setReg64_rods (o v : Nat) : (s.setReg64 o v).rods = s.rods := rfl
@[simp] theorem setReg64_engines (o v : Nat) : (s.setReg64 o v).engines = s.engines := rfl
@[simp] theorem setReg64_regWrites (o v : Nat) : (s.setReg64 o v).regWrites = s.regWrites := rfl
@[simp] theorem setReg64_channels (o v : Nat) : (s.setReg64 o v).channels = s.channels := rfl
@[simp] theorem setReg64_jobs (o v : Nat) : (s.setReg64 o v).jobs = s.jobs := rfl
@[simp] theorem setReg64_nextJob (o v : Nat) : (s.setReg64 o v).nextJob = s.nextJob := rfl
@[simp] theorem setReg64_lastRun (o v : Nat) : (s.setReg64 o v).lastRun = s.lastRun := rfl
@[simp] theorem setReg64_carriers (o v : Nat) : (s.setReg64 o v).carriers = s.carriers := rfl
@[simp] theorem setReg64_harq (o v : Nat) : (s.setReg64 o v).harq = s.harq := rfl
@[simp] theorem setReg64_decodes (o v : Nat) : (s.setReg64 o v).decodes = s.decodes := rfl
@[simp] theorem setReg64_decodeNo (o v : Nat) : (s.setReg64 o v).decodeNo = s.decodeNo := rfl
@[simp] theorem setReg64_links (o v : Nat) : (s.setReg64 o v).links = s.links := rfl
@[simp] theorem setReg64_sub (o v : Nat) : (s.setReg64 o v).sub = s.sub := rfl
@[simp] theorem setReg64_cpl (o v : Nat) : (s.setReg64 o v).cpl = s.cpl := rfl
@[simp] theorem setReg64_host (o v : Nat) : (s.setReg64 o v).host = s.host := rfl
@[simp] theorem setReg64_sent (o v : Nat) : (s.setReg64 o v).sent = s.sent := rfl
@[simp] theorem setReg64_integ (o v : Nat) : (s.setReg64 o v).integ = s.integ := rfl
@[simp] theorem setReg64_bridge (o v : Nat) : (s.setReg64 o v).bridge = s.bridge := rfl
@[simp] theorem setReg64_power (o v : Nat) : (s.setReg64 o v).power = s.power := rfl
@[simp] theorem setReg64_sec (o v : Nat) : (s.setReg64 o v).sec = s.sec := rfl
@[simp] theorem setReg64_dbg (o v : Nat) : (s.setReg64 o v).dbg = s.dbg := rfl
@[simp] theorem setReg64_pending (o v : Nat) : (s.setReg64 o v).pending = s.pending := rfl

@[simp] theorem setShadow_regs (o : Nat) (w : Option Word) : (s.setShadow o w).regs = s.regs := rfl
@[simp] theorem setShadow_acct (o : Nat) (w : Option Word) : (s.setShadow o w).acct = s.acct := rfl
@[simp] theorem setShadow_mem (o : Nat) (w : Option Word) : (s.setShadow o w).mem = s.mem := rfl
@[simp] theorem setShadow_ecc (o : Nat) (w : Option Word) : (s.setShadow o w).ecc = s.ecc := rfl
@[simp] theorem setShadow_writebacks (o : Nat) (w : Option Word) : (s.setShadow o w).writebacks = s.writebacks := rfl
@[simp] theorem setShadow_scrub (o : Nat) (w : Option Word) : (s.setShadow o w).scrub = s.scrub := rfl
@[simp] theorem setShadow_counter (o : Nat) (w : Option Word) : (s.setShadow o w).counter = s.counter := rfl
@[simp] theorem setShadow_drawSeed (o : Nat) (w : Option Word) : (s.setShadow o w).drawSeed = s.drawSeed := rfl
@[simp] theorem setShadow_free (o : Nat) (w : Option Word) : (s.setShadow o w).free = s.free := rfl
@[simp] theorem setShadow_bases (o : Nat) (w : Option Word) : (s.setShadow o w).bases = s.bases := rfl
@[simp] theorem setShadow_tallies (o : Nat) (w : Option Word) : (s.setShadow o w).tallies = s.tallies := rfl
@[simp] theorem setShadow_cores (o : Nat) (w : Option Word) : (s.setShadow o w).cores = s.cores := rfl
@[simp] theorem setShadow_arrays (o : Nat) (w : Option Word) : (s.setShadow o w).arrays = s.arrays := rfl
@[simp] theorem setShadow_rods (o : Nat) (w : Option Word) : (s.setShadow o w).rods = s.rods := rfl
@[simp] theorem setShadow_engines (o : Nat) (w : Option Word) : (s.setShadow o w).engines = s.engines := rfl
@[simp] theorem setShadow_regWrites (o : Nat) (w : Option Word) : (s.setShadow o w).regWrites = s.regWrites := rfl
@[simp] theorem setShadow_channels (o : Nat) (w : Option Word) : (s.setShadow o w).channels = s.channels := rfl
@[simp] theorem setShadow_jobs (o : Nat) (w : Option Word) : (s.setShadow o w).jobs = s.jobs := rfl
@[simp] theorem setShadow_nextJob (o : Nat) (w : Option Word) : (s.setShadow o w).nextJob = s.nextJob := rfl
@[simp] theorem setShadow_lastRun (o : Nat) (w : Option Word) : (s.setShadow o w).lastRun = s.lastRun := rfl
@[simp] theorem setShadow_carriers (o : Nat) (w : Option Word) : (s.setShadow o w).carriers = s.carriers := rfl
@[simp] theorem setShadow_harq (o : Nat) (w : Option Word) : (s.setShadow o w).harq = s.harq := rfl
@[simp] theorem setShadow_decodes (o : Nat) (w : Option Word) : (s.setShadow o w).decodes = s.decodes := rfl
@[simp] theorem setShadow_decodeNo (o : Nat) (w : Option Word) : (s.setShadow o w).decodeNo = s.decodeNo := rfl
@[simp] theorem setShadow_links (o : Nat) (w : Option Word) : (s.setShadow o w).links = s.links := rfl
@[simp] theorem setShadow_sub (o : Nat) (w : Option Word) : (s.setShadow o w).sub = s.sub := rfl
@[simp] theorem setShadow_cpl (o : Nat) (w : Option Word) : (s.setShadow o w).cpl = s.cpl := rfl
@[simp] theorem setShadow_host (o : Nat) (w : Option Word) : (s.setShadow o w).host = s.host := rfl
@[simp] theorem setShadow_sent (o : Nat) (w : Option Word) : (s.setShadow o w).sent = s.sent := rfl
@[simp] theorem setShadow_integ (o : Nat) (w : Option Word) : (s.setShadow o w).integ = s.integ := rfl
@[simp] theorem setShadow_bridge (o : Nat) (w : Option Word) : (s.setShadow o w).bridge = s.bridge := rfl
@[simp] theorem setShadow_power (o : Nat) (w : Option Word) : (s.setShadow o w).power = s.power := rfl
@[simp] theorem setShadow_sec (o : Nat) (w : Option Word) : (s.setShadow o w).sec = s.sec := rfl
@[simp] theorem setShadow_dbg (o : Nat) (w : Option Word) : (s.setShadow o w).dbg = s.dbg := rfl
@[simp] theorem setShadow_pending (o : Nat) (w : Option Word) : (s.setShadow o w).pending = s.pending := rfl

@[simp] theorem charge_regs (r k v : Nat) : (s.charge r k v).regs = s.regs := rfl
@[simp] theorem charge_shadows (r k v : Nat) : (s.charge r k v).shadows = s.shadows := rfl
@[simp] theorem charge_mem (r k v : Nat) : (s.charge r k v).mem = s.mem := rfl
@[simp] theorem charge_ecc (r k v : Nat) : (s.charge r k v).ecc = s.ecc := rfl
@[simp] theorem charge_writebacks (r k v : Nat) : (s.charge r k v).writebacks = s.writebacks := rfl
@[simp] theorem charge_scrub (r k v : Nat) : (s.charge r k v).scrub = s.scrub := rfl
@[simp] theorem charge_counter (r k v : Nat) : (s.charge r k v).counter = s.counter := rfl
@[simp] theorem charge_drawSeed (r k v : Nat) : (s.charge r k v).drawSeed = s.drawSeed := rfl
@[simp] theorem charge_free (r k v : Nat) : (s.charge r k v).free = s.free := rfl
@[simp] theorem charge_bases (r k v : Nat) : (s.charge r k v).bases = s.bases := rfl
@[simp] theorem charge_tallies (r k v : Nat) : (s.charge r k v).tallies = s.tallies := rfl
@[simp] theorem charge_cores (r k v : Nat) : (s.charge r k v).cores = s.cores := rfl
@[simp] theorem charge_arrays (r k v : Nat) : (s.charge r k v).arrays = s.arrays := rfl
@[simp] theorem charge_rods (r k v : Nat) : (s.charge r k v).rods = s.rods := rfl
@[simp] theorem charge_engines (r k v : Nat) : (s.charge r k v).engines = s.engines := rfl
@[simp] theorem charge_regWrites (r k v : Nat) : (s.charge r k v).regWrites = s.regWrites := rfl
@[simp] theorem charge_channels (r k v : Nat) : (s.charge r k v).channels = s.channels := rfl
@[simp] theorem charge_jobs (r k v : Nat) : (s.charge r k v).jobs = s.jobs := rfl
@[simp] theorem charge_nextJob (r k v : Nat) : (s.charge r k v).nextJob = s.nextJob := rfl
@[simp] theorem charge_lastRun (r k v : Nat) : (s.charge r k v).lastRun = s.lastRun := rfl
@[simp] theorem charge_carriers (r k v : Nat) : (s.charge r k v).carriers = s.carriers := rfl
@[simp] theorem charge_harq (r k v : Nat) : (s.charge r k v).harq = s.harq := rfl
@[simp] theorem charge_decodes (r k v : Nat) : (s.charge r k v).decodes = s.decodes := rfl
@[simp] theorem charge_decodeNo (r k v : Nat) : (s.charge r k v).decodeNo = s.decodeNo := rfl
@[simp] theorem charge_links (r k v : Nat) : (s.charge r k v).links = s.links := rfl
@[simp] theorem charge_sub (r k v : Nat) : (s.charge r k v).sub = s.sub := rfl
@[simp] theorem charge_cpl (r k v : Nat) : (s.charge r k v).cpl = s.cpl := rfl
@[simp] theorem charge_host (r k v : Nat) : (s.charge r k v).host = s.host := rfl
@[simp] theorem charge_sent (r k v : Nat) : (s.charge r k v).sent = s.sent := rfl
@[simp] theorem charge_integ (r k v : Nat) : (s.charge r k v).integ = s.integ := rfl
@[simp] theorem charge_bridge (r k v : Nat) : (s.charge r k v).bridge = s.bridge := rfl
@[simp] theorem charge_power (r k v : Nat) : (s.charge r k v).power = s.power := rfl
@[simp] theorem charge_sec (r k v : Nat) : (s.charge r k v).sec = s.sec := rfl
@[simp] theorem charge_dbg (r k v : Nat) : (s.charge r k v).dbg = s.dbg := rfl
@[simp] theorem charge_pending (r k v : Nat) : (s.charge r k v).pending = s.pending := rfl

@[simp] theorem setByte_regs (a : Nat) (b : Byte) : (s.setByte a b).regs = s.regs := rfl
@[simp] theorem setByte_shadows (a : Nat) (b : Byte) : (s.setByte a b).shadows = s.shadows := rfl
@[simp] theorem setByte_acct (a : Nat) (b : Byte) : (s.setByte a b).acct = s.acct := rfl
@[simp] theorem setByte_ecc (a : Nat) (b : Byte) : (s.setByte a b).ecc = s.ecc := rfl
@[simp] theorem setByte_writebacks (a : Nat) (b : Byte) : (s.setByte a b).writebacks = s.writebacks := rfl
@[simp] theorem setByte_scrub (a : Nat) (b : Byte) : (s.setByte a b).scrub = s.scrub := rfl
@[simp] theorem setByte_counter (a : Nat) (b : Byte) : (s.setByte a b).counter = s.counter := rfl
@[simp] theorem setByte_drawSeed (a : Nat) (b : Byte) : (s.setByte a b).drawSeed = s.drawSeed := rfl
@[simp] theorem setByte_free (a : Nat) (b : Byte) : (s.setByte a b).free = s.free := rfl
@[simp] theorem setByte_bases (a : Nat) (b : Byte) : (s.setByte a b).bases = s.bases := rfl
@[simp] theorem setByte_tallies (a : Nat) (b : Byte) : (s.setByte a b).tallies = s.tallies := rfl
@[simp] theorem setByte_cores (a : Nat) (b : Byte) : (s.setByte a b).cores = s.cores := rfl
@[simp] theorem setByte_arrays (a : Nat) (b : Byte) : (s.setByte a b).arrays = s.arrays := rfl
@[simp] theorem setByte_rods (a : Nat) (b : Byte) : (s.setByte a b).rods = s.rods := rfl
@[simp] theorem setByte_engines (a : Nat) (b : Byte) : (s.setByte a b).engines = s.engines := rfl
@[simp] theorem setByte_regWrites (a : Nat) (b : Byte) : (s.setByte a b).regWrites = s.regWrites := rfl
@[simp] theorem setByte_channels (a : Nat) (b : Byte) : (s.setByte a b).channels = s.channels := rfl
@[simp] theorem setByte_jobs (a : Nat) (b : Byte) : (s.setByte a b).jobs = s.jobs := rfl
@[simp] theorem setByte_nextJob (a : Nat) (b : Byte) : (s.setByte a b).nextJob = s.nextJob := rfl
@[simp] theorem setByte_lastRun (a : Nat) (b : Byte) : (s.setByte a b).lastRun = s.lastRun := rfl
@[simp] theorem setByte_carriers (a : Nat) (b : Byte) : (s.setByte a b).carriers = s.carriers := rfl
@[simp] theorem setByte_harq (a : Nat) (b : Byte) : (s.setByte a b).harq = s.harq := rfl
@[simp] theorem setByte_decodes (a : Nat) (b : Byte) : (s.setByte a b).decodes = s.decodes := rfl
@[simp] theorem setByte_decodeNo (a : Nat) (b : Byte) : (s.setByte a b).decodeNo = s.decodeNo := rfl
@[simp] theorem setByte_links (a : Nat) (b : Byte) : (s.setByte a b).links = s.links := rfl
@[simp] theorem setByte_sub (a : Nat) (b : Byte) : (s.setByte a b).sub = s.sub := rfl
@[simp] theorem setByte_cpl (a : Nat) (b : Byte) : (s.setByte a b).cpl = s.cpl := rfl
@[simp] theorem setByte_host (a : Nat) (b : Byte) : (s.setByte a b).host = s.host := rfl
@[simp] theorem setByte_sent (a : Nat) (b : Byte) : (s.setByte a b).sent = s.sent := rfl
@[simp] theorem setByte_integ (a : Nat) (b : Byte) : (s.setByte a b).integ = s.integ := rfl
@[simp] theorem setByte_bridge (a : Nat) (b : Byte) : (s.setByte a b).bridge = s.bridge := rfl
@[simp] theorem setByte_power (a : Nat) (b : Byte) : (s.setByte a b).power = s.power := rfl
@[simp] theorem setByte_sec (a : Nat) (b : Byte) : (s.setByte a b).sec = s.sec := rfl
@[simp] theorem setByte_dbg (a : Nat) (b : Byte) : (s.setByte a b).dbg = s.dbg := rfl
@[simp] theorem setByte_pending (a : Nat) (b : Byte) : (s.setByte a b).pending = s.pending := rfl

@[simp] theorem clearMem_regs (lo hi : Nat) : (s.clearMem lo hi).regs = s.regs := rfl
@[simp] theorem clearMem_shadows (lo hi : Nat) : (s.clearMem lo hi).shadows = s.shadows := rfl
@[simp] theorem clearMem_acct (lo hi : Nat) : (s.clearMem lo hi).acct = s.acct := rfl
@[simp] theorem clearMem_ecc (lo hi : Nat) : (s.clearMem lo hi).ecc = s.ecc := rfl
@[simp] theorem clearMem_writebacks (lo hi : Nat) : (s.clearMem lo hi).writebacks = s.writebacks := rfl
@[simp] theorem clearMem_scrub (lo hi : Nat) : (s.clearMem lo hi).scrub = s.scrub := rfl
@[simp] theorem clearMem_counter (lo hi : Nat) : (s.clearMem lo hi).counter = s.counter := rfl
@[simp] theorem clearMem_drawSeed (lo hi : Nat) : (s.clearMem lo hi).drawSeed = s.drawSeed := rfl
@[simp] theorem clearMem_free (lo hi : Nat) : (s.clearMem lo hi).free = s.free := rfl
@[simp] theorem clearMem_bases (lo hi : Nat) : (s.clearMem lo hi).bases = s.bases := rfl
@[simp] theorem clearMem_tallies (lo hi : Nat) : (s.clearMem lo hi).tallies = s.tallies := rfl
@[simp] theorem clearMem_cores (lo hi : Nat) : (s.clearMem lo hi).cores = s.cores := rfl
@[simp] theorem clearMem_arrays (lo hi : Nat) : (s.clearMem lo hi).arrays = s.arrays := rfl
@[simp] theorem clearMem_rods (lo hi : Nat) : (s.clearMem lo hi).rods = s.rods := rfl
@[simp] theorem clearMem_engines (lo hi : Nat) : (s.clearMem lo hi).engines = s.engines := rfl
@[simp] theorem clearMem_regWrites (lo hi : Nat) : (s.clearMem lo hi).regWrites = s.regWrites := rfl
@[simp] theorem clearMem_channels (lo hi : Nat) : (s.clearMem lo hi).channels = s.channels := rfl
@[simp] theorem clearMem_jobs (lo hi : Nat) : (s.clearMem lo hi).jobs = s.jobs := rfl
@[simp] theorem clearMem_nextJob (lo hi : Nat) : (s.clearMem lo hi).nextJob = s.nextJob := rfl
@[simp] theorem clearMem_lastRun (lo hi : Nat) : (s.clearMem lo hi).lastRun = s.lastRun := rfl
@[simp] theorem clearMem_carriers (lo hi : Nat) : (s.clearMem lo hi).carriers = s.carriers := rfl
@[simp] theorem clearMem_harq (lo hi : Nat) : (s.clearMem lo hi).harq = s.harq := rfl
@[simp] theorem clearMem_decodes (lo hi : Nat) : (s.clearMem lo hi).decodes = s.decodes := rfl
@[simp] theorem clearMem_decodeNo (lo hi : Nat) : (s.clearMem lo hi).decodeNo = s.decodeNo := rfl
@[simp] theorem clearMem_links (lo hi : Nat) : (s.clearMem lo hi).links = s.links := rfl
@[simp] theorem clearMem_sub (lo hi : Nat) : (s.clearMem lo hi).sub = s.sub := rfl
@[simp] theorem clearMem_cpl (lo hi : Nat) : (s.clearMem lo hi).cpl = s.cpl := rfl
@[simp] theorem clearMem_host (lo hi : Nat) : (s.clearMem lo hi).host = s.host := rfl
@[simp] theorem clearMem_sent (lo hi : Nat) : (s.clearMem lo hi).sent = s.sent := rfl
@[simp] theorem clearMem_integ (lo hi : Nat) : (s.clearMem lo hi).integ = s.integ := rfl
@[simp] theorem clearMem_bridge (lo hi : Nat) : (s.clearMem lo hi).bridge = s.bridge := rfl
@[simp] theorem clearMem_power (lo hi : Nat) : (s.clearMem lo hi).power = s.power := rfl
@[simp] theorem clearMem_sec (lo hi : Nat) : (s.clearMem lo hi).sec = s.sec := rfl
@[simp] theorem clearMem_dbg (lo hi : Nat) : (s.clearMem lo hi).dbg = s.dbg := rfl
@[simp] theorem clearMem_pending (lo hi : Nat) : (s.clearMem lo hi).pending = s.pending := rfl

@[simp] theorem setEcc_regs (w v : Nat) : (s.setEcc w v).regs = s.regs := rfl
@[simp] theorem setEcc_shadows (w v : Nat) : (s.setEcc w v).shadows = s.shadows := rfl
@[simp] theorem setEcc_acct (w v : Nat) : (s.setEcc w v).acct = s.acct := rfl
@[simp] theorem setEcc_mem (w v : Nat) : (s.setEcc w v).mem = s.mem := rfl
@[simp] theorem setEcc_writebacks (w v : Nat) : (s.setEcc w v).writebacks = s.writebacks := rfl
@[simp] theorem setEcc_scrub (w v : Nat) : (s.setEcc w v).scrub = s.scrub := rfl
@[simp] theorem setEcc_counter (w v : Nat) : (s.setEcc w v).counter = s.counter := rfl
@[simp] theorem setEcc_drawSeed (w v : Nat) : (s.setEcc w v).drawSeed = s.drawSeed := rfl
@[simp] theorem setEcc_free (w v : Nat) : (s.setEcc w v).free = s.free := rfl
@[simp] theorem setEcc_bases (w v : Nat) : (s.setEcc w v).bases = s.bases := rfl
@[simp] theorem setEcc_tallies (w v : Nat) : (s.setEcc w v).tallies = s.tallies := rfl
@[simp] theorem setEcc_cores (w v : Nat) : (s.setEcc w v).cores = s.cores := rfl
@[simp] theorem setEcc_arrays (w v : Nat) : (s.setEcc w v).arrays = s.arrays := rfl
@[simp] theorem setEcc_rods (w v : Nat) : (s.setEcc w v).rods = s.rods := rfl
@[simp] theorem setEcc_engines (w v : Nat) : (s.setEcc w v).engines = s.engines := rfl
@[simp] theorem setEcc_regWrites (w v : Nat) : (s.setEcc w v).regWrites = s.regWrites := rfl
@[simp] theorem setEcc_channels (w v : Nat) : (s.setEcc w v).channels = s.channels := rfl
@[simp] theorem setEcc_jobs (w v : Nat) : (s.setEcc w v).jobs = s.jobs := rfl
@[simp] theorem setEcc_nextJob (w v : Nat) : (s.setEcc w v).nextJob = s.nextJob := rfl
@[simp] theorem setEcc_lastRun (w v : Nat) : (s.setEcc w v).lastRun = s.lastRun := rfl
@[simp] theorem setEcc_carriers (w v : Nat) : (s.setEcc w v).carriers = s.carriers := rfl
@[simp] theorem setEcc_harq (w v : Nat) : (s.setEcc w v).harq = s.harq := rfl
@[simp] theorem setEcc_decodes (w v : Nat) : (s.setEcc w v).decodes = s.decodes := rfl
@[simp] theorem setEcc_decodeNo (w v : Nat) : (s.setEcc w v).decodeNo = s.decodeNo := rfl
@[simp] theorem setEcc_links (w v : Nat) : (s.setEcc w v).links = s.links := rfl
@[simp] theorem setEcc_sub (w v : Nat) : (s.setEcc w v).sub = s.sub := rfl
@[simp] theorem setEcc_cpl (w v : Nat) : (s.setEcc w v).cpl = s.cpl := rfl
@[simp] theorem setEcc_host (w v : Nat) : (s.setEcc w v).host = s.host := rfl
@[simp] theorem setEcc_sent (w v : Nat) : (s.setEcc w v).sent = s.sent := rfl
@[simp] theorem setEcc_integ (w v : Nat) : (s.setEcc w v).integ = s.integ := rfl
@[simp] theorem setEcc_bridge (w v : Nat) : (s.setEcc w v).bridge = s.bridge := rfl
@[simp] theorem setEcc_power (w v : Nat) : (s.setEcc w v).power = s.power := rfl
@[simp] theorem setEcc_sec (w v : Nat) : (s.setEcc w v).sec = s.sec := rfl
@[simp] theorem setEcc_dbg (w v : Nat) : (s.setEcc w v).dbg = s.dbg := rfl
@[simp] theorem setEcc_pending (w v : Nat) : (s.setEcc w v).pending = s.pending := rfl

@[simp] theorem eccWritten_regs (a n : Nat) : (s.eccWritten a n).regs = s.regs := rfl
@[simp] theorem eccWritten_shadows (a n : Nat) : (s.eccWritten a n).shadows = s.shadows := rfl
@[simp] theorem eccWritten_acct (a n : Nat) : (s.eccWritten a n).acct = s.acct := rfl
@[simp] theorem eccWritten_mem (a n : Nat) : (s.eccWritten a n).mem = s.mem := rfl
@[simp] theorem eccWritten_writebacks (a n : Nat) : (s.eccWritten a n).writebacks = s.writebacks := rfl
@[simp] theorem eccWritten_scrub (a n : Nat) : (s.eccWritten a n).scrub = s.scrub := rfl
@[simp] theorem eccWritten_counter (a n : Nat) : (s.eccWritten a n).counter = s.counter := rfl
@[simp] theorem eccWritten_drawSeed (a n : Nat) : (s.eccWritten a n).drawSeed = s.drawSeed := rfl
@[simp] theorem eccWritten_free (a n : Nat) : (s.eccWritten a n).free = s.free := rfl
@[simp] theorem eccWritten_bases (a n : Nat) : (s.eccWritten a n).bases = s.bases := rfl
@[simp] theorem eccWritten_tallies (a n : Nat) : (s.eccWritten a n).tallies = s.tallies := rfl
@[simp] theorem eccWritten_cores (a n : Nat) : (s.eccWritten a n).cores = s.cores := rfl
@[simp] theorem eccWritten_arrays (a n : Nat) : (s.eccWritten a n).arrays = s.arrays := rfl
@[simp] theorem eccWritten_rods (a n : Nat) : (s.eccWritten a n).rods = s.rods := rfl
@[simp] theorem eccWritten_engines (a n : Nat) : (s.eccWritten a n).engines = s.engines := rfl
@[simp] theorem eccWritten_regWrites (a n : Nat) : (s.eccWritten a n).regWrites = s.regWrites := rfl
@[simp] theorem eccWritten_channels (a n : Nat) : (s.eccWritten a n).channels = s.channels := rfl
@[simp] theorem eccWritten_jobs (a n : Nat) : (s.eccWritten a n).jobs = s.jobs := rfl
@[simp] theorem eccWritten_nextJob (a n : Nat) : (s.eccWritten a n).nextJob = s.nextJob := rfl
@[simp] theorem eccWritten_lastRun (a n : Nat) : (s.eccWritten a n).lastRun = s.lastRun := rfl
@[simp] theorem eccWritten_carriers (a n : Nat) : (s.eccWritten a n).carriers = s.carriers := rfl
@[simp] theorem eccWritten_harq (a n : Nat) : (s.eccWritten a n).harq = s.harq := rfl
@[simp] theorem eccWritten_decodes (a n : Nat) : (s.eccWritten a n).decodes = s.decodes := rfl
@[simp] theorem eccWritten_decodeNo (a n : Nat) : (s.eccWritten a n).decodeNo = s.decodeNo := rfl
@[simp] theorem eccWritten_links (a n : Nat) : (s.eccWritten a n).links = s.links := rfl
@[simp] theorem eccWritten_sub (a n : Nat) : (s.eccWritten a n).sub = s.sub := rfl
@[simp] theorem eccWritten_cpl (a n : Nat) : (s.eccWritten a n).cpl = s.cpl := rfl
@[simp] theorem eccWritten_host (a n : Nat) : (s.eccWritten a n).host = s.host := rfl
@[simp] theorem eccWritten_sent (a n : Nat) : (s.eccWritten a n).sent = s.sent := rfl
@[simp] theorem eccWritten_integ (a n : Nat) : (s.eccWritten a n).integ = s.integ := rfl
@[simp] theorem eccWritten_bridge (a n : Nat) : (s.eccWritten a n).bridge = s.bridge := rfl
@[simp] theorem eccWritten_power (a n : Nat) : (s.eccWritten a n).power = s.power := rfl
@[simp] theorem eccWritten_sec (a n : Nat) : (s.eccWritten a n).sec = s.sec := rfl
@[simp] theorem eccWritten_dbg (a n : Nat) : (s.eccWritten a n).dbg = s.dbg := rfl
@[simp] theorem eccWritten_pending (a n : Nat) : (s.eccWritten a n).pending = s.pending := rfl

@[simp] theorem drawFree_regs (n : Nat) : (s.drawFree n).regs = s.regs := rfl
@[simp] theorem drawFree_shadows (n : Nat) : (s.drawFree n).shadows = s.shadows := rfl
@[simp] theorem drawFree_acct (n : Nat) : (s.drawFree n).acct = s.acct := rfl
@[simp] theorem drawFree_mem (n : Nat) : (s.drawFree n).mem = s.mem := rfl
@[simp] theorem drawFree_ecc (n : Nat) : (s.drawFree n).ecc = s.ecc := rfl
@[simp] theorem drawFree_writebacks (n : Nat) : (s.drawFree n).writebacks = s.writebacks := rfl
@[simp] theorem drawFree_scrub (n : Nat) : (s.drawFree n).scrub = s.scrub := rfl
@[simp] theorem drawFree_counter (n : Nat) : (s.drawFree n).counter = s.counter := rfl
@[simp] theorem drawFree_drawSeed (n : Nat) : (s.drawFree n).drawSeed = s.drawSeed := rfl
@[simp] theorem drawFree_bases (n : Nat) : (s.drawFree n).bases = s.bases := rfl
@[simp] theorem drawFree_tallies (n : Nat) : (s.drawFree n).tallies = s.tallies := rfl
@[simp] theorem drawFree_cores (n : Nat) : (s.drawFree n).cores = s.cores := rfl
@[simp] theorem drawFree_arrays (n : Nat) : (s.drawFree n).arrays = s.arrays := rfl
@[simp] theorem drawFree_rods (n : Nat) : (s.drawFree n).rods = s.rods := rfl
@[simp] theorem drawFree_engines (n : Nat) : (s.drawFree n).engines = s.engines := rfl
@[simp] theorem drawFree_regWrites (n : Nat) : (s.drawFree n).regWrites = s.regWrites := rfl
@[simp] theorem drawFree_channels (n : Nat) : (s.drawFree n).channels = s.channels := rfl
@[simp] theorem drawFree_jobs (n : Nat) : (s.drawFree n).jobs = s.jobs := rfl
@[simp] theorem drawFree_nextJob (n : Nat) : (s.drawFree n).nextJob = s.nextJob := rfl
@[simp] theorem drawFree_lastRun (n : Nat) : (s.drawFree n).lastRun = s.lastRun := rfl
@[simp] theorem drawFree_carriers (n : Nat) : (s.drawFree n).carriers = s.carriers := rfl
@[simp] theorem drawFree_harq (n : Nat) : (s.drawFree n).harq = s.harq := rfl
@[simp] theorem drawFree_decodes (n : Nat) : (s.drawFree n).decodes = s.decodes := rfl
@[simp] theorem drawFree_decodeNo (n : Nat) : (s.drawFree n).decodeNo = s.decodeNo := rfl
@[simp] theorem drawFree_links (n : Nat) : (s.drawFree n).links = s.links := rfl
@[simp] theorem drawFree_sub (n : Nat) : (s.drawFree n).sub = s.sub := rfl
@[simp] theorem drawFree_cpl (n : Nat) : (s.drawFree n).cpl = s.cpl := rfl
@[simp] theorem drawFree_host (n : Nat) : (s.drawFree n).host = s.host := rfl
@[simp] theorem drawFree_sent (n : Nat) : (s.drawFree n).sent = s.sent := rfl
@[simp] theorem drawFree_integ (n : Nat) : (s.drawFree n).integ = s.integ := rfl
@[simp] theorem drawFree_bridge (n : Nat) : (s.drawFree n).bridge = s.bridge := rfl
@[simp] theorem drawFree_power (n : Nat) : (s.drawFree n).power = s.power := rfl
@[simp] theorem drawFree_sec (n : Nat) : (s.drawFree n).sec = s.sec := rfl
@[simp] theorem drawFree_dbg (n : Nat) : (s.drawFree n).dbg = s.dbg := rfl
@[simp] theorem drawFree_pending (n : Nat) : (s.drawFree n).pending = s.pending := rfl

@[simp] theorem setTbase_regs (n : Nat) (v : TimeBase) : (s.setTbase n v).regs = s.regs := rfl
@[simp] theorem setTbase_shadows (n : Nat) (v : TimeBase) : (s.setTbase n v).shadows = s.shadows := rfl
@[simp] theorem setTbase_acct (n : Nat) (v : TimeBase) : (s.setTbase n v).acct = s.acct := rfl
@[simp] theorem setTbase_mem (n : Nat) (v : TimeBase) : (s.setTbase n v).mem = s.mem := rfl
@[simp] theorem setTbase_ecc (n : Nat) (v : TimeBase) : (s.setTbase n v).ecc = s.ecc := rfl
@[simp] theorem setTbase_writebacks (n : Nat) (v : TimeBase) : (s.setTbase n v).writebacks = s.writebacks := rfl
@[simp] theorem setTbase_scrub (n : Nat) (v : TimeBase) : (s.setTbase n v).scrub = s.scrub := rfl
@[simp] theorem setTbase_counter (n : Nat) (v : TimeBase) : (s.setTbase n v).counter = s.counter := rfl
@[simp] theorem setTbase_drawSeed (n : Nat) (v : TimeBase) : (s.setTbase n v).drawSeed = s.drawSeed := rfl
@[simp] theorem setTbase_free (n : Nat) (v : TimeBase) : (s.setTbase n v).free = s.free := rfl
@[simp] theorem setTbase_tallies (n : Nat) (v : TimeBase) : (s.setTbase n v).tallies = s.tallies := rfl
@[simp] theorem setTbase_cores (n : Nat) (v : TimeBase) : (s.setTbase n v).cores = s.cores := rfl
@[simp] theorem setTbase_arrays (n : Nat) (v : TimeBase) : (s.setTbase n v).arrays = s.arrays := rfl
@[simp] theorem setTbase_rods (n : Nat) (v : TimeBase) : (s.setTbase n v).rods = s.rods := rfl
@[simp] theorem setTbase_engines (n : Nat) (v : TimeBase) : (s.setTbase n v).engines = s.engines := rfl
@[simp] theorem setTbase_regWrites (n : Nat) (v : TimeBase) : (s.setTbase n v).regWrites = s.regWrites := rfl
@[simp] theorem setTbase_channels (n : Nat) (v : TimeBase) : (s.setTbase n v).channels = s.channels := rfl
@[simp] theorem setTbase_jobs (n : Nat) (v : TimeBase) : (s.setTbase n v).jobs = s.jobs := rfl
@[simp] theorem setTbase_nextJob (n : Nat) (v : TimeBase) : (s.setTbase n v).nextJob = s.nextJob := rfl
@[simp] theorem setTbase_lastRun (n : Nat) (v : TimeBase) : (s.setTbase n v).lastRun = s.lastRun := rfl
@[simp] theorem setTbase_carriers (n : Nat) (v : TimeBase) : (s.setTbase n v).carriers = s.carriers := rfl
@[simp] theorem setTbase_harq (n : Nat) (v : TimeBase) : (s.setTbase n v).harq = s.harq := rfl
@[simp] theorem setTbase_decodes (n : Nat) (v : TimeBase) : (s.setTbase n v).decodes = s.decodes := rfl
@[simp] theorem setTbase_decodeNo (n : Nat) (v : TimeBase) : (s.setTbase n v).decodeNo = s.decodeNo := rfl
@[simp] theorem setTbase_links (n : Nat) (v : TimeBase) : (s.setTbase n v).links = s.links := rfl
@[simp] theorem setTbase_sub (n : Nat) (v : TimeBase) : (s.setTbase n v).sub = s.sub := rfl
@[simp] theorem setTbase_cpl (n : Nat) (v : TimeBase) : (s.setTbase n v).cpl = s.cpl := rfl
@[simp] theorem setTbase_host (n : Nat) (v : TimeBase) : (s.setTbase n v).host = s.host := rfl
@[simp] theorem setTbase_sent (n : Nat) (v : TimeBase) : (s.setTbase n v).sent = s.sent := rfl
@[simp] theorem setTbase_integ (n : Nat) (v : TimeBase) : (s.setTbase n v).integ = s.integ := rfl
@[simp] theorem setTbase_bridge (n : Nat) (v : TimeBase) : (s.setTbase n v).bridge = s.bridge := rfl
@[simp] theorem setTbase_power (n : Nat) (v : TimeBase) : (s.setTbase n v).power = s.power := rfl
@[simp] theorem setTbase_sec (n : Nat) (v : TimeBase) : (s.setTbase n v).sec = s.sec := rfl
@[simp] theorem setTbase_dbg (n : Nat) (v : TimeBase) : (s.setTbase n v).dbg = s.dbg := rfl
@[simp] theorem setTbase_pending (n : Nat) (v : TimeBase) : (s.setTbase n v).pending = s.pending := rfl

@[simp] theorem setTally_regs (n : Nat) (v : Tally) : (s.setTally n v).regs = s.regs := rfl
@[simp] theorem setTally_shadows (n : Nat) (v : Tally) : (s.setTally n v).shadows = s.shadows := rfl
@[simp] theorem setTally_acct (n : Nat) (v : Tally) : (s.setTally n v).acct = s.acct := rfl
@[simp] theorem setTally_mem (n : Nat) (v : Tally) : (s.setTally n v).mem = s.mem := rfl
@[simp] theorem setTally_ecc (n : Nat) (v : Tally) : (s.setTally n v).ecc = s.ecc := rfl
@[simp] theorem setTally_writebacks (n : Nat) (v : Tally) : (s.setTally n v).writebacks = s.writebacks := rfl
@[simp] theorem setTally_scrub (n : Nat) (v : Tally) : (s.setTally n v).scrub = s.scrub := rfl
@[simp] theorem setTally_counter (n : Nat) (v : Tally) : (s.setTally n v).counter = s.counter := rfl
@[simp] theorem setTally_drawSeed (n : Nat) (v : Tally) : (s.setTally n v).drawSeed = s.drawSeed := rfl
@[simp] theorem setTally_free (n : Nat) (v : Tally) : (s.setTally n v).free = s.free := rfl
@[simp] theorem setTally_bases (n : Nat) (v : Tally) : (s.setTally n v).bases = s.bases := rfl
@[simp] theorem setTally_cores (n : Nat) (v : Tally) : (s.setTally n v).cores = s.cores := rfl
@[simp] theorem setTally_arrays (n : Nat) (v : Tally) : (s.setTally n v).arrays = s.arrays := rfl
@[simp] theorem setTally_rods (n : Nat) (v : Tally) : (s.setTally n v).rods = s.rods := rfl
@[simp] theorem setTally_engines (n : Nat) (v : Tally) : (s.setTally n v).engines = s.engines := rfl
@[simp] theorem setTally_regWrites (n : Nat) (v : Tally) : (s.setTally n v).regWrites = s.regWrites := rfl
@[simp] theorem setTally_channels (n : Nat) (v : Tally) : (s.setTally n v).channels = s.channels := rfl
@[simp] theorem setTally_jobs (n : Nat) (v : Tally) : (s.setTally n v).jobs = s.jobs := rfl
@[simp] theorem setTally_nextJob (n : Nat) (v : Tally) : (s.setTally n v).nextJob = s.nextJob := rfl
@[simp] theorem setTally_lastRun (n : Nat) (v : Tally) : (s.setTally n v).lastRun = s.lastRun := rfl
@[simp] theorem setTally_carriers (n : Nat) (v : Tally) : (s.setTally n v).carriers = s.carriers := rfl
@[simp] theorem setTally_harq (n : Nat) (v : Tally) : (s.setTally n v).harq = s.harq := rfl
@[simp] theorem setTally_decodes (n : Nat) (v : Tally) : (s.setTally n v).decodes = s.decodes := rfl
@[simp] theorem setTally_decodeNo (n : Nat) (v : Tally) : (s.setTally n v).decodeNo = s.decodeNo := rfl
@[simp] theorem setTally_links (n : Nat) (v : Tally) : (s.setTally n v).links = s.links := rfl
@[simp] theorem setTally_sub (n : Nat) (v : Tally) : (s.setTally n v).sub = s.sub := rfl
@[simp] theorem setTally_cpl (n : Nat) (v : Tally) : (s.setTally n v).cpl = s.cpl := rfl
@[simp] theorem setTally_host (n : Nat) (v : Tally) : (s.setTally n v).host = s.host := rfl
@[simp] theorem setTally_sent (n : Nat) (v : Tally) : (s.setTally n v).sent = s.sent := rfl
@[simp] theorem setTally_integ (n : Nat) (v : Tally) : (s.setTally n v).integ = s.integ := rfl
@[simp] theorem setTally_bridge (n : Nat) (v : Tally) : (s.setTally n v).bridge = s.bridge := rfl
@[simp] theorem setTally_power (n : Nat) (v : Tally) : (s.setTally n v).power = s.power := rfl
@[simp] theorem setTally_sec (n : Nat) (v : Tally) : (s.setTally n v).sec = s.sec := rfl
@[simp] theorem setTally_dbg (n : Nat) (v : Tally) : (s.setTally n v).dbg = s.dbg := rfl
@[simp] theorem setTally_pending (n : Nat) (v : Tally) : (s.setTally n v).pending = s.pending := rfl

@[simp] theorem setCore_regs (t : Nat) (v : DigitCore) : (s.setCore t v).regs = s.regs := rfl
@[simp] theorem setCore_shadows (t : Nat) (v : DigitCore) : (s.setCore t v).shadows = s.shadows := rfl
@[simp] theorem setCore_acct (t : Nat) (v : DigitCore) : (s.setCore t v).acct = s.acct := rfl
@[simp] theorem setCore_mem (t : Nat) (v : DigitCore) : (s.setCore t v).mem = s.mem := rfl
@[simp] theorem setCore_ecc (t : Nat) (v : DigitCore) : (s.setCore t v).ecc = s.ecc := rfl
@[simp] theorem setCore_writebacks (t : Nat) (v : DigitCore) : (s.setCore t v).writebacks = s.writebacks := rfl
@[simp] theorem setCore_scrub (t : Nat) (v : DigitCore) : (s.setCore t v).scrub = s.scrub := rfl
@[simp] theorem setCore_counter (t : Nat) (v : DigitCore) : (s.setCore t v).counter = s.counter := rfl
@[simp] theorem setCore_drawSeed (t : Nat) (v : DigitCore) : (s.setCore t v).drawSeed = s.drawSeed := rfl
@[simp] theorem setCore_free (t : Nat) (v : DigitCore) : (s.setCore t v).free = s.free := rfl
@[simp] theorem setCore_bases (t : Nat) (v : DigitCore) : (s.setCore t v).bases = s.bases := rfl
@[simp] theorem setCore_tallies (t : Nat) (v : DigitCore) : (s.setCore t v).tallies = s.tallies := rfl
@[simp] theorem setCore_arrays (t : Nat) (v : DigitCore) : (s.setCore t v).arrays = s.arrays := rfl
@[simp] theorem setCore_rods (t : Nat) (v : DigitCore) : (s.setCore t v).rods = s.rods := rfl
@[simp] theorem setCore_engines (t : Nat) (v : DigitCore) : (s.setCore t v).engines = s.engines := rfl
@[simp] theorem setCore_regWrites (t : Nat) (v : DigitCore) : (s.setCore t v).regWrites = s.regWrites := rfl
@[simp] theorem setCore_channels (t : Nat) (v : DigitCore) : (s.setCore t v).channels = s.channels := rfl
@[simp] theorem setCore_jobs (t : Nat) (v : DigitCore) : (s.setCore t v).jobs = s.jobs := rfl
@[simp] theorem setCore_nextJob (t : Nat) (v : DigitCore) : (s.setCore t v).nextJob = s.nextJob := rfl
@[simp] theorem setCore_lastRun (t : Nat) (v : DigitCore) : (s.setCore t v).lastRun = s.lastRun := rfl
@[simp] theorem setCore_carriers (t : Nat) (v : DigitCore) : (s.setCore t v).carriers = s.carriers := rfl
@[simp] theorem setCore_harq (t : Nat) (v : DigitCore) : (s.setCore t v).harq = s.harq := rfl
@[simp] theorem setCore_decodes (t : Nat) (v : DigitCore) : (s.setCore t v).decodes = s.decodes := rfl
@[simp] theorem setCore_decodeNo (t : Nat) (v : DigitCore) : (s.setCore t v).decodeNo = s.decodeNo := rfl
@[simp] theorem setCore_links (t : Nat) (v : DigitCore) : (s.setCore t v).links = s.links := rfl
@[simp] theorem setCore_sub (t : Nat) (v : DigitCore) : (s.setCore t v).sub = s.sub := rfl
@[simp] theorem setCore_cpl (t : Nat) (v : DigitCore) : (s.setCore t v).cpl = s.cpl := rfl
@[simp] theorem setCore_host (t : Nat) (v : DigitCore) : (s.setCore t v).host = s.host := rfl
@[simp] theorem setCore_sent (t : Nat) (v : DigitCore) : (s.setCore t v).sent = s.sent := rfl
@[simp] theorem setCore_integ (t : Nat) (v : DigitCore) : (s.setCore t v).integ = s.integ := rfl
@[simp] theorem setCore_bridge (t : Nat) (v : DigitCore) : (s.setCore t v).bridge = s.bridge := rfl
@[simp] theorem setCore_power (t : Nat) (v : DigitCore) : (s.setCore t v).power = s.power := rfl
@[simp] theorem setCore_sec (t : Nat) (v : DigitCore) : (s.setCore t v).sec = s.sec := rfl
@[simp] theorem setCore_dbg (t : Nat) (v : DigitCore) : (s.setCore t v).dbg = s.dbg := rfl
@[simp] theorem setCore_pending (t : Nat) (v : DigitCore) : (s.setCore t v).pending = s.pending := rfl

@[simp] theorem setArray_regs (t : Nat) (v : BeadArray) : (s.setArray t v).regs = s.regs := rfl
@[simp] theorem setArray_shadows (t : Nat) (v : BeadArray) : (s.setArray t v).shadows = s.shadows := rfl
@[simp] theorem setArray_acct (t : Nat) (v : BeadArray) : (s.setArray t v).acct = s.acct := rfl
@[simp] theorem setArray_mem (t : Nat) (v : BeadArray) : (s.setArray t v).mem = s.mem := rfl
@[simp] theorem setArray_ecc (t : Nat) (v : BeadArray) : (s.setArray t v).ecc = s.ecc := rfl
@[simp] theorem setArray_writebacks (t : Nat) (v : BeadArray) : (s.setArray t v).writebacks = s.writebacks := rfl
@[simp] theorem setArray_scrub (t : Nat) (v : BeadArray) : (s.setArray t v).scrub = s.scrub := rfl
@[simp] theorem setArray_counter (t : Nat) (v : BeadArray) : (s.setArray t v).counter = s.counter := rfl
@[simp] theorem setArray_drawSeed (t : Nat) (v : BeadArray) : (s.setArray t v).drawSeed = s.drawSeed := rfl
@[simp] theorem setArray_free (t : Nat) (v : BeadArray) : (s.setArray t v).free = s.free := rfl
@[simp] theorem setArray_bases (t : Nat) (v : BeadArray) : (s.setArray t v).bases = s.bases := rfl
@[simp] theorem setArray_tallies (t : Nat) (v : BeadArray) : (s.setArray t v).tallies = s.tallies := rfl
@[simp] theorem setArray_cores (t : Nat) (v : BeadArray) : (s.setArray t v).cores = s.cores := rfl
@[simp] theorem setArray_rods (t : Nat) (v : BeadArray) : (s.setArray t v).rods = s.rods := rfl
@[simp] theorem setArray_engines (t : Nat) (v : BeadArray) : (s.setArray t v).engines = s.engines := rfl
@[simp] theorem setArray_regWrites (t : Nat) (v : BeadArray) : (s.setArray t v).regWrites = s.regWrites := rfl
@[simp] theorem setArray_channels (t : Nat) (v : BeadArray) : (s.setArray t v).channels = s.channels := rfl
@[simp] theorem setArray_jobs (t : Nat) (v : BeadArray) : (s.setArray t v).jobs = s.jobs := rfl
@[simp] theorem setArray_nextJob (t : Nat) (v : BeadArray) : (s.setArray t v).nextJob = s.nextJob := rfl
@[simp] theorem setArray_lastRun (t : Nat) (v : BeadArray) : (s.setArray t v).lastRun = s.lastRun := rfl
@[simp] theorem setArray_carriers (t : Nat) (v : BeadArray) : (s.setArray t v).carriers = s.carriers := rfl
@[simp] theorem setArray_harq (t : Nat) (v : BeadArray) : (s.setArray t v).harq = s.harq := rfl
@[simp] theorem setArray_decodes (t : Nat) (v : BeadArray) : (s.setArray t v).decodes = s.decodes := rfl
@[simp] theorem setArray_decodeNo (t : Nat) (v : BeadArray) : (s.setArray t v).decodeNo = s.decodeNo := rfl
@[simp] theorem setArray_links (t : Nat) (v : BeadArray) : (s.setArray t v).links = s.links := rfl
@[simp] theorem setArray_sub (t : Nat) (v : BeadArray) : (s.setArray t v).sub = s.sub := rfl
@[simp] theorem setArray_cpl (t : Nat) (v : BeadArray) : (s.setArray t v).cpl = s.cpl := rfl
@[simp] theorem setArray_host (t : Nat) (v : BeadArray) : (s.setArray t v).host = s.host := rfl
@[simp] theorem setArray_sent (t : Nat) (v : BeadArray) : (s.setArray t v).sent = s.sent := rfl
@[simp] theorem setArray_integ (t : Nat) (v : BeadArray) : (s.setArray t v).integ = s.integ := rfl
@[simp] theorem setArray_bridge (t : Nat) (v : BeadArray) : (s.setArray t v).bridge = s.bridge := rfl
@[simp] theorem setArray_power (t : Nat) (v : BeadArray) : (s.setArray t v).power = s.power := rfl
@[simp] theorem setArray_sec (t : Nat) (v : BeadArray) : (s.setArray t v).sec = s.sec := rfl
@[simp] theorem setArray_dbg (t : Nat) (v : BeadArray) : (s.setArray t v).dbg = s.dbg := rfl
@[simp] theorem setArray_pending (t : Nat) (v : BeadArray) : (s.setArray t v).pending = s.pending := rfl

@[simp] theorem setRod_regs (t : Nat) (v : RodEngine) : (s.setRod t v).regs = s.regs := rfl
@[simp] theorem setRod_shadows (t : Nat) (v : RodEngine) : (s.setRod t v).shadows = s.shadows := rfl
@[simp] theorem setRod_acct (t : Nat) (v : RodEngine) : (s.setRod t v).acct = s.acct := rfl
@[simp] theorem setRod_mem (t : Nat) (v : RodEngine) : (s.setRod t v).mem = s.mem := rfl
@[simp] theorem setRod_ecc (t : Nat) (v : RodEngine) : (s.setRod t v).ecc = s.ecc := rfl
@[simp] theorem setRod_writebacks (t : Nat) (v : RodEngine) : (s.setRod t v).writebacks = s.writebacks := rfl
@[simp] theorem setRod_scrub (t : Nat) (v : RodEngine) : (s.setRod t v).scrub = s.scrub := rfl
@[simp] theorem setRod_counter (t : Nat) (v : RodEngine) : (s.setRod t v).counter = s.counter := rfl
@[simp] theorem setRod_drawSeed (t : Nat) (v : RodEngine) : (s.setRod t v).drawSeed = s.drawSeed := rfl
@[simp] theorem setRod_free (t : Nat) (v : RodEngine) : (s.setRod t v).free = s.free := rfl
@[simp] theorem setRod_bases (t : Nat) (v : RodEngine) : (s.setRod t v).bases = s.bases := rfl
@[simp] theorem setRod_tallies (t : Nat) (v : RodEngine) : (s.setRod t v).tallies = s.tallies := rfl
@[simp] theorem setRod_cores (t : Nat) (v : RodEngine) : (s.setRod t v).cores = s.cores := rfl
@[simp] theorem setRod_arrays (t : Nat) (v : RodEngine) : (s.setRod t v).arrays = s.arrays := rfl
@[simp] theorem setRod_engines (t : Nat) (v : RodEngine) : (s.setRod t v).engines = s.engines := rfl
@[simp] theorem setRod_regWrites (t : Nat) (v : RodEngine) : (s.setRod t v).regWrites = s.regWrites := rfl
@[simp] theorem setRod_channels (t : Nat) (v : RodEngine) : (s.setRod t v).channels = s.channels := rfl
@[simp] theorem setRod_jobs (t : Nat) (v : RodEngine) : (s.setRod t v).jobs = s.jobs := rfl
@[simp] theorem setRod_nextJob (t : Nat) (v : RodEngine) : (s.setRod t v).nextJob = s.nextJob := rfl
@[simp] theorem setRod_lastRun (t : Nat) (v : RodEngine) : (s.setRod t v).lastRun = s.lastRun := rfl
@[simp] theorem setRod_carriers (t : Nat) (v : RodEngine) : (s.setRod t v).carriers = s.carriers := rfl
@[simp] theorem setRod_harq (t : Nat) (v : RodEngine) : (s.setRod t v).harq = s.harq := rfl
@[simp] theorem setRod_decodes (t : Nat) (v : RodEngine) : (s.setRod t v).decodes = s.decodes := rfl
@[simp] theorem setRod_decodeNo (t : Nat) (v : RodEngine) : (s.setRod t v).decodeNo = s.decodeNo := rfl
@[simp] theorem setRod_links (t : Nat) (v : RodEngine) : (s.setRod t v).links = s.links := rfl
@[simp] theorem setRod_sub (t : Nat) (v : RodEngine) : (s.setRod t v).sub = s.sub := rfl
@[simp] theorem setRod_cpl (t : Nat) (v : RodEngine) : (s.setRod t v).cpl = s.cpl := rfl
@[simp] theorem setRod_host (t : Nat) (v : RodEngine) : (s.setRod t v).host = s.host := rfl
@[simp] theorem setRod_sent (t : Nat) (v : RodEngine) : (s.setRod t v).sent = s.sent := rfl
@[simp] theorem setRod_integ (t : Nat) (v : RodEngine) : (s.setRod t v).integ = s.integ := rfl
@[simp] theorem setRod_bridge (t : Nat) (v : RodEngine) : (s.setRod t v).bridge = s.bridge := rfl
@[simp] theorem setRod_power (t : Nat) (v : RodEngine) : (s.setRod t v).power = s.power := rfl
@[simp] theorem setRod_sec (t : Nat) (v : RodEngine) : (s.setRod t v).sec = s.sec := rfl
@[simp] theorem setRod_dbg (t : Nat) (v : RodEngine) : (s.setRod t v).dbg = s.dbg := rfl
@[simp] theorem setRod_pending (t : Nat) (v : RodEngine) : (s.setRod t v).pending = s.pending := rfl

@[simp] theorem setEngine_regs (e : Nat) (v : SlideEngine) : (s.setEngine e v).regs = s.regs := rfl
@[simp] theorem setEngine_shadows (e : Nat) (v : SlideEngine) : (s.setEngine e v).shadows = s.shadows := rfl
@[simp] theorem setEngine_acct (e : Nat) (v : SlideEngine) : (s.setEngine e v).acct = s.acct := rfl
@[simp] theorem setEngine_mem (e : Nat) (v : SlideEngine) : (s.setEngine e v).mem = s.mem := rfl
@[simp] theorem setEngine_ecc (e : Nat) (v : SlideEngine) : (s.setEngine e v).ecc = s.ecc := rfl
@[simp] theorem setEngine_writebacks (e : Nat) (v : SlideEngine) : (s.setEngine e v).writebacks = s.writebacks := rfl
@[simp] theorem setEngine_scrub (e : Nat) (v : SlideEngine) : (s.setEngine e v).scrub = s.scrub := rfl
@[simp] theorem setEngine_counter (e : Nat) (v : SlideEngine) : (s.setEngine e v).counter = s.counter := rfl
@[simp] theorem setEngine_drawSeed (e : Nat) (v : SlideEngine) : (s.setEngine e v).drawSeed = s.drawSeed := rfl
@[simp] theorem setEngine_free (e : Nat) (v : SlideEngine) : (s.setEngine e v).free = s.free := rfl
@[simp] theorem setEngine_bases (e : Nat) (v : SlideEngine) : (s.setEngine e v).bases = s.bases := rfl
@[simp] theorem setEngine_tallies (e : Nat) (v : SlideEngine) : (s.setEngine e v).tallies = s.tallies := rfl
@[simp] theorem setEngine_cores (e : Nat) (v : SlideEngine) : (s.setEngine e v).cores = s.cores := rfl
@[simp] theorem setEngine_arrays (e : Nat) (v : SlideEngine) : (s.setEngine e v).arrays = s.arrays := rfl
@[simp] theorem setEngine_rods (e : Nat) (v : SlideEngine) : (s.setEngine e v).rods = s.rods := rfl
@[simp] theorem setEngine_regWrites (e : Nat) (v : SlideEngine) : (s.setEngine e v).regWrites = s.regWrites := rfl
@[simp] theorem setEngine_channels (e : Nat) (v : SlideEngine) : (s.setEngine e v).channels = s.channels := rfl
@[simp] theorem setEngine_jobs (e : Nat) (v : SlideEngine) : (s.setEngine e v).jobs = s.jobs := rfl
@[simp] theorem setEngine_nextJob (e : Nat) (v : SlideEngine) : (s.setEngine e v).nextJob = s.nextJob := rfl
@[simp] theorem setEngine_lastRun (e : Nat) (v : SlideEngine) : (s.setEngine e v).lastRun = s.lastRun := rfl
@[simp] theorem setEngine_carriers (e : Nat) (v : SlideEngine) : (s.setEngine e v).carriers = s.carriers := rfl
@[simp] theorem setEngine_harq (e : Nat) (v : SlideEngine) : (s.setEngine e v).harq = s.harq := rfl
@[simp] theorem setEngine_decodes (e : Nat) (v : SlideEngine) : (s.setEngine e v).decodes = s.decodes := rfl
@[simp] theorem setEngine_decodeNo (e : Nat) (v : SlideEngine) : (s.setEngine e v).decodeNo = s.decodeNo := rfl
@[simp] theorem setEngine_links (e : Nat) (v : SlideEngine) : (s.setEngine e v).links = s.links := rfl
@[simp] theorem setEngine_sub (e : Nat) (v : SlideEngine) : (s.setEngine e v).sub = s.sub := rfl
@[simp] theorem setEngine_cpl (e : Nat) (v : SlideEngine) : (s.setEngine e v).cpl = s.cpl := rfl
@[simp] theorem setEngine_host (e : Nat) (v : SlideEngine) : (s.setEngine e v).host = s.host := rfl
@[simp] theorem setEngine_sent (e : Nat) (v : SlideEngine) : (s.setEngine e v).sent = s.sent := rfl
@[simp] theorem setEngine_integ (e : Nat) (v : SlideEngine) : (s.setEngine e v).integ = s.integ := rfl
@[simp] theorem setEngine_bridge (e : Nat) (v : SlideEngine) : (s.setEngine e v).bridge = s.bridge := rfl
@[simp] theorem setEngine_power (e : Nat) (v : SlideEngine) : (s.setEngine e v).power = s.power := rfl
@[simp] theorem setEngine_sec (e : Nat) (v : SlideEngine) : (s.setEngine e v).sec = s.sec := rfl
@[simp] theorem setEngine_dbg (e : Nat) (v : SlideEngine) : (s.setEngine e v).dbg = s.dbg := rfl
@[simp] theorem setEngine_pending (e : Nat) (v : SlideEngine) : (s.setEngine e v).pending = s.pending := rfl

@[simp] theorem setChan_regs (e ch : Nat) (v : SlideChannel) : (s.setChan e ch v).regs = s.regs := rfl
@[simp] theorem setChan_shadows (e ch : Nat) (v : SlideChannel) : (s.setChan e ch v).shadows = s.shadows := rfl
@[simp] theorem setChan_acct (e ch : Nat) (v : SlideChannel) : (s.setChan e ch v).acct = s.acct := rfl
@[simp] theorem setChan_mem (e ch : Nat) (v : SlideChannel) : (s.setChan e ch v).mem = s.mem := rfl
@[simp] theorem setChan_ecc (e ch : Nat) (v : SlideChannel) : (s.setChan e ch v).ecc = s.ecc := rfl
@[simp] theorem setChan_writebacks (e ch : Nat) (v : SlideChannel) : (s.setChan e ch v).writebacks = s.writebacks := rfl
@[simp] theorem setChan_scrub (e ch : Nat) (v : SlideChannel) : (s.setChan e ch v).scrub = s.scrub := rfl
@[simp] theorem setChan_counter (e ch : Nat) (v : SlideChannel) : (s.setChan e ch v).counter = s.counter := rfl
@[simp] theorem setChan_drawSeed (e ch : Nat) (v : SlideChannel) : (s.setChan e ch v).drawSeed = s.drawSeed := rfl
@[simp] theorem setChan_free (e ch : Nat) (v : SlideChannel) : (s.setChan e ch v).free = s.free := rfl
@[simp] theorem setChan_bases (e ch : Nat) (v : SlideChannel) : (s.setChan e ch v).bases = s.bases := rfl
@[simp] theorem setChan_tallies (e ch : Nat) (v : SlideChannel) : (s.setChan e ch v).tallies = s.tallies := rfl
@[simp] theorem setChan_cores (e ch : Nat) (v : SlideChannel) : (s.setChan e ch v).cores = s.cores := rfl
@[simp] theorem setChan_arrays (e ch : Nat) (v : SlideChannel) : (s.setChan e ch v).arrays = s.arrays := rfl
@[simp] theorem setChan_rods (e ch : Nat) (v : SlideChannel) : (s.setChan e ch v).rods = s.rods := rfl
@[simp] theorem setChan_engines (e ch : Nat) (v : SlideChannel) : (s.setChan e ch v).engines = s.engines := rfl
@[simp] theorem setChan_regWrites (e ch : Nat) (v : SlideChannel) : (s.setChan e ch v).regWrites = s.regWrites := rfl
@[simp] theorem setChan_jobs (e ch : Nat) (v : SlideChannel) : (s.setChan e ch v).jobs = s.jobs := rfl
@[simp] theorem setChan_nextJob (e ch : Nat) (v : SlideChannel) : (s.setChan e ch v).nextJob = s.nextJob := rfl
@[simp] theorem setChan_lastRun (e ch : Nat) (v : SlideChannel) : (s.setChan e ch v).lastRun = s.lastRun := rfl
@[simp] theorem setChan_carriers (e ch : Nat) (v : SlideChannel) : (s.setChan e ch v).carriers = s.carriers := rfl
@[simp] theorem setChan_harq (e ch : Nat) (v : SlideChannel) : (s.setChan e ch v).harq = s.harq := rfl
@[simp] theorem setChan_decodes (e ch : Nat) (v : SlideChannel) : (s.setChan e ch v).decodes = s.decodes := rfl
@[simp] theorem setChan_decodeNo (e ch : Nat) (v : SlideChannel) : (s.setChan e ch v).decodeNo = s.decodeNo := rfl
@[simp] theorem setChan_links (e ch : Nat) (v : SlideChannel) : (s.setChan e ch v).links = s.links := rfl
@[simp] theorem setChan_sub (e ch : Nat) (v : SlideChannel) : (s.setChan e ch v).sub = s.sub := rfl
@[simp] theorem setChan_cpl (e ch : Nat) (v : SlideChannel) : (s.setChan e ch v).cpl = s.cpl := rfl
@[simp] theorem setChan_host (e ch : Nat) (v : SlideChannel) : (s.setChan e ch v).host = s.host := rfl
@[simp] theorem setChan_sent (e ch : Nat) (v : SlideChannel) : (s.setChan e ch v).sent = s.sent := rfl
@[simp] theorem setChan_integ (e ch : Nat) (v : SlideChannel) : (s.setChan e ch v).integ = s.integ := rfl
@[simp] theorem setChan_bridge (e ch : Nat) (v : SlideChannel) : (s.setChan e ch v).bridge = s.bridge := rfl
@[simp] theorem setChan_power (e ch : Nat) (v : SlideChannel) : (s.setChan e ch v).power = s.power := rfl
@[simp] theorem setChan_sec (e ch : Nat) (v : SlideChannel) : (s.setChan e ch v).sec = s.sec := rfl
@[simp] theorem setChan_dbg (e ch : Nat) (v : SlideChannel) : (s.setChan e ch v).dbg = s.dbg := rfl
@[simp] theorem setChan_pending (e ch : Nat) (v : SlideChannel) : (s.setChan e ch v).pending = s.pending := rfl

@[simp] theorem setJob_regs (n : Nat) (v : JobSlot) : (s.setJob n v).regs = s.regs := rfl
@[simp] theorem setJob_shadows (n : Nat) (v : JobSlot) : (s.setJob n v).shadows = s.shadows := rfl
@[simp] theorem setJob_acct (n : Nat) (v : JobSlot) : (s.setJob n v).acct = s.acct := rfl
@[simp] theorem setJob_mem (n : Nat) (v : JobSlot) : (s.setJob n v).mem = s.mem := rfl
@[simp] theorem setJob_ecc (n : Nat) (v : JobSlot) : (s.setJob n v).ecc = s.ecc := rfl
@[simp] theorem setJob_writebacks (n : Nat) (v : JobSlot) : (s.setJob n v).writebacks = s.writebacks := rfl
@[simp] theorem setJob_scrub (n : Nat) (v : JobSlot) : (s.setJob n v).scrub = s.scrub := rfl
@[simp] theorem setJob_counter (n : Nat) (v : JobSlot) : (s.setJob n v).counter = s.counter := rfl
@[simp] theorem setJob_drawSeed (n : Nat) (v : JobSlot) : (s.setJob n v).drawSeed = s.drawSeed := rfl
@[simp] theorem setJob_free (n : Nat) (v : JobSlot) : (s.setJob n v).free = s.free := rfl
@[simp] theorem setJob_bases (n : Nat) (v : JobSlot) : (s.setJob n v).bases = s.bases := rfl
@[simp] theorem setJob_tallies (n : Nat) (v : JobSlot) : (s.setJob n v).tallies = s.tallies := rfl
@[simp] theorem setJob_cores (n : Nat) (v : JobSlot) : (s.setJob n v).cores = s.cores := rfl
@[simp] theorem setJob_arrays (n : Nat) (v : JobSlot) : (s.setJob n v).arrays = s.arrays := rfl
@[simp] theorem setJob_rods (n : Nat) (v : JobSlot) : (s.setJob n v).rods = s.rods := rfl
@[simp] theorem setJob_engines (n : Nat) (v : JobSlot) : (s.setJob n v).engines = s.engines := rfl
@[simp] theorem setJob_regWrites (n : Nat) (v : JobSlot) : (s.setJob n v).regWrites = s.regWrites := rfl
@[simp] theorem setJob_channels (n : Nat) (v : JobSlot) : (s.setJob n v).channels = s.channels := rfl
@[simp] theorem setJob_nextJob (n : Nat) (v : JobSlot) : (s.setJob n v).nextJob = s.nextJob := rfl
@[simp] theorem setJob_lastRun (n : Nat) (v : JobSlot) : (s.setJob n v).lastRun = s.lastRun := rfl
@[simp] theorem setJob_carriers (n : Nat) (v : JobSlot) : (s.setJob n v).carriers = s.carriers := rfl
@[simp] theorem setJob_harq (n : Nat) (v : JobSlot) : (s.setJob n v).harq = s.harq := rfl
@[simp] theorem setJob_decodes (n : Nat) (v : JobSlot) : (s.setJob n v).decodes = s.decodes := rfl
@[simp] theorem setJob_decodeNo (n : Nat) (v : JobSlot) : (s.setJob n v).decodeNo = s.decodeNo := rfl
@[simp] theorem setJob_links (n : Nat) (v : JobSlot) : (s.setJob n v).links = s.links := rfl
@[simp] theorem setJob_sub (n : Nat) (v : JobSlot) : (s.setJob n v).sub = s.sub := rfl
@[simp] theorem setJob_cpl (n : Nat) (v : JobSlot) : (s.setJob n v).cpl = s.cpl := rfl
@[simp] theorem setJob_host (n : Nat) (v : JobSlot) : (s.setJob n v).host = s.host := rfl
@[simp] theorem setJob_sent (n : Nat) (v : JobSlot) : (s.setJob n v).sent = s.sent := rfl
@[simp] theorem setJob_integ (n : Nat) (v : JobSlot) : (s.setJob n v).integ = s.integ := rfl
@[simp] theorem setJob_bridge (n : Nat) (v : JobSlot) : (s.setJob n v).bridge = s.bridge := rfl
@[simp] theorem setJob_power (n : Nat) (v : JobSlot) : (s.setJob n v).power = s.power := rfl
@[simp] theorem setJob_sec (n : Nat) (v : JobSlot) : (s.setJob n v).sec = s.sec := rfl
@[simp] theorem setJob_dbg (n : Nat) (v : JobSlot) : (s.setJob n v).dbg = s.dbg := rfl
@[simp] theorem setJob_pending (n : Nat) (v : JobSlot) : (s.setJob n v).pending = s.pending := rfl

@[simp] theorem setCarrier_regs (c : Nat) (v : CarrierState) : (s.setCarrier c v).regs = s.regs := rfl
@[simp] theorem setCarrier_shadows (c : Nat) (v : CarrierState) : (s.setCarrier c v).shadows = s.shadows := rfl
@[simp] theorem setCarrier_acct (c : Nat) (v : CarrierState) : (s.setCarrier c v).acct = s.acct := rfl
@[simp] theorem setCarrier_mem (c : Nat) (v : CarrierState) : (s.setCarrier c v).mem = s.mem := rfl
@[simp] theorem setCarrier_ecc (c : Nat) (v : CarrierState) : (s.setCarrier c v).ecc = s.ecc := rfl
@[simp] theorem setCarrier_writebacks (c : Nat) (v : CarrierState) : (s.setCarrier c v).writebacks = s.writebacks := rfl
@[simp] theorem setCarrier_scrub (c : Nat) (v : CarrierState) : (s.setCarrier c v).scrub = s.scrub := rfl
@[simp] theorem setCarrier_counter (c : Nat) (v : CarrierState) : (s.setCarrier c v).counter = s.counter := rfl
@[simp] theorem setCarrier_drawSeed (c : Nat) (v : CarrierState) : (s.setCarrier c v).drawSeed = s.drawSeed := rfl
@[simp] theorem setCarrier_free (c : Nat) (v : CarrierState) : (s.setCarrier c v).free = s.free := rfl
@[simp] theorem setCarrier_bases (c : Nat) (v : CarrierState) : (s.setCarrier c v).bases = s.bases := rfl
@[simp] theorem setCarrier_tallies (c : Nat) (v : CarrierState) : (s.setCarrier c v).tallies = s.tallies := rfl
@[simp] theorem setCarrier_cores (c : Nat) (v : CarrierState) : (s.setCarrier c v).cores = s.cores := rfl
@[simp] theorem setCarrier_arrays (c : Nat) (v : CarrierState) : (s.setCarrier c v).arrays = s.arrays := rfl
@[simp] theorem setCarrier_rods (c : Nat) (v : CarrierState) : (s.setCarrier c v).rods = s.rods := rfl
@[simp] theorem setCarrier_engines (c : Nat) (v : CarrierState) : (s.setCarrier c v).engines = s.engines := rfl
@[simp] theorem setCarrier_regWrites (c : Nat) (v : CarrierState) : (s.setCarrier c v).regWrites = s.regWrites := rfl
@[simp] theorem setCarrier_channels (c : Nat) (v : CarrierState) : (s.setCarrier c v).channels = s.channels := rfl
@[simp] theorem setCarrier_jobs (c : Nat) (v : CarrierState) : (s.setCarrier c v).jobs = s.jobs := rfl
@[simp] theorem setCarrier_nextJob (c : Nat) (v : CarrierState) : (s.setCarrier c v).nextJob = s.nextJob := rfl
@[simp] theorem setCarrier_lastRun (c : Nat) (v : CarrierState) : (s.setCarrier c v).lastRun = s.lastRun := rfl
@[simp] theorem setCarrier_harq (c : Nat) (v : CarrierState) : (s.setCarrier c v).harq = s.harq := rfl
@[simp] theorem setCarrier_decodes (c : Nat) (v : CarrierState) : (s.setCarrier c v).decodes = s.decodes := rfl
@[simp] theorem setCarrier_decodeNo (c : Nat) (v : CarrierState) : (s.setCarrier c v).decodeNo = s.decodeNo := rfl
@[simp] theorem setCarrier_links (c : Nat) (v : CarrierState) : (s.setCarrier c v).links = s.links := rfl
@[simp] theorem setCarrier_sub (c : Nat) (v : CarrierState) : (s.setCarrier c v).sub = s.sub := rfl
@[simp] theorem setCarrier_cpl (c : Nat) (v : CarrierState) : (s.setCarrier c v).cpl = s.cpl := rfl
@[simp] theorem setCarrier_host (c : Nat) (v : CarrierState) : (s.setCarrier c v).host = s.host := rfl
@[simp] theorem setCarrier_sent (c : Nat) (v : CarrierState) : (s.setCarrier c v).sent = s.sent := rfl
@[simp] theorem setCarrier_integ (c : Nat) (v : CarrierState) : (s.setCarrier c v).integ = s.integ := rfl
@[simp] theorem setCarrier_bridge (c : Nat) (v : CarrierState) : (s.setCarrier c v).bridge = s.bridge := rfl
@[simp] theorem setCarrier_power (c : Nat) (v : CarrierState) : (s.setCarrier c v).power = s.power := rfl
@[simp] theorem setCarrier_sec (c : Nat) (v : CarrierState) : (s.setCarrier c v).sec = s.sec := rfl
@[simp] theorem setCarrier_dbg (c : Nat) (v : CarrierState) : (s.setCarrier c v).dbg = s.dbg := rfl
@[simp] theorem setCarrier_pending (c : Nat) (v : CarrierState) : (s.setCarrier c v).pending = s.pending := rfl

@[simp] theorem setHarqKey_regs (c k : Nat) (v : Option Nat) : (s.setHarqKey c k v).regs = s.regs := rfl
@[simp] theorem setHarqKey_shadows (c k : Nat) (v : Option Nat) : (s.setHarqKey c k v).shadows = s.shadows := rfl
@[simp] theorem setHarqKey_acct (c k : Nat) (v : Option Nat) : (s.setHarqKey c k v).acct = s.acct := rfl
@[simp] theorem setHarqKey_mem (c k : Nat) (v : Option Nat) : (s.setHarqKey c k v).mem = s.mem := rfl
@[simp] theorem setHarqKey_ecc (c k : Nat) (v : Option Nat) : (s.setHarqKey c k v).ecc = s.ecc := rfl
@[simp] theorem setHarqKey_writebacks (c k : Nat) (v : Option Nat) : (s.setHarqKey c k v).writebacks = s.writebacks := rfl
@[simp] theorem setHarqKey_scrub (c k : Nat) (v : Option Nat) : (s.setHarqKey c k v).scrub = s.scrub := rfl
@[simp] theorem setHarqKey_counter (c k : Nat) (v : Option Nat) : (s.setHarqKey c k v).counter = s.counter := rfl
@[simp] theorem setHarqKey_drawSeed (c k : Nat) (v : Option Nat) : (s.setHarqKey c k v).drawSeed = s.drawSeed := rfl
@[simp] theorem setHarqKey_free (c k : Nat) (v : Option Nat) : (s.setHarqKey c k v).free = s.free := rfl
@[simp] theorem setHarqKey_bases (c k : Nat) (v : Option Nat) : (s.setHarqKey c k v).bases = s.bases := rfl
@[simp] theorem setHarqKey_tallies (c k : Nat) (v : Option Nat) : (s.setHarqKey c k v).tallies = s.tallies := rfl
@[simp] theorem setHarqKey_cores (c k : Nat) (v : Option Nat) : (s.setHarqKey c k v).cores = s.cores := rfl
@[simp] theorem setHarqKey_arrays (c k : Nat) (v : Option Nat) : (s.setHarqKey c k v).arrays = s.arrays := rfl
@[simp] theorem setHarqKey_rods (c k : Nat) (v : Option Nat) : (s.setHarqKey c k v).rods = s.rods := rfl
@[simp] theorem setHarqKey_engines (c k : Nat) (v : Option Nat) : (s.setHarqKey c k v).engines = s.engines := rfl
@[simp] theorem setHarqKey_regWrites (c k : Nat) (v : Option Nat) : (s.setHarqKey c k v).regWrites = s.regWrites := rfl
@[simp] theorem setHarqKey_channels (c k : Nat) (v : Option Nat) : (s.setHarqKey c k v).channels = s.channels := rfl
@[simp] theorem setHarqKey_jobs (c k : Nat) (v : Option Nat) : (s.setHarqKey c k v).jobs = s.jobs := rfl
@[simp] theorem setHarqKey_nextJob (c k : Nat) (v : Option Nat) : (s.setHarqKey c k v).nextJob = s.nextJob := rfl
@[simp] theorem setHarqKey_lastRun (c k : Nat) (v : Option Nat) : (s.setHarqKey c k v).lastRun = s.lastRun := rfl
@[simp] theorem setHarqKey_carriers (c k : Nat) (v : Option Nat) : (s.setHarqKey c k v).carriers = s.carriers := rfl
@[simp] theorem setHarqKey_decodes (c k : Nat) (v : Option Nat) : (s.setHarqKey c k v).decodes = s.decodes := rfl
@[simp] theorem setHarqKey_decodeNo (c k : Nat) (v : Option Nat) : (s.setHarqKey c k v).decodeNo = s.decodeNo := rfl
@[simp] theorem setHarqKey_links (c k : Nat) (v : Option Nat) : (s.setHarqKey c k v).links = s.links := rfl
@[simp] theorem setHarqKey_sub (c k : Nat) (v : Option Nat) : (s.setHarqKey c k v).sub = s.sub := rfl
@[simp] theorem setHarqKey_cpl (c k : Nat) (v : Option Nat) : (s.setHarqKey c k v).cpl = s.cpl := rfl
@[simp] theorem setHarqKey_host (c k : Nat) (v : Option Nat) : (s.setHarqKey c k v).host = s.host := rfl
@[simp] theorem setHarqKey_sent (c k : Nat) (v : Option Nat) : (s.setHarqKey c k v).sent = s.sent := rfl
@[simp] theorem setHarqKey_integ (c k : Nat) (v : Option Nat) : (s.setHarqKey c k v).integ = s.integ := rfl
@[simp] theorem setHarqKey_bridge (c k : Nat) (v : Option Nat) : (s.setHarqKey c k v).bridge = s.bridge := rfl
@[simp] theorem setHarqKey_power (c k : Nat) (v : Option Nat) : (s.setHarqKey c k v).power = s.power := rfl
@[simp] theorem setHarqKey_sec (c k : Nat) (v : Option Nat) : (s.setHarqKey c k v).sec = s.sec := rfl
@[simp] theorem setHarqKey_dbg (c k : Nat) (v : Option Nat) : (s.setHarqKey c k v).dbg = s.dbg := rfl
@[simp] theorem setHarqKey_pending (c k : Nat) (v : Option Nat) : (s.setHarqKey c k v).pending = s.pending := rfl

@[simp] theorem setLink_regs (c : Nat) (v : LinkState) : (s.setLink c v).regs = s.regs := rfl
@[simp] theorem setLink_shadows (c : Nat) (v : LinkState) : (s.setLink c v).shadows = s.shadows := rfl
@[simp] theorem setLink_acct (c : Nat) (v : LinkState) : (s.setLink c v).acct = s.acct := rfl
@[simp] theorem setLink_mem (c : Nat) (v : LinkState) : (s.setLink c v).mem = s.mem := rfl
@[simp] theorem setLink_ecc (c : Nat) (v : LinkState) : (s.setLink c v).ecc = s.ecc := rfl
@[simp] theorem setLink_writebacks (c : Nat) (v : LinkState) : (s.setLink c v).writebacks = s.writebacks := rfl
@[simp] theorem setLink_scrub (c : Nat) (v : LinkState) : (s.setLink c v).scrub = s.scrub := rfl
@[simp] theorem setLink_counter (c : Nat) (v : LinkState) : (s.setLink c v).counter = s.counter := rfl
@[simp] theorem setLink_drawSeed (c : Nat) (v : LinkState) : (s.setLink c v).drawSeed = s.drawSeed := rfl
@[simp] theorem setLink_free (c : Nat) (v : LinkState) : (s.setLink c v).free = s.free := rfl
@[simp] theorem setLink_bases (c : Nat) (v : LinkState) : (s.setLink c v).bases = s.bases := rfl
@[simp] theorem setLink_tallies (c : Nat) (v : LinkState) : (s.setLink c v).tallies = s.tallies := rfl
@[simp] theorem setLink_cores (c : Nat) (v : LinkState) : (s.setLink c v).cores = s.cores := rfl
@[simp] theorem setLink_arrays (c : Nat) (v : LinkState) : (s.setLink c v).arrays = s.arrays := rfl
@[simp] theorem setLink_rods (c : Nat) (v : LinkState) : (s.setLink c v).rods = s.rods := rfl
@[simp] theorem setLink_engines (c : Nat) (v : LinkState) : (s.setLink c v).engines = s.engines := rfl
@[simp] theorem setLink_regWrites (c : Nat) (v : LinkState) : (s.setLink c v).regWrites = s.regWrites := rfl
@[simp] theorem setLink_channels (c : Nat) (v : LinkState) : (s.setLink c v).channels = s.channels := rfl
@[simp] theorem setLink_jobs (c : Nat) (v : LinkState) : (s.setLink c v).jobs = s.jobs := rfl
@[simp] theorem setLink_nextJob (c : Nat) (v : LinkState) : (s.setLink c v).nextJob = s.nextJob := rfl
@[simp] theorem setLink_lastRun (c : Nat) (v : LinkState) : (s.setLink c v).lastRun = s.lastRun := rfl
@[simp] theorem setLink_carriers (c : Nat) (v : LinkState) : (s.setLink c v).carriers = s.carriers := rfl
@[simp] theorem setLink_harq (c : Nat) (v : LinkState) : (s.setLink c v).harq = s.harq := rfl
@[simp] theorem setLink_decodes (c : Nat) (v : LinkState) : (s.setLink c v).decodes = s.decodes := rfl
@[simp] theorem setLink_decodeNo (c : Nat) (v : LinkState) : (s.setLink c v).decodeNo = s.decodeNo := rfl
@[simp] theorem setLink_sub (c : Nat) (v : LinkState) : (s.setLink c v).sub = s.sub := rfl
@[simp] theorem setLink_cpl (c : Nat) (v : LinkState) : (s.setLink c v).cpl = s.cpl := rfl
@[simp] theorem setLink_host (c : Nat) (v : LinkState) : (s.setLink c v).host = s.host := rfl
@[simp] theorem setLink_sent (c : Nat) (v : LinkState) : (s.setLink c v).sent = s.sent := rfl
@[simp] theorem setLink_integ (c : Nat) (v : LinkState) : (s.setLink c v).integ = s.integ := rfl
@[simp] theorem setLink_bridge (c : Nat) (v : LinkState) : (s.setLink c v).bridge = s.bridge := rfl
@[simp] theorem setLink_power (c : Nat) (v : LinkState) : (s.setLink c v).power = s.power := rfl
@[simp] theorem setLink_sec (c : Nat) (v : LinkState) : (s.setLink c v).sec = s.sec := rfl
@[simp] theorem setLink_dbg (c : Nat) (v : LinkState) : (s.setLink c v).dbg = s.dbg := rfl
@[simp] theorem setLink_pending (c : Nat) (v : LinkState) : (s.setLink c v).pending = s.pending := rfl

@[simp] theorem setInteg_regs (v : Integrity) : (s.setInteg v).regs = s.regs := rfl
@[simp] theorem setInteg_shadows (v : Integrity) : (s.setInteg v).shadows = s.shadows := rfl
@[simp] theorem setInteg_acct (v : Integrity) : (s.setInteg v).acct = s.acct := rfl
@[simp] theorem setInteg_mem (v : Integrity) : (s.setInteg v).mem = s.mem := rfl
@[simp] theorem setInteg_ecc (v : Integrity) : (s.setInteg v).ecc = s.ecc := rfl
@[simp] theorem setInteg_writebacks (v : Integrity) : (s.setInteg v).writebacks = s.writebacks := rfl
@[simp] theorem setInteg_scrub (v : Integrity) : (s.setInteg v).scrub = s.scrub := rfl
@[simp] theorem setInteg_counter (v : Integrity) : (s.setInteg v).counter = s.counter := rfl
@[simp] theorem setInteg_drawSeed (v : Integrity) : (s.setInteg v).drawSeed = s.drawSeed := rfl
@[simp] theorem setInteg_free (v : Integrity) : (s.setInteg v).free = s.free := rfl
@[simp] theorem setInteg_bases (v : Integrity) : (s.setInteg v).bases = s.bases := rfl
@[simp] theorem setInteg_tallies (v : Integrity) : (s.setInteg v).tallies = s.tallies := rfl
@[simp] theorem setInteg_cores (v : Integrity) : (s.setInteg v).cores = s.cores := rfl
@[simp] theorem setInteg_arrays (v : Integrity) : (s.setInteg v).arrays = s.arrays := rfl
@[simp] theorem setInteg_rods (v : Integrity) : (s.setInteg v).rods = s.rods := rfl
@[simp] theorem setInteg_engines (v : Integrity) : (s.setInteg v).engines = s.engines := rfl
@[simp] theorem setInteg_regWrites (v : Integrity) : (s.setInteg v).regWrites = s.regWrites := rfl
@[simp] theorem setInteg_channels (v : Integrity) : (s.setInteg v).channels = s.channels := rfl
@[simp] theorem setInteg_jobs (v : Integrity) : (s.setInteg v).jobs = s.jobs := rfl
@[simp] theorem setInteg_nextJob (v : Integrity) : (s.setInteg v).nextJob = s.nextJob := rfl
@[simp] theorem setInteg_lastRun (v : Integrity) : (s.setInteg v).lastRun = s.lastRun := rfl
@[simp] theorem setInteg_carriers (v : Integrity) : (s.setInteg v).carriers = s.carriers := rfl
@[simp] theorem setInteg_harq (v : Integrity) : (s.setInteg v).harq = s.harq := rfl
@[simp] theorem setInteg_decodes (v : Integrity) : (s.setInteg v).decodes = s.decodes := rfl
@[simp] theorem setInteg_decodeNo (v : Integrity) : (s.setInteg v).decodeNo = s.decodeNo := rfl
@[simp] theorem setInteg_links (v : Integrity) : (s.setInteg v).links = s.links := rfl
@[simp] theorem setInteg_sub (v : Integrity) : (s.setInteg v).sub = s.sub := rfl
@[simp] theorem setInteg_cpl (v : Integrity) : (s.setInteg v).cpl = s.cpl := rfl
@[simp] theorem setInteg_host (v : Integrity) : (s.setInteg v).host = s.host := rfl
@[simp] theorem setInteg_sent (v : Integrity) : (s.setInteg v).sent = s.sent := rfl
@[simp] theorem setInteg_bridge (v : Integrity) : (s.setInteg v).bridge = s.bridge := rfl
@[simp] theorem setInteg_power (v : Integrity) : (s.setInteg v).power = s.power := rfl
@[simp] theorem setInteg_sec (v : Integrity) : (s.setInteg v).sec = s.sec := rfl
@[simp] theorem setInteg_dbg (v : Integrity) : (s.setInteg v).dbg = s.dbg := rfl
@[simp] theorem setInteg_pending (v : Integrity) : (s.setInteg v).pending = s.pending := rfl

@[simp] theorem onInteg_regs (f : Integrity → Integrity) : (s.onInteg f).regs = s.regs := rfl
@[simp] theorem onInteg_shadows (f : Integrity → Integrity) : (s.onInteg f).shadows = s.shadows := rfl
@[simp] theorem onInteg_acct (f : Integrity → Integrity) : (s.onInteg f).acct = s.acct := rfl
@[simp] theorem onInteg_mem (f : Integrity → Integrity) : (s.onInteg f).mem = s.mem := rfl
@[simp] theorem onInteg_ecc (f : Integrity → Integrity) : (s.onInteg f).ecc = s.ecc := rfl
@[simp] theorem onInteg_writebacks (f : Integrity → Integrity) : (s.onInteg f).writebacks = s.writebacks := rfl
@[simp] theorem onInteg_scrub (f : Integrity → Integrity) : (s.onInteg f).scrub = s.scrub := rfl
@[simp] theorem onInteg_counter (f : Integrity → Integrity) : (s.onInteg f).counter = s.counter := rfl
@[simp] theorem onInteg_drawSeed (f : Integrity → Integrity) : (s.onInteg f).drawSeed = s.drawSeed := rfl
@[simp] theorem onInteg_free (f : Integrity → Integrity) : (s.onInteg f).free = s.free := rfl
@[simp] theorem onInteg_bases (f : Integrity → Integrity) : (s.onInteg f).bases = s.bases := rfl
@[simp] theorem onInteg_tallies (f : Integrity → Integrity) : (s.onInteg f).tallies = s.tallies := rfl
@[simp] theorem onInteg_cores (f : Integrity → Integrity) : (s.onInteg f).cores = s.cores := rfl
@[simp] theorem onInteg_arrays (f : Integrity → Integrity) : (s.onInteg f).arrays = s.arrays := rfl
@[simp] theorem onInteg_rods (f : Integrity → Integrity) : (s.onInteg f).rods = s.rods := rfl
@[simp] theorem onInteg_engines (f : Integrity → Integrity) : (s.onInteg f).engines = s.engines := rfl
@[simp] theorem onInteg_regWrites (f : Integrity → Integrity) : (s.onInteg f).regWrites = s.regWrites := rfl
@[simp] theorem onInteg_channels (f : Integrity → Integrity) : (s.onInteg f).channels = s.channels := rfl
@[simp] theorem onInteg_jobs (f : Integrity → Integrity) : (s.onInteg f).jobs = s.jobs := rfl
@[simp] theorem onInteg_nextJob (f : Integrity → Integrity) : (s.onInteg f).nextJob = s.nextJob := rfl
@[simp] theorem onInteg_lastRun (f : Integrity → Integrity) : (s.onInteg f).lastRun = s.lastRun := rfl
@[simp] theorem onInteg_carriers (f : Integrity → Integrity) : (s.onInteg f).carriers = s.carriers := rfl
@[simp] theorem onInteg_harq (f : Integrity → Integrity) : (s.onInteg f).harq = s.harq := rfl
@[simp] theorem onInteg_decodes (f : Integrity → Integrity) : (s.onInteg f).decodes = s.decodes := rfl
@[simp] theorem onInteg_decodeNo (f : Integrity → Integrity) : (s.onInteg f).decodeNo = s.decodeNo := rfl
@[simp] theorem onInteg_links (f : Integrity → Integrity) : (s.onInteg f).links = s.links := rfl
@[simp] theorem onInteg_sub (f : Integrity → Integrity) : (s.onInteg f).sub = s.sub := rfl
@[simp] theorem onInteg_cpl (f : Integrity → Integrity) : (s.onInteg f).cpl = s.cpl := rfl
@[simp] theorem onInteg_host (f : Integrity → Integrity) : (s.onInteg f).host = s.host := rfl
@[simp] theorem onInteg_sent (f : Integrity → Integrity) : (s.onInteg f).sent = s.sent := rfl
@[simp] theorem onInteg_bridge (f : Integrity → Integrity) : (s.onInteg f).bridge = s.bridge := rfl
@[simp] theorem onInteg_power (f : Integrity → Integrity) : (s.onInteg f).power = s.power := rfl
@[simp] theorem onInteg_sec (f : Integrity → Integrity) : (s.onInteg f).sec = s.sec := rfl
@[simp] theorem onInteg_dbg (f : Integrity → Integrity) : (s.onInteg f).dbg = s.dbg := rfl
@[simp] theorem onInteg_pending (f : Integrity → Integrity) : (s.onInteg f).pending = s.pending := rfl

@[simp] theorem setBridge_regs (v : Bridge) : (s.setBridge v).regs = s.regs := rfl
@[simp] theorem setBridge_shadows (v : Bridge) : (s.setBridge v).shadows = s.shadows := rfl
@[simp] theorem setBridge_acct (v : Bridge) : (s.setBridge v).acct = s.acct := rfl
@[simp] theorem setBridge_mem (v : Bridge) : (s.setBridge v).mem = s.mem := rfl
@[simp] theorem setBridge_ecc (v : Bridge) : (s.setBridge v).ecc = s.ecc := rfl
@[simp] theorem setBridge_writebacks (v : Bridge) : (s.setBridge v).writebacks = s.writebacks := rfl
@[simp] theorem setBridge_scrub (v : Bridge) : (s.setBridge v).scrub = s.scrub := rfl
@[simp] theorem setBridge_counter (v : Bridge) : (s.setBridge v).counter = s.counter := rfl
@[simp] theorem setBridge_drawSeed (v : Bridge) : (s.setBridge v).drawSeed = s.drawSeed := rfl
@[simp] theorem setBridge_free (v : Bridge) : (s.setBridge v).free = s.free := rfl
@[simp] theorem setBridge_bases (v : Bridge) : (s.setBridge v).bases = s.bases := rfl
@[simp] theorem setBridge_tallies (v : Bridge) : (s.setBridge v).tallies = s.tallies := rfl
@[simp] theorem setBridge_cores (v : Bridge) : (s.setBridge v).cores = s.cores := rfl
@[simp] theorem setBridge_arrays (v : Bridge) : (s.setBridge v).arrays = s.arrays := rfl
@[simp] theorem setBridge_rods (v : Bridge) : (s.setBridge v).rods = s.rods := rfl
@[simp] theorem setBridge_engines (v : Bridge) : (s.setBridge v).engines = s.engines := rfl
@[simp] theorem setBridge_regWrites (v : Bridge) : (s.setBridge v).regWrites = s.regWrites := rfl
@[simp] theorem setBridge_channels (v : Bridge) : (s.setBridge v).channels = s.channels := rfl
@[simp] theorem setBridge_jobs (v : Bridge) : (s.setBridge v).jobs = s.jobs := rfl
@[simp] theorem setBridge_nextJob (v : Bridge) : (s.setBridge v).nextJob = s.nextJob := rfl
@[simp] theorem setBridge_lastRun (v : Bridge) : (s.setBridge v).lastRun = s.lastRun := rfl
@[simp] theorem setBridge_carriers (v : Bridge) : (s.setBridge v).carriers = s.carriers := rfl
@[simp] theorem setBridge_harq (v : Bridge) : (s.setBridge v).harq = s.harq := rfl
@[simp] theorem setBridge_decodes (v : Bridge) : (s.setBridge v).decodes = s.decodes := rfl
@[simp] theorem setBridge_decodeNo (v : Bridge) : (s.setBridge v).decodeNo = s.decodeNo := rfl
@[simp] theorem setBridge_links (v : Bridge) : (s.setBridge v).links = s.links := rfl
@[simp] theorem setBridge_sub (v : Bridge) : (s.setBridge v).sub = s.sub := rfl
@[simp] theorem setBridge_cpl (v : Bridge) : (s.setBridge v).cpl = s.cpl := rfl
@[simp] theorem setBridge_host (v : Bridge) : (s.setBridge v).host = s.host := rfl
@[simp] theorem setBridge_sent (v : Bridge) : (s.setBridge v).sent = s.sent := rfl
@[simp] theorem setBridge_integ (v : Bridge) : (s.setBridge v).integ = s.integ := rfl
@[simp] theorem setBridge_power (v : Bridge) : (s.setBridge v).power = s.power := rfl
@[simp] theorem setBridge_sec (v : Bridge) : (s.setBridge v).sec = s.sec := rfl
@[simp] theorem setBridge_dbg (v : Bridge) : (s.setBridge v).dbg = s.dbg := rfl
@[simp] theorem setBridge_pending (v : Bridge) : (s.setBridge v).pending = s.pending := rfl

@[simp] theorem onBridge_regs (f : Bridge → Bridge) : (s.onBridge f).regs = s.regs := rfl
@[simp] theorem onBridge_shadows (f : Bridge → Bridge) : (s.onBridge f).shadows = s.shadows := rfl
@[simp] theorem onBridge_acct (f : Bridge → Bridge) : (s.onBridge f).acct = s.acct := rfl
@[simp] theorem onBridge_mem (f : Bridge → Bridge) : (s.onBridge f).mem = s.mem := rfl
@[simp] theorem onBridge_ecc (f : Bridge → Bridge) : (s.onBridge f).ecc = s.ecc := rfl
@[simp] theorem onBridge_writebacks (f : Bridge → Bridge) : (s.onBridge f).writebacks = s.writebacks := rfl
@[simp] theorem onBridge_scrub (f : Bridge → Bridge) : (s.onBridge f).scrub = s.scrub := rfl
@[simp] theorem onBridge_counter (f : Bridge → Bridge) : (s.onBridge f).counter = s.counter := rfl
@[simp] theorem onBridge_drawSeed (f : Bridge → Bridge) : (s.onBridge f).drawSeed = s.drawSeed := rfl
@[simp] theorem onBridge_free (f : Bridge → Bridge) : (s.onBridge f).free = s.free := rfl
@[simp] theorem onBridge_bases (f : Bridge → Bridge) : (s.onBridge f).bases = s.bases := rfl
@[simp] theorem onBridge_tallies (f : Bridge → Bridge) : (s.onBridge f).tallies = s.tallies := rfl
@[simp] theorem onBridge_cores (f : Bridge → Bridge) : (s.onBridge f).cores = s.cores := rfl
@[simp] theorem onBridge_arrays (f : Bridge → Bridge) : (s.onBridge f).arrays = s.arrays := rfl
@[simp] theorem onBridge_rods (f : Bridge → Bridge) : (s.onBridge f).rods = s.rods := rfl
@[simp] theorem onBridge_engines (f : Bridge → Bridge) : (s.onBridge f).engines = s.engines := rfl
@[simp] theorem onBridge_regWrites (f : Bridge → Bridge) : (s.onBridge f).regWrites = s.regWrites := rfl
@[simp] theorem onBridge_channels (f : Bridge → Bridge) : (s.onBridge f).channels = s.channels := rfl
@[simp] theorem onBridge_jobs (f : Bridge → Bridge) : (s.onBridge f).jobs = s.jobs := rfl
@[simp] theorem onBridge_nextJob (f : Bridge → Bridge) : (s.onBridge f).nextJob = s.nextJob := rfl
@[simp] theorem onBridge_lastRun (f : Bridge → Bridge) : (s.onBridge f).lastRun = s.lastRun := rfl
@[simp] theorem onBridge_carriers (f : Bridge → Bridge) : (s.onBridge f).carriers = s.carriers := rfl
@[simp] theorem onBridge_harq (f : Bridge → Bridge) : (s.onBridge f).harq = s.harq := rfl
@[simp] theorem onBridge_decodes (f : Bridge → Bridge) : (s.onBridge f).decodes = s.decodes := rfl
@[simp] theorem onBridge_decodeNo (f : Bridge → Bridge) : (s.onBridge f).decodeNo = s.decodeNo := rfl
@[simp] theorem onBridge_links (f : Bridge → Bridge) : (s.onBridge f).links = s.links := rfl
@[simp] theorem onBridge_sub (f : Bridge → Bridge) : (s.onBridge f).sub = s.sub := rfl
@[simp] theorem onBridge_cpl (f : Bridge → Bridge) : (s.onBridge f).cpl = s.cpl := rfl
@[simp] theorem onBridge_host (f : Bridge → Bridge) : (s.onBridge f).host = s.host := rfl
@[simp] theorem onBridge_sent (f : Bridge → Bridge) : (s.onBridge f).sent = s.sent := rfl
@[simp] theorem onBridge_integ (f : Bridge → Bridge) : (s.onBridge f).integ = s.integ := rfl
@[simp] theorem onBridge_power (f : Bridge → Bridge) : (s.onBridge f).power = s.power := rfl
@[simp] theorem onBridge_sec (f : Bridge → Bridge) : (s.onBridge f).sec = s.sec := rfl
@[simp] theorem onBridge_dbg (f : Bridge → Bridge) : (s.onBridge f).dbg = s.dbg := rfl
@[simp] theorem onBridge_pending (f : Bridge → Bridge) : (s.onBridge f).pending = s.pending := rfl

@[simp] theorem setPower_regs (v : Power) : (s.setPower v).regs = s.regs := rfl
@[simp] theorem setPower_shadows (v : Power) : (s.setPower v).shadows = s.shadows := rfl
@[simp] theorem setPower_acct (v : Power) : (s.setPower v).acct = s.acct := rfl
@[simp] theorem setPower_mem (v : Power) : (s.setPower v).mem = s.mem := rfl
@[simp] theorem setPower_ecc (v : Power) : (s.setPower v).ecc = s.ecc := rfl
@[simp] theorem setPower_writebacks (v : Power) : (s.setPower v).writebacks = s.writebacks := rfl
@[simp] theorem setPower_scrub (v : Power) : (s.setPower v).scrub = s.scrub := rfl
@[simp] theorem setPower_counter (v : Power) : (s.setPower v).counter = s.counter := rfl
@[simp] theorem setPower_drawSeed (v : Power) : (s.setPower v).drawSeed = s.drawSeed := rfl
@[simp] theorem setPower_free (v : Power) : (s.setPower v).free = s.free := rfl
@[simp] theorem setPower_bases (v : Power) : (s.setPower v).bases = s.bases := rfl
@[simp] theorem setPower_tallies (v : Power) : (s.setPower v).tallies = s.tallies := rfl
@[simp] theorem setPower_cores (v : Power) : (s.setPower v).cores = s.cores := rfl
@[simp] theorem setPower_arrays (v : Power) : (s.setPower v).arrays = s.arrays := rfl
@[simp] theorem setPower_rods (v : Power) : (s.setPower v).rods = s.rods := rfl
@[simp] theorem setPower_engines (v : Power) : (s.setPower v).engines = s.engines := rfl
@[simp] theorem setPower_regWrites (v : Power) : (s.setPower v).regWrites = s.regWrites := rfl
@[simp] theorem setPower_channels (v : Power) : (s.setPower v).channels = s.channels := rfl
@[simp] theorem setPower_jobs (v : Power) : (s.setPower v).jobs = s.jobs := rfl
@[simp] theorem setPower_nextJob (v : Power) : (s.setPower v).nextJob = s.nextJob := rfl
@[simp] theorem setPower_lastRun (v : Power) : (s.setPower v).lastRun = s.lastRun := rfl
@[simp] theorem setPower_carriers (v : Power) : (s.setPower v).carriers = s.carriers := rfl
@[simp] theorem setPower_harq (v : Power) : (s.setPower v).harq = s.harq := rfl
@[simp] theorem setPower_decodes (v : Power) : (s.setPower v).decodes = s.decodes := rfl
@[simp] theorem setPower_decodeNo (v : Power) : (s.setPower v).decodeNo = s.decodeNo := rfl
@[simp] theorem setPower_links (v : Power) : (s.setPower v).links = s.links := rfl
@[simp] theorem setPower_sub (v : Power) : (s.setPower v).sub = s.sub := rfl
@[simp] theorem setPower_cpl (v : Power) : (s.setPower v).cpl = s.cpl := rfl
@[simp] theorem setPower_host (v : Power) : (s.setPower v).host = s.host := rfl
@[simp] theorem setPower_sent (v : Power) : (s.setPower v).sent = s.sent := rfl
@[simp] theorem setPower_integ (v : Power) : (s.setPower v).integ = s.integ := rfl
@[simp] theorem setPower_bridge (v : Power) : (s.setPower v).bridge = s.bridge := rfl
@[simp] theorem setPower_sec (v : Power) : (s.setPower v).sec = s.sec := rfl
@[simp] theorem setPower_dbg (v : Power) : (s.setPower v).dbg = s.dbg := rfl
@[simp] theorem setPower_pending (v : Power) : (s.setPower v).pending = s.pending := rfl

@[simp] theorem onPower_regs (f : Power → Power) : (s.onPower f).regs = s.regs := rfl
@[simp] theorem onPower_shadows (f : Power → Power) : (s.onPower f).shadows = s.shadows := rfl
@[simp] theorem onPower_acct (f : Power → Power) : (s.onPower f).acct = s.acct := rfl
@[simp] theorem onPower_mem (f : Power → Power) : (s.onPower f).mem = s.mem := rfl
@[simp] theorem onPower_ecc (f : Power → Power) : (s.onPower f).ecc = s.ecc := rfl
@[simp] theorem onPower_writebacks (f : Power → Power) : (s.onPower f).writebacks = s.writebacks := rfl
@[simp] theorem onPower_scrub (f : Power → Power) : (s.onPower f).scrub = s.scrub := rfl
@[simp] theorem onPower_counter (f : Power → Power) : (s.onPower f).counter = s.counter := rfl
@[simp] theorem onPower_drawSeed (f : Power → Power) : (s.onPower f).drawSeed = s.drawSeed := rfl
@[simp] theorem onPower_free (f : Power → Power) : (s.onPower f).free = s.free := rfl
@[simp] theorem onPower_bases (f : Power → Power) : (s.onPower f).bases = s.bases := rfl
@[simp] theorem onPower_tallies (f : Power → Power) : (s.onPower f).tallies = s.tallies := rfl
@[simp] theorem onPower_cores (f : Power → Power) : (s.onPower f).cores = s.cores := rfl
@[simp] theorem onPower_arrays (f : Power → Power) : (s.onPower f).arrays = s.arrays := rfl
@[simp] theorem onPower_rods (f : Power → Power) : (s.onPower f).rods = s.rods := rfl
@[simp] theorem onPower_engines (f : Power → Power) : (s.onPower f).engines = s.engines := rfl
@[simp] theorem onPower_regWrites (f : Power → Power) : (s.onPower f).regWrites = s.regWrites := rfl
@[simp] theorem onPower_channels (f : Power → Power) : (s.onPower f).channels = s.channels := rfl
@[simp] theorem onPower_jobs (f : Power → Power) : (s.onPower f).jobs = s.jobs := rfl
@[simp] theorem onPower_nextJob (f : Power → Power) : (s.onPower f).nextJob = s.nextJob := rfl
@[simp] theorem onPower_lastRun (f : Power → Power) : (s.onPower f).lastRun = s.lastRun := rfl
@[simp] theorem onPower_carriers (f : Power → Power) : (s.onPower f).carriers = s.carriers := rfl
@[simp] theorem onPower_harq (f : Power → Power) : (s.onPower f).harq = s.harq := rfl
@[simp] theorem onPower_decodes (f : Power → Power) : (s.onPower f).decodes = s.decodes := rfl
@[simp] theorem onPower_decodeNo (f : Power → Power) : (s.onPower f).decodeNo = s.decodeNo := rfl
@[simp] theorem onPower_links (f : Power → Power) : (s.onPower f).links = s.links := rfl
@[simp] theorem onPower_sub (f : Power → Power) : (s.onPower f).sub = s.sub := rfl
@[simp] theorem onPower_cpl (f : Power → Power) : (s.onPower f).cpl = s.cpl := rfl
@[simp] theorem onPower_host (f : Power → Power) : (s.onPower f).host = s.host := rfl
@[simp] theorem onPower_sent (f : Power → Power) : (s.onPower f).sent = s.sent := rfl
@[simp] theorem onPower_integ (f : Power → Power) : (s.onPower f).integ = s.integ := rfl
@[simp] theorem onPower_bridge (f : Power → Power) : (s.onPower f).bridge = s.bridge := rfl
@[simp] theorem onPower_sec (f : Power → Power) : (s.onPower f).sec = s.sec := rfl
@[simp] theorem onPower_dbg (f : Power → Power) : (s.onPower f).dbg = s.dbg := rfl
@[simp] theorem onPower_pending (f : Power → Power) : (s.onPower f).pending = s.pending := rfl

@[simp] theorem setSec_regs (v : Security) : (s.setSec v).regs = s.regs := rfl
@[simp] theorem setSec_shadows (v : Security) : (s.setSec v).shadows = s.shadows := rfl
@[simp] theorem setSec_acct (v : Security) : (s.setSec v).acct = s.acct := rfl
@[simp] theorem setSec_mem (v : Security) : (s.setSec v).mem = s.mem := rfl
@[simp] theorem setSec_ecc (v : Security) : (s.setSec v).ecc = s.ecc := rfl
@[simp] theorem setSec_writebacks (v : Security) : (s.setSec v).writebacks = s.writebacks := rfl
@[simp] theorem setSec_scrub (v : Security) : (s.setSec v).scrub = s.scrub := rfl
@[simp] theorem setSec_counter (v : Security) : (s.setSec v).counter = s.counter := rfl
@[simp] theorem setSec_drawSeed (v : Security) : (s.setSec v).drawSeed = s.drawSeed := rfl
@[simp] theorem setSec_free (v : Security) : (s.setSec v).free = s.free := rfl
@[simp] theorem setSec_bases (v : Security) : (s.setSec v).bases = s.bases := rfl
@[simp] theorem setSec_tallies (v : Security) : (s.setSec v).tallies = s.tallies := rfl
@[simp] theorem setSec_cores (v : Security) : (s.setSec v).cores = s.cores := rfl
@[simp] theorem setSec_arrays (v : Security) : (s.setSec v).arrays = s.arrays := rfl
@[simp] theorem setSec_rods (v : Security) : (s.setSec v).rods = s.rods := rfl
@[simp] theorem setSec_engines (v : Security) : (s.setSec v).engines = s.engines := rfl
@[simp] theorem setSec_regWrites (v : Security) : (s.setSec v).regWrites = s.regWrites := rfl
@[simp] theorem setSec_channels (v : Security) : (s.setSec v).channels = s.channels := rfl
@[simp] theorem setSec_jobs (v : Security) : (s.setSec v).jobs = s.jobs := rfl
@[simp] theorem setSec_nextJob (v : Security) : (s.setSec v).nextJob = s.nextJob := rfl
@[simp] theorem setSec_lastRun (v : Security) : (s.setSec v).lastRun = s.lastRun := rfl
@[simp] theorem setSec_carriers (v : Security) : (s.setSec v).carriers = s.carriers := rfl
@[simp] theorem setSec_harq (v : Security) : (s.setSec v).harq = s.harq := rfl
@[simp] theorem setSec_decodes (v : Security) : (s.setSec v).decodes = s.decodes := rfl
@[simp] theorem setSec_decodeNo (v : Security) : (s.setSec v).decodeNo = s.decodeNo := rfl
@[simp] theorem setSec_links (v : Security) : (s.setSec v).links = s.links := rfl
@[simp] theorem setSec_sub (v : Security) : (s.setSec v).sub = s.sub := rfl
@[simp] theorem setSec_cpl (v : Security) : (s.setSec v).cpl = s.cpl := rfl
@[simp] theorem setSec_host (v : Security) : (s.setSec v).host = s.host := rfl
@[simp] theorem setSec_sent (v : Security) : (s.setSec v).sent = s.sent := rfl
@[simp] theorem setSec_integ (v : Security) : (s.setSec v).integ = s.integ := rfl
@[simp] theorem setSec_bridge (v : Security) : (s.setSec v).bridge = s.bridge := rfl
@[simp] theorem setSec_power (v : Security) : (s.setSec v).power = s.power := rfl
@[simp] theorem setSec_dbg (v : Security) : (s.setSec v).dbg = s.dbg := rfl
@[simp] theorem setSec_pending (v : Security) : (s.setSec v).pending = s.pending := rfl

@[simp] theorem onSec_regs (f : Security → Security) : (s.onSec f).regs = s.regs := rfl
@[simp] theorem onSec_shadows (f : Security → Security) : (s.onSec f).shadows = s.shadows := rfl
@[simp] theorem onSec_acct (f : Security → Security) : (s.onSec f).acct = s.acct := rfl
@[simp] theorem onSec_mem (f : Security → Security) : (s.onSec f).mem = s.mem := rfl
@[simp] theorem onSec_ecc (f : Security → Security) : (s.onSec f).ecc = s.ecc := rfl
@[simp] theorem onSec_writebacks (f : Security → Security) : (s.onSec f).writebacks = s.writebacks := rfl
@[simp] theorem onSec_scrub (f : Security → Security) : (s.onSec f).scrub = s.scrub := rfl
@[simp] theorem onSec_counter (f : Security → Security) : (s.onSec f).counter = s.counter := rfl
@[simp] theorem onSec_drawSeed (f : Security → Security) : (s.onSec f).drawSeed = s.drawSeed := rfl
@[simp] theorem onSec_free (f : Security → Security) : (s.onSec f).free = s.free := rfl
@[simp] theorem onSec_bases (f : Security → Security) : (s.onSec f).bases = s.bases := rfl
@[simp] theorem onSec_tallies (f : Security → Security) : (s.onSec f).tallies = s.tallies := rfl
@[simp] theorem onSec_cores (f : Security → Security) : (s.onSec f).cores = s.cores := rfl
@[simp] theorem onSec_arrays (f : Security → Security) : (s.onSec f).arrays = s.arrays := rfl
@[simp] theorem onSec_rods (f : Security → Security) : (s.onSec f).rods = s.rods := rfl
@[simp] theorem onSec_engines (f : Security → Security) : (s.onSec f).engines = s.engines := rfl
@[simp] theorem onSec_regWrites (f : Security → Security) : (s.onSec f).regWrites = s.regWrites := rfl
@[simp] theorem onSec_channels (f : Security → Security) : (s.onSec f).channels = s.channels := rfl
@[simp] theorem onSec_jobs (f : Security → Security) : (s.onSec f).jobs = s.jobs := rfl
@[simp] theorem onSec_nextJob (f : Security → Security) : (s.onSec f).nextJob = s.nextJob := rfl
@[simp] theorem onSec_lastRun (f : Security → Security) : (s.onSec f).lastRun = s.lastRun := rfl
@[simp] theorem onSec_carriers (f : Security → Security) : (s.onSec f).carriers = s.carriers := rfl
@[simp] theorem onSec_harq (f : Security → Security) : (s.onSec f).harq = s.harq := rfl
@[simp] theorem onSec_decodes (f : Security → Security) : (s.onSec f).decodes = s.decodes := rfl
@[simp] theorem onSec_decodeNo (f : Security → Security) : (s.onSec f).decodeNo = s.decodeNo := rfl
@[simp] theorem onSec_links (f : Security → Security) : (s.onSec f).links = s.links := rfl
@[simp] theorem onSec_sub (f : Security → Security) : (s.onSec f).sub = s.sub := rfl
@[simp] theorem onSec_cpl (f : Security → Security) : (s.onSec f).cpl = s.cpl := rfl
@[simp] theorem onSec_host (f : Security → Security) : (s.onSec f).host = s.host := rfl
@[simp] theorem onSec_sent (f : Security → Security) : (s.onSec f).sent = s.sent := rfl
@[simp] theorem onSec_integ (f : Security → Security) : (s.onSec f).integ = s.integ := rfl
@[simp] theorem onSec_bridge (f : Security → Security) : (s.onSec f).bridge = s.bridge := rfl
@[simp] theorem onSec_power (f : Security → Security) : (s.onSec f).power = s.power := rfl
@[simp] theorem onSec_dbg (f : Security → Security) : (s.onSec f).dbg = s.dbg := rfl
@[simp] theorem onSec_pending (f : Security → Security) : (s.onSec f).pending = s.pending := rfl

@[simp] theorem setDbg_regs (v : Debug) : (s.setDbg v).regs = s.regs := rfl
@[simp] theorem setDbg_shadows (v : Debug) : (s.setDbg v).shadows = s.shadows := rfl
@[simp] theorem setDbg_acct (v : Debug) : (s.setDbg v).acct = s.acct := rfl
@[simp] theorem setDbg_mem (v : Debug) : (s.setDbg v).mem = s.mem := rfl
@[simp] theorem setDbg_ecc (v : Debug) : (s.setDbg v).ecc = s.ecc := rfl
@[simp] theorem setDbg_writebacks (v : Debug) : (s.setDbg v).writebacks = s.writebacks := rfl
@[simp] theorem setDbg_scrub (v : Debug) : (s.setDbg v).scrub = s.scrub := rfl
@[simp] theorem setDbg_counter (v : Debug) : (s.setDbg v).counter = s.counter := rfl
@[simp] theorem setDbg_drawSeed (v : Debug) : (s.setDbg v).drawSeed = s.drawSeed := rfl
@[simp] theorem setDbg_free (v : Debug) : (s.setDbg v).free = s.free := rfl
@[simp] theorem setDbg_bases (v : Debug) : (s.setDbg v).bases = s.bases := rfl
@[simp] theorem setDbg_tallies (v : Debug) : (s.setDbg v).tallies = s.tallies := rfl
@[simp] theorem setDbg_cores (v : Debug) : (s.setDbg v).cores = s.cores := rfl
@[simp] theorem setDbg_arrays (v : Debug) : (s.setDbg v).arrays = s.arrays := rfl
@[simp] theorem setDbg_rods (v : Debug) : (s.setDbg v).rods = s.rods := rfl
@[simp] theorem setDbg_engines (v : Debug) : (s.setDbg v).engines = s.engines := rfl
@[simp] theorem setDbg_regWrites (v : Debug) : (s.setDbg v).regWrites = s.regWrites := rfl
@[simp] theorem setDbg_channels (v : Debug) : (s.setDbg v).channels = s.channels := rfl
@[simp] theorem setDbg_jobs (v : Debug) : (s.setDbg v).jobs = s.jobs := rfl
@[simp] theorem setDbg_nextJob (v : Debug) : (s.setDbg v).nextJob = s.nextJob := rfl
@[simp] theorem setDbg_lastRun (v : Debug) : (s.setDbg v).lastRun = s.lastRun := rfl
@[simp] theorem setDbg_carriers (v : Debug) : (s.setDbg v).carriers = s.carriers := rfl
@[simp] theorem setDbg_harq (v : Debug) : (s.setDbg v).harq = s.harq := rfl
@[simp] theorem setDbg_decodes (v : Debug) : (s.setDbg v).decodes = s.decodes := rfl
@[simp] theorem setDbg_decodeNo (v : Debug) : (s.setDbg v).decodeNo = s.decodeNo := rfl
@[simp] theorem setDbg_links (v : Debug) : (s.setDbg v).links = s.links := rfl
@[simp] theorem setDbg_sub (v : Debug) : (s.setDbg v).sub = s.sub := rfl
@[simp] theorem setDbg_cpl (v : Debug) : (s.setDbg v).cpl = s.cpl := rfl
@[simp] theorem setDbg_host (v : Debug) : (s.setDbg v).host = s.host := rfl
@[simp] theorem setDbg_sent (v : Debug) : (s.setDbg v).sent = s.sent := rfl
@[simp] theorem setDbg_integ (v : Debug) : (s.setDbg v).integ = s.integ := rfl
@[simp] theorem setDbg_bridge (v : Debug) : (s.setDbg v).bridge = s.bridge := rfl
@[simp] theorem setDbg_power (v : Debug) : (s.setDbg v).power = s.power := rfl
@[simp] theorem setDbg_sec (v : Debug) : (s.setDbg v).sec = s.sec := rfl
@[simp] theorem setDbg_pending (v : Debug) : (s.setDbg v).pending = s.pending := rfl

@[simp] theorem onDbg_regs (f : Debug → Debug) : (s.onDbg f).regs = s.regs := rfl
@[simp] theorem onDbg_shadows (f : Debug → Debug) : (s.onDbg f).shadows = s.shadows := rfl
@[simp] theorem onDbg_acct (f : Debug → Debug) : (s.onDbg f).acct = s.acct := rfl
@[simp] theorem onDbg_mem (f : Debug → Debug) : (s.onDbg f).mem = s.mem := rfl
@[simp] theorem onDbg_ecc (f : Debug → Debug) : (s.onDbg f).ecc = s.ecc := rfl
@[simp] theorem onDbg_writebacks (f : Debug → Debug) : (s.onDbg f).writebacks = s.writebacks := rfl
@[simp] theorem onDbg_scrub (f : Debug → Debug) : (s.onDbg f).scrub = s.scrub := rfl
@[simp] theorem onDbg_counter (f : Debug → Debug) : (s.onDbg f).counter = s.counter := rfl
@[simp] theorem onDbg_drawSeed (f : Debug → Debug) : (s.onDbg f).drawSeed = s.drawSeed := rfl
@[simp] theorem onDbg_free (f : Debug → Debug) : (s.onDbg f).free = s.free := rfl
@[simp] theorem onDbg_bases (f : Debug → Debug) : (s.onDbg f).bases = s.bases := rfl
@[simp] theorem onDbg_tallies (f : Debug → Debug) : (s.onDbg f).tallies = s.tallies := rfl
@[simp] theorem onDbg_cores (f : Debug → Debug) : (s.onDbg f).cores = s.cores := rfl
@[simp] theorem onDbg_arrays (f : Debug → Debug) : (s.onDbg f).arrays = s.arrays := rfl
@[simp] theorem onDbg_rods (f : Debug → Debug) : (s.onDbg f).rods = s.rods := rfl
@[simp] theorem onDbg_engines (f : Debug → Debug) : (s.onDbg f).engines = s.engines := rfl
@[simp] theorem onDbg_regWrites (f : Debug → Debug) : (s.onDbg f).regWrites = s.regWrites := rfl
@[simp] theorem onDbg_channels (f : Debug → Debug) : (s.onDbg f).channels = s.channels := rfl
@[simp] theorem onDbg_jobs (f : Debug → Debug) : (s.onDbg f).jobs = s.jobs := rfl
@[simp] theorem onDbg_nextJob (f : Debug → Debug) : (s.onDbg f).nextJob = s.nextJob := rfl
@[simp] theorem onDbg_lastRun (f : Debug → Debug) : (s.onDbg f).lastRun = s.lastRun := rfl
@[simp] theorem onDbg_carriers (f : Debug → Debug) : (s.onDbg f).carriers = s.carriers := rfl
@[simp] theorem onDbg_harq (f : Debug → Debug) : (s.onDbg f).harq = s.harq := rfl
@[simp] theorem onDbg_decodes (f : Debug → Debug) : (s.onDbg f).decodes = s.decodes := rfl
@[simp] theorem onDbg_decodeNo (f : Debug → Debug) : (s.onDbg f).decodeNo = s.decodeNo := rfl
@[simp] theorem onDbg_links (f : Debug → Debug) : (s.onDbg f).links = s.links := rfl
@[simp] theorem onDbg_sub (f : Debug → Debug) : (s.onDbg f).sub = s.sub := rfl
@[simp] theorem onDbg_cpl (f : Debug → Debug) : (s.onDbg f).cpl = s.cpl := rfl
@[simp] theorem onDbg_host (f : Debug → Debug) : (s.onDbg f).host = s.host := rfl
@[simp] theorem onDbg_sent (f : Debug → Debug) : (s.onDbg f).sent = s.sent := rfl
@[simp] theorem onDbg_integ (f : Debug → Debug) : (s.onDbg f).integ = s.integ := rfl
@[simp] theorem onDbg_bridge (f : Debug → Debug) : (s.onDbg f).bridge = s.bridge := rfl
@[simp] theorem onDbg_power (f : Debug → Debug) : (s.onDbg f).power = s.power := rfl
@[simp] theorem onDbg_sec (f : Debug → Debug) : (s.onDbg f).sec = s.sec := rfl
@[simp] theorem onDbg_pending (f : Debug → Debug) : (s.onDbg f).pending = s.pending := rfl

@[simp] theorem setSub_regs (v : Submission) : (s.setSub v).regs = s.regs := rfl
@[simp] theorem setSub_shadows (v : Submission) : (s.setSub v).shadows = s.shadows := rfl
@[simp] theorem setSub_acct (v : Submission) : (s.setSub v).acct = s.acct := rfl
@[simp] theorem setSub_mem (v : Submission) : (s.setSub v).mem = s.mem := rfl
@[simp] theorem setSub_ecc (v : Submission) : (s.setSub v).ecc = s.ecc := rfl
@[simp] theorem setSub_writebacks (v : Submission) : (s.setSub v).writebacks = s.writebacks := rfl
@[simp] theorem setSub_scrub (v : Submission) : (s.setSub v).scrub = s.scrub := rfl
@[simp] theorem setSub_counter (v : Submission) : (s.setSub v).counter = s.counter := rfl
@[simp] theorem setSub_drawSeed (v : Submission) : (s.setSub v).drawSeed = s.drawSeed := rfl
@[simp] theorem setSub_free (v : Submission) : (s.setSub v).free = s.free := rfl
@[simp] theorem setSub_bases (v : Submission) : (s.setSub v).bases = s.bases := rfl
@[simp] theorem setSub_tallies (v : Submission) : (s.setSub v).tallies = s.tallies := rfl
@[simp] theorem setSub_cores (v : Submission) : (s.setSub v).cores = s.cores := rfl
@[simp] theorem setSub_arrays (v : Submission) : (s.setSub v).arrays = s.arrays := rfl
@[simp] theorem setSub_rods (v : Submission) : (s.setSub v).rods = s.rods := rfl
@[simp] theorem setSub_engines (v : Submission) : (s.setSub v).engines = s.engines := rfl
@[simp] theorem setSub_regWrites (v : Submission) : (s.setSub v).regWrites = s.regWrites := rfl
@[simp] theorem setSub_channels (v : Submission) : (s.setSub v).channels = s.channels := rfl
@[simp] theorem setSub_jobs (v : Submission) : (s.setSub v).jobs = s.jobs := rfl
@[simp] theorem setSub_nextJob (v : Submission) : (s.setSub v).nextJob = s.nextJob := rfl
@[simp] theorem setSub_lastRun (v : Submission) : (s.setSub v).lastRun = s.lastRun := rfl
@[simp] theorem setSub_carriers (v : Submission) : (s.setSub v).carriers = s.carriers := rfl
@[simp] theorem setSub_harq (v : Submission) : (s.setSub v).harq = s.harq := rfl
@[simp] theorem setSub_decodes (v : Submission) : (s.setSub v).decodes = s.decodes := rfl
@[simp] theorem setSub_decodeNo (v : Submission) : (s.setSub v).decodeNo = s.decodeNo := rfl
@[simp] theorem setSub_links (v : Submission) : (s.setSub v).links = s.links := rfl
@[simp] theorem setSub_cpl (v : Submission) : (s.setSub v).cpl = s.cpl := rfl
@[simp] theorem setSub_host (v : Submission) : (s.setSub v).host = s.host := rfl
@[simp] theorem setSub_sent (v : Submission) : (s.setSub v).sent = s.sent := rfl
@[simp] theorem setSub_integ (v : Submission) : (s.setSub v).integ = s.integ := rfl
@[simp] theorem setSub_bridge (v : Submission) : (s.setSub v).bridge = s.bridge := rfl
@[simp] theorem setSub_power (v : Submission) : (s.setSub v).power = s.power := rfl
@[simp] theorem setSub_sec (v : Submission) : (s.setSub v).sec = s.sec := rfl
@[simp] theorem setSub_dbg (v : Submission) : (s.setSub v).dbg = s.dbg := rfl
@[simp] theorem setSub_pending (v : Submission) : (s.setSub v).pending = s.pending := rfl

@[simp] theorem onSub_regs (f : Submission → Submission) : (s.onSub f).regs = s.regs := rfl
@[simp] theorem onSub_shadows (f : Submission → Submission) : (s.onSub f).shadows = s.shadows := rfl
@[simp] theorem onSub_acct (f : Submission → Submission) : (s.onSub f).acct = s.acct := rfl
@[simp] theorem onSub_mem (f : Submission → Submission) : (s.onSub f).mem = s.mem := rfl
@[simp] theorem onSub_ecc (f : Submission → Submission) : (s.onSub f).ecc = s.ecc := rfl
@[simp] theorem onSub_writebacks (f : Submission → Submission) : (s.onSub f).writebacks = s.writebacks := rfl
@[simp] theorem onSub_scrub (f : Submission → Submission) : (s.onSub f).scrub = s.scrub := rfl
@[simp] theorem onSub_counter (f : Submission → Submission) : (s.onSub f).counter = s.counter := rfl
@[simp] theorem onSub_drawSeed (f : Submission → Submission) : (s.onSub f).drawSeed = s.drawSeed := rfl
@[simp] theorem onSub_free (f : Submission → Submission) : (s.onSub f).free = s.free := rfl
@[simp] theorem onSub_bases (f : Submission → Submission) : (s.onSub f).bases = s.bases := rfl
@[simp] theorem onSub_tallies (f : Submission → Submission) : (s.onSub f).tallies = s.tallies := rfl
@[simp] theorem onSub_cores (f : Submission → Submission) : (s.onSub f).cores = s.cores := rfl
@[simp] theorem onSub_arrays (f : Submission → Submission) : (s.onSub f).arrays = s.arrays := rfl
@[simp] theorem onSub_rods (f : Submission → Submission) : (s.onSub f).rods = s.rods := rfl
@[simp] theorem onSub_engines (f : Submission → Submission) : (s.onSub f).engines = s.engines := rfl
@[simp] theorem onSub_regWrites (f : Submission → Submission) : (s.onSub f).regWrites = s.regWrites := rfl
@[simp] theorem onSub_channels (f : Submission → Submission) : (s.onSub f).channels = s.channels := rfl
@[simp] theorem onSub_jobs (f : Submission → Submission) : (s.onSub f).jobs = s.jobs := rfl
@[simp] theorem onSub_nextJob (f : Submission → Submission) : (s.onSub f).nextJob = s.nextJob := rfl
@[simp] theorem onSub_lastRun (f : Submission → Submission) : (s.onSub f).lastRun = s.lastRun := rfl
@[simp] theorem onSub_carriers (f : Submission → Submission) : (s.onSub f).carriers = s.carriers := rfl
@[simp] theorem onSub_harq (f : Submission → Submission) : (s.onSub f).harq = s.harq := rfl
@[simp] theorem onSub_decodes (f : Submission → Submission) : (s.onSub f).decodes = s.decodes := rfl
@[simp] theorem onSub_decodeNo (f : Submission → Submission) : (s.onSub f).decodeNo = s.decodeNo := rfl
@[simp] theorem onSub_links (f : Submission → Submission) : (s.onSub f).links = s.links := rfl
@[simp] theorem onSub_cpl (f : Submission → Submission) : (s.onSub f).cpl = s.cpl := rfl
@[simp] theorem onSub_host (f : Submission → Submission) : (s.onSub f).host = s.host := rfl
@[simp] theorem onSub_sent (f : Submission → Submission) : (s.onSub f).sent = s.sent := rfl
@[simp] theorem onSub_integ (f : Submission → Submission) : (s.onSub f).integ = s.integ := rfl
@[simp] theorem onSub_bridge (f : Submission → Submission) : (s.onSub f).bridge = s.bridge := rfl
@[simp] theorem onSub_power (f : Submission → Submission) : (s.onSub f).power = s.power := rfl
@[simp] theorem onSub_sec (f : Submission → Submission) : (s.onSub f).sec = s.sec := rfl
@[simp] theorem onSub_dbg (f : Submission → Submission) : (s.onSub f).dbg = s.dbg := rfl
@[simp] theorem onSub_pending (f : Submission → Submission) : (s.onSub f).pending = s.pending := rfl

@[simp] theorem setCpl_regs (v : Completion) : (s.setCpl v).regs = s.regs := rfl
@[simp] theorem setCpl_shadows (v : Completion) : (s.setCpl v).shadows = s.shadows := rfl
@[simp] theorem setCpl_acct (v : Completion) : (s.setCpl v).acct = s.acct := rfl
@[simp] theorem setCpl_mem (v : Completion) : (s.setCpl v).mem = s.mem := rfl
@[simp] theorem setCpl_ecc (v : Completion) : (s.setCpl v).ecc = s.ecc := rfl
@[simp] theorem setCpl_writebacks (v : Completion) : (s.setCpl v).writebacks = s.writebacks := rfl
@[simp] theorem setCpl_scrub (v : Completion) : (s.setCpl v).scrub = s.scrub := rfl
@[simp] theorem setCpl_counter (v : Completion) : (s.setCpl v).counter = s.counter := rfl
@[simp] theorem setCpl_drawSeed (v : Completion) : (s.setCpl v).drawSeed = s.drawSeed := rfl
@[simp] theorem setCpl_free (v : Completion) : (s.setCpl v).free = s.free := rfl
@[simp] theorem setCpl_bases (v : Completion) : (s.setCpl v).bases = s.bases := rfl
@[simp] theorem setCpl_tallies (v : Completion) : (s.setCpl v).tallies = s.tallies := rfl
@[simp] theorem setCpl_cores (v : Completion) : (s.setCpl v).cores = s.cores := rfl
@[simp] theorem setCpl_arrays (v : Completion) : (s.setCpl v).arrays = s.arrays := rfl
@[simp] theorem setCpl_rods (v : Completion) : (s.setCpl v).rods = s.rods := rfl
@[simp] theorem setCpl_engines (v : Completion) : (s.setCpl v).engines = s.engines := rfl
@[simp] theorem setCpl_regWrites (v : Completion) : (s.setCpl v).regWrites = s.regWrites := rfl
@[simp] theorem setCpl_channels (v : Completion) : (s.setCpl v).channels = s.channels := rfl
@[simp] theorem setCpl_jobs (v : Completion) : (s.setCpl v).jobs = s.jobs := rfl
@[simp] theorem setCpl_nextJob (v : Completion) : (s.setCpl v).nextJob = s.nextJob := rfl
@[simp] theorem setCpl_lastRun (v : Completion) : (s.setCpl v).lastRun = s.lastRun := rfl
@[simp] theorem setCpl_carriers (v : Completion) : (s.setCpl v).carriers = s.carriers := rfl
@[simp] theorem setCpl_harq (v : Completion) : (s.setCpl v).harq = s.harq := rfl
@[simp] theorem setCpl_decodes (v : Completion) : (s.setCpl v).decodes = s.decodes := rfl
@[simp] theorem setCpl_decodeNo (v : Completion) : (s.setCpl v).decodeNo = s.decodeNo := rfl
@[simp] theorem setCpl_links (v : Completion) : (s.setCpl v).links = s.links := rfl
@[simp] theorem setCpl_sub (v : Completion) : (s.setCpl v).sub = s.sub := rfl
@[simp] theorem setCpl_host (v : Completion) : (s.setCpl v).host = s.host := rfl
@[simp] theorem setCpl_sent (v : Completion) : (s.setCpl v).sent = s.sent := rfl
@[simp] theorem setCpl_integ (v : Completion) : (s.setCpl v).integ = s.integ := rfl
@[simp] theorem setCpl_bridge (v : Completion) : (s.setCpl v).bridge = s.bridge := rfl
@[simp] theorem setCpl_power (v : Completion) : (s.setCpl v).power = s.power := rfl
@[simp] theorem setCpl_sec (v : Completion) : (s.setCpl v).sec = s.sec := rfl
@[simp] theorem setCpl_dbg (v : Completion) : (s.setCpl v).dbg = s.dbg := rfl
@[simp] theorem setCpl_pending (v : Completion) : (s.setCpl v).pending = s.pending := rfl

@[simp] theorem onCpl_regs (f : Completion → Completion) : (s.onCpl f).regs = s.regs := rfl
@[simp] theorem onCpl_shadows (f : Completion → Completion) : (s.onCpl f).shadows = s.shadows := rfl
@[simp] theorem onCpl_acct (f : Completion → Completion) : (s.onCpl f).acct = s.acct := rfl
@[simp] theorem onCpl_mem (f : Completion → Completion) : (s.onCpl f).mem = s.mem := rfl
@[simp] theorem onCpl_ecc (f : Completion → Completion) : (s.onCpl f).ecc = s.ecc := rfl
@[simp] theorem onCpl_writebacks (f : Completion → Completion) : (s.onCpl f).writebacks = s.writebacks := rfl
@[simp] theorem onCpl_scrub (f : Completion → Completion) : (s.onCpl f).scrub = s.scrub := rfl
@[simp] theorem onCpl_counter (f : Completion → Completion) : (s.onCpl f).counter = s.counter := rfl
@[simp] theorem onCpl_drawSeed (f : Completion → Completion) : (s.onCpl f).drawSeed = s.drawSeed := rfl
@[simp] theorem onCpl_free (f : Completion → Completion) : (s.onCpl f).free = s.free := rfl
@[simp] theorem onCpl_bases (f : Completion → Completion) : (s.onCpl f).bases = s.bases := rfl
@[simp] theorem onCpl_tallies (f : Completion → Completion) : (s.onCpl f).tallies = s.tallies := rfl
@[simp] theorem onCpl_cores (f : Completion → Completion) : (s.onCpl f).cores = s.cores := rfl
@[simp] theorem onCpl_arrays (f : Completion → Completion) : (s.onCpl f).arrays = s.arrays := rfl
@[simp] theorem onCpl_rods (f : Completion → Completion) : (s.onCpl f).rods = s.rods := rfl
@[simp] theorem onCpl_engines (f : Completion → Completion) : (s.onCpl f).engines = s.engines := rfl
@[simp] theorem onCpl_regWrites (f : Completion → Completion) : (s.onCpl f).regWrites = s.regWrites := rfl
@[simp] theorem onCpl_channels (f : Completion → Completion) : (s.onCpl f).channels = s.channels := rfl
@[simp] theorem onCpl_jobs (f : Completion → Completion) : (s.onCpl f).jobs = s.jobs := rfl
@[simp] theorem onCpl_nextJob (f : Completion → Completion) : (s.onCpl f).nextJob = s.nextJob := rfl
@[simp] theorem onCpl_lastRun (f : Completion → Completion) : (s.onCpl f).lastRun = s.lastRun := rfl
@[simp] theorem onCpl_carriers (f : Completion → Completion) : (s.onCpl f).carriers = s.carriers := rfl
@[simp] theorem onCpl_harq (f : Completion → Completion) : (s.onCpl f).harq = s.harq := rfl
@[simp] theorem onCpl_decodes (f : Completion → Completion) : (s.onCpl f).decodes = s.decodes := rfl
@[simp] theorem onCpl_decodeNo (f : Completion → Completion) : (s.onCpl f).decodeNo = s.decodeNo := rfl
@[simp] theorem onCpl_links (f : Completion → Completion) : (s.onCpl f).links = s.links := rfl
@[simp] theorem onCpl_sub (f : Completion → Completion) : (s.onCpl f).sub = s.sub := rfl
@[simp] theorem onCpl_host (f : Completion → Completion) : (s.onCpl f).host = s.host := rfl
@[simp] theorem onCpl_sent (f : Completion → Completion) : (s.onCpl f).sent = s.sent := rfl
@[simp] theorem onCpl_integ (f : Completion → Completion) : (s.onCpl f).integ = s.integ := rfl
@[simp] theorem onCpl_bridge (f : Completion → Completion) : (s.onCpl f).bridge = s.bridge := rfl
@[simp] theorem onCpl_power (f : Completion → Completion) : (s.onCpl f).power = s.power := rfl
@[simp] theorem onCpl_sec (f : Completion → Completion) : (s.onCpl f).sec = s.sec := rfl
@[simp] theorem onCpl_dbg (f : Completion → Completion) : (s.onCpl f).dbg = s.dbg := rfl
@[simp] theorem onCpl_pending (f : Completion → Completion) : (s.onCpl f).pending = s.pending := rfl

@[simp] theorem setHost_regs (v : HostPort) : (s.setHost v).regs = s.regs := rfl
@[simp] theorem setHost_shadows (v : HostPort) : (s.setHost v).shadows = s.shadows := rfl
@[simp] theorem setHost_acct (v : HostPort) : (s.setHost v).acct = s.acct := rfl
@[simp] theorem setHost_mem (v : HostPort) : (s.setHost v).mem = s.mem := rfl
@[simp] theorem setHost_ecc (v : HostPort) : (s.setHost v).ecc = s.ecc := rfl
@[simp] theorem setHost_writebacks (v : HostPort) : (s.setHost v).writebacks = s.writebacks := rfl
@[simp] theorem setHost_scrub (v : HostPort) : (s.setHost v).scrub = s.scrub := rfl
@[simp] theorem setHost_counter (v : HostPort) : (s.setHost v).counter = s.counter := rfl
@[simp] theorem setHost_drawSeed (v : HostPort) : (s.setHost v).drawSeed = s.drawSeed := rfl
@[simp] theorem setHost_free (v : HostPort) : (s.setHost v).free = s.free := rfl
@[simp] theorem setHost_bases (v : HostPort) : (s.setHost v).bases = s.bases := rfl
@[simp] theorem setHost_tallies (v : HostPort) : (s.setHost v).tallies = s.tallies := rfl
@[simp] theorem setHost_cores (v : HostPort) : (s.setHost v).cores = s.cores := rfl
@[simp] theorem setHost_arrays (v : HostPort) : (s.setHost v).arrays = s.arrays := rfl
@[simp] theorem setHost_rods (v : HostPort) : (s.setHost v).rods = s.rods := rfl
@[simp] theorem setHost_engines (v : HostPort) : (s.setHost v).engines = s.engines := rfl
@[simp] theorem setHost_regWrites (v : HostPort) : (s.setHost v).regWrites = s.regWrites := rfl
@[simp] theorem setHost_channels (v : HostPort) : (s.setHost v).channels = s.channels := rfl
@[simp] theorem setHost_jobs (v : HostPort) : (s.setHost v).jobs = s.jobs := rfl
@[simp] theorem setHost_nextJob (v : HostPort) : (s.setHost v).nextJob = s.nextJob := rfl
@[simp] theorem setHost_lastRun (v : HostPort) : (s.setHost v).lastRun = s.lastRun := rfl
@[simp] theorem setHost_carriers (v : HostPort) : (s.setHost v).carriers = s.carriers := rfl
@[simp] theorem setHost_harq (v : HostPort) : (s.setHost v).harq = s.harq := rfl
@[simp] theorem setHost_decodes (v : HostPort) : (s.setHost v).decodes = s.decodes := rfl
@[simp] theorem setHost_decodeNo (v : HostPort) : (s.setHost v).decodeNo = s.decodeNo := rfl
@[simp] theorem setHost_links (v : HostPort) : (s.setHost v).links = s.links := rfl
@[simp] theorem setHost_sub (v : HostPort) : (s.setHost v).sub = s.sub := rfl
@[simp] theorem setHost_cpl (v : HostPort) : (s.setHost v).cpl = s.cpl := rfl
@[simp] theorem setHost_sent (v : HostPort) : (s.setHost v).sent = s.sent := rfl
@[simp] theorem setHost_integ (v : HostPort) : (s.setHost v).integ = s.integ := rfl
@[simp] theorem setHost_bridge (v : HostPort) : (s.setHost v).bridge = s.bridge := rfl
@[simp] theorem setHost_power (v : HostPort) : (s.setHost v).power = s.power := rfl
@[simp] theorem setHost_sec (v : HostPort) : (s.setHost v).sec = s.sec := rfl
@[simp] theorem setHost_dbg (v : HostPort) : (s.setHost v).dbg = s.dbg := rfl
@[simp] theorem setHost_pending (v : HostPort) : (s.setHost v).pending = s.pending := rfl

@[simp] theorem onHost_regs (f : HostPort → HostPort) : (s.onHost f).regs = s.regs := rfl
@[simp] theorem onHost_shadows (f : HostPort → HostPort) : (s.onHost f).shadows = s.shadows := rfl
@[simp] theorem onHost_acct (f : HostPort → HostPort) : (s.onHost f).acct = s.acct := rfl
@[simp] theorem onHost_mem (f : HostPort → HostPort) : (s.onHost f).mem = s.mem := rfl
@[simp] theorem onHost_ecc (f : HostPort → HostPort) : (s.onHost f).ecc = s.ecc := rfl
@[simp] theorem onHost_writebacks (f : HostPort → HostPort) : (s.onHost f).writebacks = s.writebacks := rfl
@[simp] theorem onHost_scrub (f : HostPort → HostPort) : (s.onHost f).scrub = s.scrub := rfl
@[simp] theorem onHost_counter (f : HostPort → HostPort) : (s.onHost f).counter = s.counter := rfl
@[simp] theorem onHost_drawSeed (f : HostPort → HostPort) : (s.onHost f).drawSeed = s.drawSeed := rfl
@[simp] theorem onHost_free (f : HostPort → HostPort) : (s.onHost f).free = s.free := rfl
@[simp] theorem onHost_bases (f : HostPort → HostPort) : (s.onHost f).bases = s.bases := rfl
@[simp] theorem onHost_tallies (f : HostPort → HostPort) : (s.onHost f).tallies = s.tallies := rfl
@[simp] theorem onHost_cores (f : HostPort → HostPort) : (s.onHost f).cores = s.cores := rfl
@[simp] theorem onHost_arrays (f : HostPort → HostPort) : (s.onHost f).arrays = s.arrays := rfl
@[simp] theorem onHost_rods (f : HostPort → HostPort) : (s.onHost f).rods = s.rods := rfl
@[simp] theorem onHost_engines (f : HostPort → HostPort) : (s.onHost f).engines = s.engines := rfl
@[simp] theorem onHost_regWrites (f : HostPort → HostPort) : (s.onHost f).regWrites = s.regWrites := rfl
@[simp] theorem onHost_channels (f : HostPort → HostPort) : (s.onHost f).channels = s.channels := rfl
@[simp] theorem onHost_jobs (f : HostPort → HostPort) : (s.onHost f).jobs = s.jobs := rfl
@[simp] theorem onHost_nextJob (f : HostPort → HostPort) : (s.onHost f).nextJob = s.nextJob := rfl
@[simp] theorem onHost_lastRun (f : HostPort → HostPort) : (s.onHost f).lastRun = s.lastRun := rfl
@[simp] theorem onHost_carriers (f : HostPort → HostPort) : (s.onHost f).carriers = s.carriers := rfl
@[simp] theorem onHost_harq (f : HostPort → HostPort) : (s.onHost f).harq = s.harq := rfl
@[simp] theorem onHost_decodes (f : HostPort → HostPort) : (s.onHost f).decodes = s.decodes := rfl
@[simp] theorem onHost_decodeNo (f : HostPort → HostPort) : (s.onHost f).decodeNo = s.decodeNo := rfl
@[simp] theorem onHost_links (f : HostPort → HostPort) : (s.onHost f).links = s.links := rfl
@[simp] theorem onHost_sub (f : HostPort → HostPort) : (s.onHost f).sub = s.sub := rfl
@[simp] theorem onHost_cpl (f : HostPort → HostPort) : (s.onHost f).cpl = s.cpl := rfl
@[simp] theorem onHost_sent (f : HostPort → HostPort) : (s.onHost f).sent = s.sent := rfl
@[simp] theorem onHost_integ (f : HostPort → HostPort) : (s.onHost f).integ = s.integ := rfl
@[simp] theorem onHost_bridge (f : HostPort → HostPort) : (s.onHost f).bridge = s.bridge := rfl
@[simp] theorem onHost_power (f : HostPort → HostPort) : (s.onHost f).power = s.power := rfl
@[simp] theorem onHost_sec (f : HostPort → HostPort) : (s.onHost f).sec = s.sec := rfl
@[simp] theorem onHost_dbg (f : HostPort → HostPort) : (s.onHost f).dbg = s.dbg := rfl
@[simp] theorem onHost_pending (f : HostPort → HostPort) : (s.onHost f).pending = s.pending := rfl

@[simp] theorem hold_regs (x : HeldAccess) : (s.hold x).regs = s.regs := rfl
@[simp] theorem hold_shadows (x : HeldAccess) : (s.hold x).shadows = s.shadows := rfl
@[simp] theorem hold_acct (x : HeldAccess) : (s.hold x).acct = s.acct := rfl
@[simp] theorem hold_mem (x : HeldAccess) : (s.hold x).mem = s.mem := rfl
@[simp] theorem hold_ecc (x : HeldAccess) : (s.hold x).ecc = s.ecc := rfl
@[simp] theorem hold_writebacks (x : HeldAccess) : (s.hold x).writebacks = s.writebacks := rfl
@[simp] theorem hold_scrub (x : HeldAccess) : (s.hold x).scrub = s.scrub := rfl
@[simp] theorem hold_counter (x : HeldAccess) : (s.hold x).counter = s.counter := rfl
@[simp] theorem hold_drawSeed (x : HeldAccess) : (s.hold x).drawSeed = s.drawSeed := rfl
@[simp] theorem hold_free (x : HeldAccess) : (s.hold x).free = s.free := rfl
@[simp] theorem hold_bases (x : HeldAccess) : (s.hold x).bases = s.bases := rfl
@[simp] theorem hold_tallies (x : HeldAccess) : (s.hold x).tallies = s.tallies := rfl
@[simp] theorem hold_cores (x : HeldAccess) : (s.hold x).cores = s.cores := rfl
@[simp] theorem hold_arrays (x : HeldAccess) : (s.hold x).arrays = s.arrays := rfl
@[simp] theorem hold_rods (x : HeldAccess) : (s.hold x).rods = s.rods := rfl
@[simp] theorem hold_engines (x : HeldAccess) : (s.hold x).engines = s.engines := rfl
@[simp] theorem hold_regWrites (x : HeldAccess) : (s.hold x).regWrites = s.regWrites := rfl
@[simp] theorem hold_channels (x : HeldAccess) : (s.hold x).channels = s.channels := rfl
@[simp] theorem hold_jobs (x : HeldAccess) : (s.hold x).jobs = s.jobs := rfl
@[simp] theorem hold_nextJob (x : HeldAccess) : (s.hold x).nextJob = s.nextJob := rfl
@[simp] theorem hold_lastRun (x : HeldAccess) : (s.hold x).lastRun = s.lastRun := rfl
@[simp] theorem hold_carriers (x : HeldAccess) : (s.hold x).carriers = s.carriers := rfl
@[simp] theorem hold_harq (x : HeldAccess) : (s.hold x).harq = s.harq := rfl
@[simp] theorem hold_decodes (x : HeldAccess) : (s.hold x).decodes = s.decodes := rfl
@[simp] theorem hold_decodeNo (x : HeldAccess) : (s.hold x).decodeNo = s.decodeNo := rfl
@[simp] theorem hold_links (x : HeldAccess) : (s.hold x).links = s.links := rfl
@[simp] theorem hold_sub (x : HeldAccess) : (s.hold x).sub = s.sub := rfl
@[simp] theorem hold_cpl (x : HeldAccess) : (s.hold x).cpl = s.cpl := rfl
@[simp] theorem hold_sent (x : HeldAccess) : (s.hold x).sent = s.sent := rfl
@[simp] theorem hold_integ (x : HeldAccess) : (s.hold x).integ = s.integ := rfl
@[simp] theorem hold_bridge (x : HeldAccess) : (s.hold x).bridge = s.bridge := rfl
@[simp] theorem hold_power (x : HeldAccess) : (s.hold x).power = s.power := rfl
@[simp] theorem hold_sec (x : HeldAccess) : (s.hold x).sec = s.sec := rfl
@[simp] theorem hold_dbg (x : HeldAccess) : (s.hold x).dbg = s.dbg := rfl
@[simp] theorem hold_pending (x : HeldAccess) : (s.hold x).pending = s.pending := rfl

@[simp] theorem answer_regs (st : PcieStatus) (data : List Byte) : (s.answer st data).regs = s.regs := rfl
@[simp] theorem answer_shadows (st : PcieStatus) (data : List Byte) : (s.answer st data).shadows = s.shadows := rfl
@[simp] theorem answer_acct (st : PcieStatus) (data : List Byte) : (s.answer st data).acct = s.acct := rfl
@[simp] theorem answer_mem (st : PcieStatus) (data : List Byte) : (s.answer st data).mem = s.mem := rfl
@[simp] theorem answer_ecc (st : PcieStatus) (data : List Byte) : (s.answer st data).ecc = s.ecc := rfl
@[simp] theorem answer_writebacks (st : PcieStatus) (data : List Byte) : (s.answer st data).writebacks = s.writebacks := rfl
@[simp] theorem answer_scrub (st : PcieStatus) (data : List Byte) : (s.answer st data).scrub = s.scrub := rfl
@[simp] theorem answer_counter (st : PcieStatus) (data : List Byte) : (s.answer st data).counter = s.counter := rfl
@[simp] theorem answer_drawSeed (st : PcieStatus) (data : List Byte) : (s.answer st data).drawSeed = s.drawSeed := rfl
@[simp] theorem answer_free (st : PcieStatus) (data : List Byte) : (s.answer st data).free = s.free := rfl
@[simp] theorem answer_bases (st : PcieStatus) (data : List Byte) : (s.answer st data).bases = s.bases := rfl
@[simp] theorem answer_tallies (st : PcieStatus) (data : List Byte) : (s.answer st data).tallies = s.tallies := rfl
@[simp] theorem answer_cores (st : PcieStatus) (data : List Byte) : (s.answer st data).cores = s.cores := rfl
@[simp] theorem answer_arrays (st : PcieStatus) (data : List Byte) : (s.answer st data).arrays = s.arrays := rfl
@[simp] theorem answer_rods (st : PcieStatus) (data : List Byte) : (s.answer st data).rods = s.rods := rfl
@[simp] theorem answer_engines (st : PcieStatus) (data : List Byte) : (s.answer st data).engines = s.engines := rfl
@[simp] theorem answer_regWrites (st : PcieStatus) (data : List Byte) : (s.answer st data).regWrites = s.regWrites := rfl
@[simp] theorem answer_channels (st : PcieStatus) (data : List Byte) : (s.answer st data).channels = s.channels := rfl
@[simp] theorem answer_jobs (st : PcieStatus) (data : List Byte) : (s.answer st data).jobs = s.jobs := rfl
@[simp] theorem answer_nextJob (st : PcieStatus) (data : List Byte) : (s.answer st data).nextJob = s.nextJob := rfl
@[simp] theorem answer_lastRun (st : PcieStatus) (data : List Byte) : (s.answer st data).lastRun = s.lastRun := rfl
@[simp] theorem answer_carriers (st : PcieStatus) (data : List Byte) : (s.answer st data).carriers = s.carriers := rfl
@[simp] theorem answer_harq (st : PcieStatus) (data : List Byte) : (s.answer st data).harq = s.harq := rfl
@[simp] theorem answer_decodes (st : PcieStatus) (data : List Byte) : (s.answer st data).decodes = s.decodes := rfl
@[simp] theorem answer_decodeNo (st : PcieStatus) (data : List Byte) : (s.answer st data).decodeNo = s.decodeNo := rfl
@[simp] theorem answer_links (st : PcieStatus) (data : List Byte) : (s.answer st data).links = s.links := rfl
@[simp] theorem answer_sub (st : PcieStatus) (data : List Byte) : (s.answer st data).sub = s.sub := rfl
@[simp] theorem answer_cpl (st : PcieStatus) (data : List Byte) : (s.answer st data).cpl = s.cpl := rfl
@[simp] theorem answer_sent (st : PcieStatus) (data : List Byte) : (s.answer st data).sent = s.sent := rfl
@[simp] theorem answer_integ (st : PcieStatus) (data : List Byte) : (s.answer st data).integ = s.integ := rfl
@[simp] theorem answer_bridge (st : PcieStatus) (data : List Byte) : (s.answer st data).bridge = s.bridge := rfl
@[simp] theorem answer_power (st : PcieStatus) (data : List Byte) : (s.answer st data).power = s.power := rfl
@[simp] theorem answer_sec (st : PcieStatus) (data : List Byte) : (s.answer st data).sec = s.sec := rfl
@[simp] theorem answer_dbg (st : PcieStatus) (data : List Byte) : (s.answer st data).dbg = s.dbg := rfl
@[simp] theorem answer_pending (st : PcieStatus) (data : List Byte) : (s.answer st data).pending = s.pending := rfl

/-! ### Reads that a write leaves alone -/

@[simp] theorem shadow_setReg (o : Nat) (w : Word) (i : Nat) : (s.setReg o w).shadow i = s.shadow i := rfl
@[simp] theorem acctOf_setReg (o : Nat) (w : Word) (i j : Nat) : (s.setReg o w).acctOf i j = s.acctOf i j := rfl
@[simp] theorem byte_setReg (o : Nat) (w : Word) (i : Nat) : (s.setReg o w).byte i = s.byte i := rfl
@[simp] theorem eccOf_setReg (o : Nat) (w : Word) (i : Nat) : (s.setReg o w).eccOf i = s.eccOf i := rfl
@[simp] theorem tbase_setReg (o : Nat) (w : Word) (i : Nat) : (s.setReg o w).tbase i = s.tbase i := rfl
@[simp] theorem tally_setReg (o : Nat) (w : Word) (i : Nat) : (s.setReg o w).tally i = s.tally i := rfl
@[simp] theorem core_setReg (o : Nat) (w : Word) (i : Nat) : (s.setReg o w).core i = s.core i := rfl
@[simp] theorem array_setReg (o : Nat) (w : Word) (i : Nat) : (s.setReg o w).array i = s.array i := rfl
@[simp] theorem rod_setReg (o : Nat) (w : Word) (i : Nat) : (s.setReg o w).rod i = s.rod i := rfl
@[simp] theorem engine_setReg (o : Nat) (w : Word) (i : Nat) : (s.setReg o w).engine i = s.engine i := rfl
@[simp] theorem chan_setReg (o : Nat) (w : Word) (i j : Nat) : (s.setReg o w).chan i j = s.chan i j := rfl
@[simp] theorem job_setReg (o : Nat) (w : Word) (i : Nat) : (s.setReg o w).job i = s.job i := rfl
@[simp] theorem carrier_setReg (o : Nat) (w : Word) (i : Nat) : (s.setReg o w).carrier i = s.carrier i := rfl
@[simp] theorem harqKey_setReg (o : Nat) (w : Word) (i j : Nat) : (s.setReg o w).harqKey i j = s.harqKey i j := rfl
@[simp] theorem link_setReg (o : Nat) (w : Word) (i : Nat) : (s.setReg o w).link i = s.link i := rfl
@[simp] theorem runningSlot_setReg (o : Nat) (w : Word) : (s.setReg o w).runningSlot = s.runningSlot := rfl
@[simp] theorem swapping_setReg (o : Nat) (w : Word) (i : Nat) : (s.setReg o w).swapping i = s.swapping i := rfl
@[simp] theorem physOf_setReg (o : Nat) (w : Word) (i : Nat) : (s.setReg o w).physOf i = s.physOf i := rfl
@[simp] theorem roleOf_setReg (o : Nat) (w : Word) (i : Nat) : (s.setReg o w).roleOf i = s.roleOf i := rfl

@[simp] theorem shadow_setFld (o hi lo v : Nat) (i : Nat) : (s.setFld o hi lo v).shadow i = s.shadow i := rfl
@[simp] theorem acctOf_setFld (o hi lo v : Nat) (i j : Nat) : (s.setFld o hi lo v).acctOf i j = s.acctOf i j := rfl
@[simp] theorem byte_setFld (o hi lo v : Nat) (i : Nat) : (s.setFld o hi lo v).byte i = s.byte i := rfl
@[simp] theorem eccOf_setFld (o hi lo v : Nat) (i : Nat) : (s.setFld o hi lo v).eccOf i = s.eccOf i := rfl
@[simp] theorem tbase_setFld (o hi lo v : Nat) (i : Nat) : (s.setFld o hi lo v).tbase i = s.tbase i := rfl
@[simp] theorem tally_setFld (o hi lo v : Nat) (i : Nat) : (s.setFld o hi lo v).tally i = s.tally i := rfl
@[simp] theorem core_setFld (o hi lo v : Nat) (i : Nat) : (s.setFld o hi lo v).core i = s.core i := rfl
@[simp] theorem array_setFld (o hi lo v : Nat) (i : Nat) : (s.setFld o hi lo v).array i = s.array i := rfl
@[simp] theorem rod_setFld (o hi lo v : Nat) (i : Nat) : (s.setFld o hi lo v).rod i = s.rod i := rfl
@[simp] theorem engine_setFld (o hi lo v : Nat) (i : Nat) : (s.setFld o hi lo v).engine i = s.engine i := rfl
@[simp] theorem chan_setFld (o hi lo v : Nat) (i j : Nat) : (s.setFld o hi lo v).chan i j = s.chan i j := rfl
@[simp] theorem job_setFld (o hi lo v : Nat) (i : Nat) : (s.setFld o hi lo v).job i = s.job i := rfl
@[simp] theorem carrier_setFld (o hi lo v : Nat) (i : Nat) : (s.setFld o hi lo v).carrier i = s.carrier i := rfl
@[simp] theorem harqKey_setFld (o hi lo v : Nat) (i j : Nat) : (s.setFld o hi lo v).harqKey i j = s.harqKey i j := rfl
@[simp] theorem link_setFld (o hi lo v : Nat) (i : Nat) : (s.setFld o hi lo v).link i = s.link i := rfl
@[simp] theorem runningSlot_setFld (o hi lo v : Nat) : (s.setFld o hi lo v).runningSlot = s.runningSlot := rfl
@[simp] theorem swapping_setFld (o hi lo v : Nat) (i : Nat) : (s.setFld o hi lo v).swapping i = s.swapping i := rfl
@[simp] theorem physOf_setFld (o hi lo v : Nat) (i : Nat) : (s.setFld o hi lo v).physOf i = s.physOf i := rfl
@[simp] theorem roleOf_setFld (o hi lo v : Nat) (i : Nat) : (s.setFld o hi lo v).roleOf i = s.roleOf i := rfl

@[simp] theorem shadow_orReg (o : Nat) (w : Word) (i : Nat) : (s.orReg o w).shadow i = s.shadow i := rfl
@[simp] theorem acctOf_orReg (o : Nat) (w : Word) (i j : Nat) : (s.orReg o w).acctOf i j = s.acctOf i j := rfl
@[simp] theorem byte_orReg (o : Nat) (w : Word) (i : Nat) : (s.orReg o w).byte i = s.byte i := rfl
@[simp] theorem eccOf_orReg (o : Nat) (w : Word) (i : Nat) : (s.orReg o w).eccOf i = s.eccOf i := rfl
@[simp] theorem tbase_orReg (o : Nat) (w : Word) (i : Nat) : (s.orReg o w).tbase i = s.tbase i := rfl
@[simp] theorem tally_orReg (o : Nat) (w : Word) (i : Nat) : (s.orReg o w).tally i = s.tally i := rfl
@[simp] theorem core_orReg (o : Nat) (w : Word) (i : Nat) : (s.orReg o w).core i = s.core i := rfl
@[simp] theorem array_orReg (o : Nat) (w : Word) (i : Nat) : (s.orReg o w).array i = s.array i := rfl
@[simp] theorem rod_orReg (o : Nat) (w : Word) (i : Nat) : (s.orReg o w).rod i = s.rod i := rfl
@[simp] theorem engine_orReg (o : Nat) (w : Word) (i : Nat) : (s.orReg o w).engine i = s.engine i := rfl
@[simp] theorem chan_orReg (o : Nat) (w : Word) (i j : Nat) : (s.orReg o w).chan i j = s.chan i j := rfl
@[simp] theorem job_orReg (o : Nat) (w : Word) (i : Nat) : (s.orReg o w).job i = s.job i := rfl
@[simp] theorem carrier_orReg (o : Nat) (w : Word) (i : Nat) : (s.orReg o w).carrier i = s.carrier i := rfl
@[simp] theorem harqKey_orReg (o : Nat) (w : Word) (i j : Nat) : (s.orReg o w).harqKey i j = s.harqKey i j := rfl
@[simp] theorem link_orReg (o : Nat) (w : Word) (i : Nat) : (s.orReg o w).link i = s.link i := rfl
@[simp] theorem runningSlot_orReg (o : Nat) (w : Word) : (s.orReg o w).runningSlot = s.runningSlot := rfl
@[simp] theorem swapping_orReg (o : Nat) (w : Word) (i : Nat) : (s.orReg o w).swapping i = s.swapping i := rfl
@[simp] theorem physOf_orReg (o : Nat) (w : Word) (i : Nat) : (s.orReg o w).physOf i = s.physOf i := rfl
@[simp] theorem roleOf_orReg (o : Nat) (w : Word) (i : Nat) : (s.orReg o w).roleOf i = s.roleOf i := rfl

@[simp] theorem shadow_bump (o k : Nat) (i : Nat) : (s.bump o k).shadow i = s.shadow i := rfl
@[simp] theorem acctOf_bump (o k : Nat) (i j : Nat) : (s.bump o k).acctOf i j = s.acctOf i j := rfl
@[simp] theorem byte_bump (o k : Nat) (i : Nat) : (s.bump o k).byte i = s.byte i := rfl
@[simp] theorem eccOf_bump (o k : Nat) (i : Nat) : (s.bump o k).eccOf i = s.eccOf i := rfl
@[simp] theorem tbase_bump (o k : Nat) (i : Nat) : (s.bump o k).tbase i = s.tbase i := rfl
@[simp] theorem tally_bump (o k : Nat) (i : Nat) : (s.bump o k).tally i = s.tally i := rfl
@[simp] theorem core_bump (o k : Nat) (i : Nat) : (s.bump o k).core i = s.core i := rfl
@[simp] theorem array_bump (o k : Nat) (i : Nat) : (s.bump o k).array i = s.array i := rfl
@[simp] theorem rod_bump (o k : Nat) (i : Nat) : (s.bump o k).rod i = s.rod i := rfl
@[simp] theorem engine_bump (o k : Nat) (i : Nat) : (s.bump o k).engine i = s.engine i := rfl
@[simp] theorem chan_bump (o k : Nat) (i j : Nat) : (s.bump o k).chan i j = s.chan i j := rfl
@[simp] theorem job_bump (o k : Nat) (i : Nat) : (s.bump o k).job i = s.job i := rfl
@[simp] theorem carrier_bump (o k : Nat) (i : Nat) : (s.bump o k).carrier i = s.carrier i := rfl
@[simp] theorem harqKey_bump (o k : Nat) (i j : Nat) : (s.bump o k).harqKey i j = s.harqKey i j := rfl
@[simp] theorem link_bump (o k : Nat) (i : Nat) : (s.bump o k).link i = s.link i := rfl
@[simp] theorem runningSlot_bump (o k : Nat) : (s.bump o k).runningSlot = s.runningSlot := rfl
@[simp] theorem swapping_bump (o k : Nat) (i : Nat) : (s.bump o k).swapping i = s.swapping i := rfl
@[simp] theorem physOf_bump (o k : Nat) (i : Nat) : (s.bump o k).physOf i = s.physOf i := rfl
@[simp] theorem roleOf_bump (o k : Nat) (i : Nat) : (s.bump o k).roleOf i = s.roleOf i := rfl

@[simp] theorem shadow_setReg64 (o v : Nat) (i : Nat) : (s.setReg64 o v).shadow i = s.shadow i := rfl
@[simp] theorem acctOf_setReg64 (o v : Nat) (i j : Nat) : (s.setReg64 o v).acctOf i j = s.acctOf i j := rfl
@[simp] theorem byte_setReg64 (o v : Nat) (i : Nat) : (s.setReg64 o v).byte i = s.byte i := rfl
@[simp] theorem eccOf_setReg64 (o v : Nat) (i : Nat) : (s.setReg64 o v).eccOf i = s.eccOf i := rfl
@[simp] theorem tbase_setReg64 (o v : Nat) (i : Nat) : (s.setReg64 o v).tbase i = s.tbase i := rfl
@[simp] theorem tally_setReg64 (o v : Nat) (i : Nat) : (s.setReg64 o v).tally i = s.tally i := rfl
@[simp] theorem core_setReg64 (o v : Nat) (i : Nat) : (s.setReg64 o v).core i = s.core i := rfl
@[simp] theorem array_setReg64 (o v : Nat) (i : Nat) : (s.setReg64 o v).array i = s.array i := rfl
@[simp] theorem rod_setReg64 (o v : Nat) (i : Nat) : (s.setReg64 o v).rod i = s.rod i := rfl
@[simp] theorem engine_setReg64 (o v : Nat) (i : Nat) : (s.setReg64 o v).engine i = s.engine i := rfl
@[simp] theorem chan_setReg64 (o v : Nat) (i j : Nat) : (s.setReg64 o v).chan i j = s.chan i j := rfl
@[simp] theorem job_setReg64 (o v : Nat) (i : Nat) : (s.setReg64 o v).job i = s.job i := rfl
@[simp] theorem carrier_setReg64 (o v : Nat) (i : Nat) : (s.setReg64 o v).carrier i = s.carrier i := rfl
@[simp] theorem harqKey_setReg64 (o v : Nat) (i j : Nat) : (s.setReg64 o v).harqKey i j = s.harqKey i j := rfl
@[simp] theorem link_setReg64 (o v : Nat) (i : Nat) : (s.setReg64 o v).link i = s.link i := rfl
@[simp] theorem runningSlot_setReg64 (o v : Nat) : (s.setReg64 o v).runningSlot = s.runningSlot := rfl
@[simp] theorem swapping_setReg64 (o v : Nat) (i : Nat) : (s.setReg64 o v).swapping i = s.swapping i := rfl
@[simp] theorem physOf_setReg64 (o v : Nat) (i : Nat) : (s.setReg64 o v).physOf i = s.physOf i := rfl
@[simp] theorem roleOf_setReg64 (o v : Nat) (i : Nat) : (s.setReg64 o v).roleOf i = s.roleOf i := rfl

@[simp] theorem reg_setShadow (o : Nat) (w : Option Word) (i : Nat) : (s.setShadow o w).reg i = s.reg i := rfl
@[simp] theorem acctOf_setShadow (o : Nat) (w : Option Word) (i j : Nat) : (s.setShadow o w).acctOf i j = s.acctOf i j := rfl
@[simp] theorem byte_setShadow (o : Nat) (w : Option Word) (i : Nat) : (s.setShadow o w).byte i = s.byte i := rfl
@[simp] theorem eccOf_setShadow (o : Nat) (w : Option Word) (i : Nat) : (s.setShadow o w).eccOf i = s.eccOf i := rfl
@[simp] theorem tbase_setShadow (o : Nat) (w : Option Word) (i : Nat) : (s.setShadow o w).tbase i = s.tbase i := rfl
@[simp] theorem tally_setShadow (o : Nat) (w : Option Word) (i : Nat) : (s.setShadow o w).tally i = s.tally i := rfl
@[simp] theorem core_setShadow (o : Nat) (w : Option Word) (i : Nat) : (s.setShadow o w).core i = s.core i := rfl
@[simp] theorem array_setShadow (o : Nat) (w : Option Word) (i : Nat) : (s.setShadow o w).array i = s.array i := rfl
@[simp] theorem rod_setShadow (o : Nat) (w : Option Word) (i : Nat) : (s.setShadow o w).rod i = s.rod i := rfl
@[simp] theorem engine_setShadow (o : Nat) (w : Option Word) (i : Nat) : (s.setShadow o w).engine i = s.engine i := rfl
@[simp] theorem chan_setShadow (o : Nat) (w : Option Word) (i j : Nat) : (s.setShadow o w).chan i j = s.chan i j := rfl
@[simp] theorem job_setShadow (o : Nat) (w : Option Word) (i : Nat) : (s.setShadow o w).job i = s.job i := rfl
@[simp] theorem carrier_setShadow (o : Nat) (w : Option Word) (i : Nat) : (s.setShadow o w).carrier i = s.carrier i := rfl
@[simp] theorem harqKey_setShadow (o : Nat) (w : Option Word) (i j : Nat) : (s.setShadow o w).harqKey i j = s.harqKey i j := rfl
@[simp] theorem link_setShadow (o : Nat) (w : Option Word) (i : Nat) : (s.setShadow o w).link i = s.link i := rfl
@[simp] theorem locked_setShadow (o : Nat) (w : Option Word) : (s.setShadow o w).locked = s.locked := rfl
@[simp] theorem live_setShadow (o : Nat) (w : Option Word) : (s.setShadow o w).live = s.live := rfl
@[simp] theorem runningSlot_setShadow (o : Nat) (w : Option Word) : (s.setShadow o w).runningSlot = s.runningSlot := rfl
@[simp] theorem swapping_setShadow (o : Nat) (w : Option Word) (i : Nat) : (s.setShadow o w).swapping i = s.swapping i := rfl
@[simp] theorem physOf_setShadow (o : Nat) (w : Option Word) (i : Nat) : (s.setShadow o w).physOf i = s.physOf i := rfl
@[simp] theorem roleOf_setShadow (o : Nat) (w : Option Word) (i : Nat) : (s.setShadow o w).roleOf i = s.roleOf i := rfl

@[simp] theorem reg_charge (r k v : Nat) (i : Nat) : (s.charge r k v).reg i = s.reg i := rfl
@[simp] theorem shadow_charge (r k v : Nat) (i : Nat) : (s.charge r k v).shadow i = s.shadow i := rfl
@[simp] theorem byte_charge (r k v : Nat) (i : Nat) : (s.charge r k v).byte i = s.byte i := rfl
@[simp] theorem eccOf_charge (r k v : Nat) (i : Nat) : (s.charge r k v).eccOf i = s.eccOf i := rfl
@[simp] theorem tbase_charge (r k v : Nat) (i : Nat) : (s.charge r k v).tbase i = s.tbase i := rfl
@[simp] theorem tally_charge (r k v : Nat) (i : Nat) : (s.charge r k v).tally i = s.tally i := rfl
@[simp] theorem core_charge (r k v : Nat) (i : Nat) : (s.charge r k v).core i = s.core i := rfl
@[simp] theorem array_charge (r k v : Nat) (i : Nat) : (s.charge r k v).array i = s.array i := rfl
@[simp] theorem rod_charge (r k v : Nat) (i : Nat) : (s.charge r k v).rod i = s.rod i := rfl
@[simp] theorem engine_charge (r k v : Nat) (i : Nat) : (s.charge r k v).engine i = s.engine i := rfl
@[simp] theorem chan_charge (r k v : Nat) (i j : Nat) : (s.charge r k v).chan i j = s.chan i j := rfl
@[simp] theorem job_charge (r k v : Nat) (i : Nat) : (s.charge r k v).job i = s.job i := rfl
@[simp] theorem carrier_charge (r k v : Nat) (i : Nat) : (s.charge r k v).carrier i = s.carrier i := rfl
@[simp] theorem harqKey_charge (r k v : Nat) (i j : Nat) : (s.charge r k v).harqKey i j = s.harqKey i j := rfl
@[simp] theorem link_charge (r k v : Nat) (i : Nat) : (s.charge r k v).link i = s.link i := rfl
@[simp] theorem locked_charge (r k v : Nat) : (s.charge r k v).locked = s.locked := rfl
@[simp] theorem live_charge (r k v : Nat) : (s.charge r k v).live = s.live := rfl
@[simp] theorem runningSlot_charge (r k v : Nat) : (s.charge r k v).runningSlot = s.runningSlot := rfl
@[simp] theorem swapping_charge (r k v : Nat) (i : Nat) : (s.charge r k v).swapping i = s.swapping i := rfl
@[simp] theorem physOf_charge (r k v : Nat) (i : Nat) : (s.charge r k v).physOf i = s.physOf i := rfl
@[simp] theorem roleOf_charge (r k v : Nat) (i : Nat) : (s.charge r k v).roleOf i = s.roleOf i := rfl

@[simp] theorem reg_setByte (a : Nat) (b : Byte) (i : Nat) : (s.setByte a b).reg i = s.reg i := rfl
@[simp] theorem shadow_setByte (a : Nat) (b : Byte) (i : Nat) : (s.setByte a b).shadow i = s.shadow i := rfl
@[simp] theorem acctOf_setByte (a : Nat) (b : Byte) (i j : Nat) : (s.setByte a b).acctOf i j = s.acctOf i j := rfl
@[simp] theorem eccOf_setByte (a : Nat) (b : Byte) (i : Nat) : (s.setByte a b).eccOf i = s.eccOf i := rfl
@[simp] theorem tbase_setByte (a : Nat) (b : Byte) (i : Nat) : (s.setByte a b).tbase i = s.tbase i := rfl
@[simp] theorem tally_setByte (a : Nat) (b : Byte) (i : Nat) : (s.setByte a b).tally i = s.tally i := rfl
@[simp] theorem core_setByte (a : Nat) (b : Byte) (i : Nat) : (s.setByte a b).core i = s.core i := rfl
@[simp] theorem array_setByte (a : Nat) (b : Byte) (i : Nat) : (s.setByte a b).array i = s.array i := rfl
@[simp] theorem rod_setByte (a : Nat) (b : Byte) (i : Nat) : (s.setByte a b).rod i = s.rod i := rfl
@[simp] theorem engine_setByte (a : Nat) (b : Byte) (i : Nat) : (s.setByte a b).engine i = s.engine i := rfl
@[simp] theorem chan_setByte (a : Nat) (b : Byte) (i j : Nat) : (s.setByte a b).chan i j = s.chan i j := rfl
@[simp] theorem job_setByte (a : Nat) (b : Byte) (i : Nat) : (s.setByte a b).job i = s.job i := rfl
@[simp] theorem carrier_setByte (a : Nat) (b : Byte) (i : Nat) : (s.setByte a b).carrier i = s.carrier i := rfl
@[simp] theorem harqKey_setByte (a : Nat) (b : Byte) (i j : Nat) : (s.setByte a b).harqKey i j = s.harqKey i j := rfl
@[simp] theorem link_setByte (a : Nat) (b : Byte) (i : Nat) : (s.setByte a b).link i = s.link i := rfl
@[simp] theorem locked_setByte (a : Nat) (b : Byte) : (s.setByte a b).locked = s.locked := rfl
@[simp] theorem live_setByte (a : Nat) (b : Byte) : (s.setByte a b).live = s.live := rfl
@[simp] theorem runningSlot_setByte (a : Nat) (b : Byte) : (s.setByte a b).runningSlot = s.runningSlot := rfl
@[simp] theorem swapping_setByte (a : Nat) (b : Byte) (i : Nat) : (s.setByte a b).swapping i = s.swapping i := rfl
@[simp] theorem physOf_setByte (a : Nat) (b : Byte) (i : Nat) : (s.setByte a b).physOf i = s.physOf i := rfl
@[simp] theorem roleOf_setByte (a : Nat) (b : Byte) (i : Nat) : (s.setByte a b).roleOf i = s.roleOf i := rfl

@[simp] theorem reg_clearMem (lo hi : Nat) (i : Nat) : (s.clearMem lo hi).reg i = s.reg i := rfl
@[simp] theorem shadow_clearMem (lo hi : Nat) (i : Nat) : (s.clearMem lo hi).shadow i = s.shadow i := rfl
@[simp] theorem acctOf_clearMem (lo hi : Nat) (i j : Nat) : (s.clearMem lo hi).acctOf i j = s.acctOf i j := rfl
@[simp] theorem eccOf_clearMem (lo hi : Nat) (i : Nat) : (s.clearMem lo hi).eccOf i = s.eccOf i := rfl
@[simp] theorem tbase_clearMem (lo hi : Nat) (i : Nat) : (s.clearMem lo hi).tbase i = s.tbase i := rfl
@[simp] theorem tally_clearMem (lo hi : Nat) (i : Nat) : (s.clearMem lo hi).tally i = s.tally i := rfl
@[simp] theorem core_clearMem (lo hi : Nat) (i : Nat) : (s.clearMem lo hi).core i = s.core i := rfl
@[simp] theorem array_clearMem (lo hi : Nat) (i : Nat) : (s.clearMem lo hi).array i = s.array i := rfl
@[simp] theorem rod_clearMem (lo hi : Nat) (i : Nat) : (s.clearMem lo hi).rod i = s.rod i := rfl
@[simp] theorem engine_clearMem (lo hi : Nat) (i : Nat) : (s.clearMem lo hi).engine i = s.engine i := rfl
@[simp] theorem chan_clearMem (lo hi : Nat) (i j : Nat) : (s.clearMem lo hi).chan i j = s.chan i j := rfl
@[simp] theorem job_clearMem (lo hi : Nat) (i : Nat) : (s.clearMem lo hi).job i = s.job i := rfl
@[simp] theorem carrier_clearMem (lo hi : Nat) (i : Nat) : (s.clearMem lo hi).carrier i = s.carrier i := rfl
@[simp] theorem harqKey_clearMem (lo hi : Nat) (i j : Nat) : (s.clearMem lo hi).harqKey i j = s.harqKey i j := rfl
@[simp] theorem link_clearMem (lo hi : Nat) (i : Nat) : (s.clearMem lo hi).link i = s.link i := rfl
@[simp] theorem locked_clearMem (lo hi : Nat) : (s.clearMem lo hi).locked = s.locked := rfl
@[simp] theorem live_clearMem (lo hi : Nat) : (s.clearMem lo hi).live = s.live := rfl
@[simp] theorem runningSlot_clearMem (lo hi : Nat) : (s.clearMem lo hi).runningSlot = s.runningSlot := rfl
@[simp] theorem swapping_clearMem (lo hi : Nat) (i : Nat) : (s.clearMem lo hi).swapping i = s.swapping i := rfl
@[simp] theorem physOf_clearMem (lo hi : Nat) (i : Nat) : (s.clearMem lo hi).physOf i = s.physOf i := rfl
@[simp] theorem roleOf_clearMem (lo hi : Nat) (i : Nat) : (s.clearMem lo hi).roleOf i = s.roleOf i := rfl

@[simp] theorem reg_setEcc (w v : Nat) (i : Nat) : (s.setEcc w v).reg i = s.reg i := rfl
@[simp] theorem shadow_setEcc (w v : Nat) (i : Nat) : (s.setEcc w v).shadow i = s.shadow i := rfl
@[simp] theorem acctOf_setEcc (w v : Nat) (i j : Nat) : (s.setEcc w v).acctOf i j = s.acctOf i j := rfl
@[simp] theorem byte_setEcc (w v : Nat) (i : Nat) : (s.setEcc w v).byte i = s.byte i := rfl
@[simp] theorem tbase_setEcc (w v : Nat) (i : Nat) : (s.setEcc w v).tbase i = s.tbase i := rfl
@[simp] theorem tally_setEcc (w v : Nat) (i : Nat) : (s.setEcc w v).tally i = s.tally i := rfl
@[simp] theorem core_setEcc (w v : Nat) (i : Nat) : (s.setEcc w v).core i = s.core i := rfl
@[simp] theorem array_setEcc (w v : Nat) (i : Nat) : (s.setEcc w v).array i = s.array i := rfl
@[simp] theorem rod_setEcc (w v : Nat) (i : Nat) : (s.setEcc w v).rod i = s.rod i := rfl
@[simp] theorem engine_setEcc (w v : Nat) (i : Nat) : (s.setEcc w v).engine i = s.engine i := rfl
@[simp] theorem chan_setEcc (w v : Nat) (i j : Nat) : (s.setEcc w v).chan i j = s.chan i j := rfl
@[simp] theorem job_setEcc (w v : Nat) (i : Nat) : (s.setEcc w v).job i = s.job i := rfl
@[simp] theorem carrier_setEcc (w v : Nat) (i : Nat) : (s.setEcc w v).carrier i = s.carrier i := rfl
@[simp] theorem harqKey_setEcc (w v : Nat) (i j : Nat) : (s.setEcc w v).harqKey i j = s.harqKey i j := rfl
@[simp] theorem link_setEcc (w v : Nat) (i : Nat) : (s.setEcc w v).link i = s.link i := rfl
@[simp] theorem locked_setEcc (w v : Nat) : (s.setEcc w v).locked = s.locked := rfl
@[simp] theorem live_setEcc (w v : Nat) : (s.setEcc w v).live = s.live := rfl
@[simp] theorem runningSlot_setEcc (w v : Nat) : (s.setEcc w v).runningSlot = s.runningSlot := rfl
@[simp] theorem swapping_setEcc (w v : Nat) (i : Nat) : (s.setEcc w v).swapping i = s.swapping i := rfl
@[simp] theorem physOf_setEcc (w v : Nat) (i : Nat) : (s.setEcc w v).physOf i = s.physOf i := rfl
@[simp] theorem roleOf_setEcc (w v : Nat) (i : Nat) : (s.setEcc w v).roleOf i = s.roleOf i := rfl

@[simp] theorem reg_eccWritten (a n : Nat) (i : Nat) : (s.eccWritten a n).reg i = s.reg i := rfl
@[simp] theorem shadow_eccWritten (a n : Nat) (i : Nat) : (s.eccWritten a n).shadow i = s.shadow i := rfl
@[simp] theorem acctOf_eccWritten (a n : Nat) (i j : Nat) : (s.eccWritten a n).acctOf i j = s.acctOf i j := rfl
@[simp] theorem byte_eccWritten (a n : Nat) (i : Nat) : (s.eccWritten a n).byte i = s.byte i := rfl
@[simp] theorem tbase_eccWritten (a n : Nat) (i : Nat) : (s.eccWritten a n).tbase i = s.tbase i := rfl
@[simp] theorem tally_eccWritten (a n : Nat) (i : Nat) : (s.eccWritten a n).tally i = s.tally i := rfl
@[simp] theorem core_eccWritten (a n : Nat) (i : Nat) : (s.eccWritten a n).core i = s.core i := rfl
@[simp] theorem array_eccWritten (a n : Nat) (i : Nat) : (s.eccWritten a n).array i = s.array i := rfl
@[simp] theorem rod_eccWritten (a n : Nat) (i : Nat) : (s.eccWritten a n).rod i = s.rod i := rfl
@[simp] theorem engine_eccWritten (a n : Nat) (i : Nat) : (s.eccWritten a n).engine i = s.engine i := rfl
@[simp] theorem chan_eccWritten (a n : Nat) (i j : Nat) : (s.eccWritten a n).chan i j = s.chan i j := rfl
@[simp] theorem job_eccWritten (a n : Nat) (i : Nat) : (s.eccWritten a n).job i = s.job i := rfl
@[simp] theorem carrier_eccWritten (a n : Nat) (i : Nat) : (s.eccWritten a n).carrier i = s.carrier i := rfl
@[simp] theorem harqKey_eccWritten (a n : Nat) (i j : Nat) : (s.eccWritten a n).harqKey i j = s.harqKey i j := rfl
@[simp] theorem link_eccWritten (a n : Nat) (i : Nat) : (s.eccWritten a n).link i = s.link i := rfl
@[simp] theorem locked_eccWritten (a n : Nat) : (s.eccWritten a n).locked = s.locked := rfl
@[simp] theorem live_eccWritten (a n : Nat) : (s.eccWritten a n).live = s.live := rfl
@[simp] theorem runningSlot_eccWritten (a n : Nat) : (s.eccWritten a n).runningSlot = s.runningSlot := rfl
@[simp] theorem swapping_eccWritten (a n : Nat) (i : Nat) : (s.eccWritten a n).swapping i = s.swapping i := rfl
@[simp] theorem physOf_eccWritten (a n : Nat) (i : Nat) : (s.eccWritten a n).physOf i = s.physOf i := rfl
@[simp] theorem roleOf_eccWritten (a n : Nat) (i : Nat) : (s.eccWritten a n).roleOf i = s.roleOf i := rfl

@[simp] theorem reg_drawFree (n : Nat) (i : Nat) : (s.drawFree n).reg i = s.reg i := rfl
@[simp] theorem shadow_drawFree (n : Nat) (i : Nat) : (s.drawFree n).shadow i = s.shadow i := rfl
@[simp] theorem acctOf_drawFree (n : Nat) (i j : Nat) : (s.drawFree n).acctOf i j = s.acctOf i j := rfl
@[simp] theorem byte_drawFree (n : Nat) (i : Nat) : (s.drawFree n).byte i = s.byte i := rfl
@[simp] theorem eccOf_drawFree (n : Nat) (i : Nat) : (s.drawFree n).eccOf i = s.eccOf i := rfl
@[simp] theorem tbase_drawFree (n : Nat) (i : Nat) : (s.drawFree n).tbase i = s.tbase i := rfl
@[simp] theorem tally_drawFree (n : Nat) (i : Nat) : (s.drawFree n).tally i = s.tally i := rfl
@[simp] theorem core_drawFree (n : Nat) (i : Nat) : (s.drawFree n).core i = s.core i := rfl
@[simp] theorem array_drawFree (n : Nat) (i : Nat) : (s.drawFree n).array i = s.array i := rfl
@[simp] theorem rod_drawFree (n : Nat) (i : Nat) : (s.drawFree n).rod i = s.rod i := rfl
@[simp] theorem engine_drawFree (n : Nat) (i : Nat) : (s.drawFree n).engine i = s.engine i := rfl
@[simp] theorem chan_drawFree (n : Nat) (i j : Nat) : (s.drawFree n).chan i j = s.chan i j := rfl
@[simp] theorem job_drawFree (n : Nat) (i : Nat) : (s.drawFree n).job i = s.job i := rfl
@[simp] theorem carrier_drawFree (n : Nat) (i : Nat) : (s.drawFree n).carrier i = s.carrier i := rfl
@[simp] theorem harqKey_drawFree (n : Nat) (i j : Nat) : (s.drawFree n).harqKey i j = s.harqKey i j := rfl
@[simp] theorem link_drawFree (n : Nat) (i : Nat) : (s.drawFree n).link i = s.link i := rfl
@[simp] theorem locked_drawFree (n : Nat) : (s.drawFree n).locked = s.locked := rfl
@[simp] theorem live_drawFree (n : Nat) : (s.drawFree n).live = s.live := rfl
@[simp] theorem runningSlot_drawFree (n : Nat) : (s.drawFree n).runningSlot = s.runningSlot := rfl
@[simp] theorem swapping_drawFree (n : Nat) (i : Nat) : (s.drawFree n).swapping i = s.swapping i := rfl
@[simp] theorem physOf_drawFree (n : Nat) (i : Nat) : (s.drawFree n).physOf i = s.physOf i := rfl
@[simp] theorem roleOf_drawFree (n : Nat) (i : Nat) : (s.drawFree n).roleOf i = s.roleOf i := rfl

@[simp] theorem reg_setTbase (n : Nat) (v : TimeBase) (i : Nat) : (s.setTbase n v).reg i = s.reg i := rfl
@[simp] theorem shadow_setTbase (n : Nat) (v : TimeBase) (i : Nat) : (s.setTbase n v).shadow i = s.shadow i := rfl
@[simp] theorem acctOf_setTbase (n : Nat) (v : TimeBase) (i j : Nat) : (s.setTbase n v).acctOf i j = s.acctOf i j := rfl
@[simp] theorem byte_setTbase (n : Nat) (v : TimeBase) (i : Nat) : (s.setTbase n v).byte i = s.byte i := rfl
@[simp] theorem eccOf_setTbase (n : Nat) (v : TimeBase) (i : Nat) : (s.setTbase n v).eccOf i = s.eccOf i := rfl
@[simp] theorem tally_setTbase (n : Nat) (v : TimeBase) (i : Nat) : (s.setTbase n v).tally i = s.tally i := rfl
@[simp] theorem core_setTbase (n : Nat) (v : TimeBase) (i : Nat) : (s.setTbase n v).core i = s.core i := rfl
@[simp] theorem array_setTbase (n : Nat) (v : TimeBase) (i : Nat) : (s.setTbase n v).array i = s.array i := rfl
@[simp] theorem rod_setTbase (n : Nat) (v : TimeBase) (i : Nat) : (s.setTbase n v).rod i = s.rod i := rfl
@[simp] theorem engine_setTbase (n : Nat) (v : TimeBase) (i : Nat) : (s.setTbase n v).engine i = s.engine i := rfl
@[simp] theorem chan_setTbase (n : Nat) (v : TimeBase) (i j : Nat) : (s.setTbase n v).chan i j = s.chan i j := rfl
@[simp] theorem job_setTbase (n : Nat) (v : TimeBase) (i : Nat) : (s.setTbase n v).job i = s.job i := rfl
@[simp] theorem carrier_setTbase (n : Nat) (v : TimeBase) (i : Nat) : (s.setTbase n v).carrier i = s.carrier i := rfl
@[simp] theorem harqKey_setTbase (n : Nat) (v : TimeBase) (i j : Nat) : (s.setTbase n v).harqKey i j = s.harqKey i j := rfl
@[simp] theorem link_setTbase (n : Nat) (v : TimeBase) (i : Nat) : (s.setTbase n v).link i = s.link i := rfl
@[simp] theorem locked_setTbase (n : Nat) (v : TimeBase) : (s.setTbase n v).locked = s.locked := rfl
@[simp] theorem live_setTbase (n : Nat) (v : TimeBase) : (s.setTbase n v).live = s.live := rfl
@[simp] theorem runningSlot_setTbase (n : Nat) (v : TimeBase) : (s.setTbase n v).runningSlot = s.runningSlot := rfl
@[simp] theorem swapping_setTbase (n : Nat) (v : TimeBase) (i : Nat) : (s.setTbase n v).swapping i = s.swapping i := rfl
@[simp] theorem physOf_setTbase (n : Nat) (v : TimeBase) (i : Nat) : (s.setTbase n v).physOf i = s.physOf i := rfl
@[simp] theorem roleOf_setTbase (n : Nat) (v : TimeBase) (i : Nat) : (s.setTbase n v).roleOf i = s.roleOf i := rfl

@[simp] theorem reg_setTally (n : Nat) (v : Tally) (i : Nat) : (s.setTally n v).reg i = s.reg i := rfl
@[simp] theorem shadow_setTally (n : Nat) (v : Tally) (i : Nat) : (s.setTally n v).shadow i = s.shadow i := rfl
@[simp] theorem acctOf_setTally (n : Nat) (v : Tally) (i j : Nat) : (s.setTally n v).acctOf i j = s.acctOf i j := rfl
@[simp] theorem byte_setTally (n : Nat) (v : Tally) (i : Nat) : (s.setTally n v).byte i = s.byte i := rfl
@[simp] theorem eccOf_setTally (n : Nat) (v : Tally) (i : Nat) : (s.setTally n v).eccOf i = s.eccOf i := rfl
@[simp] theorem tbase_setTally (n : Nat) (v : Tally) (i : Nat) : (s.setTally n v).tbase i = s.tbase i := rfl
@[simp] theorem core_setTally (n : Nat) (v : Tally) (i : Nat) : (s.setTally n v).core i = s.core i := rfl
@[simp] theorem array_setTally (n : Nat) (v : Tally) (i : Nat) : (s.setTally n v).array i = s.array i := rfl
@[simp] theorem rod_setTally (n : Nat) (v : Tally) (i : Nat) : (s.setTally n v).rod i = s.rod i := rfl
@[simp] theorem engine_setTally (n : Nat) (v : Tally) (i : Nat) : (s.setTally n v).engine i = s.engine i := rfl
@[simp] theorem chan_setTally (n : Nat) (v : Tally) (i j : Nat) : (s.setTally n v).chan i j = s.chan i j := rfl
@[simp] theorem job_setTally (n : Nat) (v : Tally) (i : Nat) : (s.setTally n v).job i = s.job i := rfl
@[simp] theorem carrier_setTally (n : Nat) (v : Tally) (i : Nat) : (s.setTally n v).carrier i = s.carrier i := rfl
@[simp] theorem harqKey_setTally (n : Nat) (v : Tally) (i j : Nat) : (s.setTally n v).harqKey i j = s.harqKey i j := rfl
@[simp] theorem link_setTally (n : Nat) (v : Tally) (i : Nat) : (s.setTally n v).link i = s.link i := rfl
@[simp] theorem locked_setTally (n : Nat) (v : Tally) : (s.setTally n v).locked = s.locked := rfl
@[simp] theorem live_setTally (n : Nat) (v : Tally) : (s.setTally n v).live = s.live := rfl
@[simp] theorem runningSlot_setTally (n : Nat) (v : Tally) : (s.setTally n v).runningSlot = s.runningSlot := rfl
@[simp] theorem swapping_setTally (n : Nat) (v : Tally) (i : Nat) : (s.setTally n v).swapping i = s.swapping i := rfl
@[simp] theorem physOf_setTally (n : Nat) (v : Tally) (i : Nat) : (s.setTally n v).physOf i = s.physOf i := rfl
@[simp] theorem roleOf_setTally (n : Nat) (v : Tally) (i : Nat) : (s.setTally n v).roleOf i = s.roleOf i := rfl

@[simp] theorem reg_setCore (t : Nat) (v : DigitCore) (i : Nat) : (s.setCore t v).reg i = s.reg i := rfl
@[simp] theorem shadow_setCore (t : Nat) (v : DigitCore) (i : Nat) : (s.setCore t v).shadow i = s.shadow i := rfl
@[simp] theorem acctOf_setCore (t : Nat) (v : DigitCore) (i j : Nat) : (s.setCore t v).acctOf i j = s.acctOf i j := rfl
@[simp] theorem byte_setCore (t : Nat) (v : DigitCore) (i : Nat) : (s.setCore t v).byte i = s.byte i := rfl
@[simp] theorem eccOf_setCore (t : Nat) (v : DigitCore) (i : Nat) : (s.setCore t v).eccOf i = s.eccOf i := rfl
@[simp] theorem tbase_setCore (t : Nat) (v : DigitCore) (i : Nat) : (s.setCore t v).tbase i = s.tbase i := rfl
@[simp] theorem tally_setCore (t : Nat) (v : DigitCore) (i : Nat) : (s.setCore t v).tally i = s.tally i := rfl
@[simp] theorem array_setCore (t : Nat) (v : DigitCore) (i : Nat) : (s.setCore t v).array i = s.array i := rfl
@[simp] theorem rod_setCore (t : Nat) (v : DigitCore) (i : Nat) : (s.setCore t v).rod i = s.rod i := rfl
@[simp] theorem engine_setCore (t : Nat) (v : DigitCore) (i : Nat) : (s.setCore t v).engine i = s.engine i := rfl
@[simp] theorem chan_setCore (t : Nat) (v : DigitCore) (i j : Nat) : (s.setCore t v).chan i j = s.chan i j := rfl
@[simp] theorem job_setCore (t : Nat) (v : DigitCore) (i : Nat) : (s.setCore t v).job i = s.job i := rfl
@[simp] theorem carrier_setCore (t : Nat) (v : DigitCore) (i : Nat) : (s.setCore t v).carrier i = s.carrier i := rfl
@[simp] theorem harqKey_setCore (t : Nat) (v : DigitCore) (i j : Nat) : (s.setCore t v).harqKey i j = s.harqKey i j := rfl
@[simp] theorem link_setCore (t : Nat) (v : DigitCore) (i : Nat) : (s.setCore t v).link i = s.link i := rfl
@[simp] theorem locked_setCore (t : Nat) (v : DigitCore) : (s.setCore t v).locked = s.locked := rfl
@[simp] theorem live_setCore (t : Nat) (v : DigitCore) : (s.setCore t v).live = s.live := rfl
@[simp] theorem runningSlot_setCore (t : Nat) (v : DigitCore) : (s.setCore t v).runningSlot = s.runningSlot := rfl
@[simp] theorem swapping_setCore (t : Nat) (v : DigitCore) (i : Nat) : (s.setCore t v).swapping i = s.swapping i := rfl
@[simp] theorem physOf_setCore (t : Nat) (v : DigitCore) (i : Nat) : (s.setCore t v).physOf i = s.physOf i := rfl
@[simp] theorem roleOf_setCore (t : Nat) (v : DigitCore) (i : Nat) : (s.setCore t v).roleOf i = s.roleOf i := rfl

@[simp] theorem reg_setArray (t : Nat) (v : BeadArray) (i : Nat) : (s.setArray t v).reg i = s.reg i := rfl
@[simp] theorem shadow_setArray (t : Nat) (v : BeadArray) (i : Nat) : (s.setArray t v).shadow i = s.shadow i := rfl
@[simp] theorem acctOf_setArray (t : Nat) (v : BeadArray) (i j : Nat) : (s.setArray t v).acctOf i j = s.acctOf i j := rfl
@[simp] theorem byte_setArray (t : Nat) (v : BeadArray) (i : Nat) : (s.setArray t v).byte i = s.byte i := rfl
@[simp] theorem eccOf_setArray (t : Nat) (v : BeadArray) (i : Nat) : (s.setArray t v).eccOf i = s.eccOf i := rfl
@[simp] theorem tbase_setArray (t : Nat) (v : BeadArray) (i : Nat) : (s.setArray t v).tbase i = s.tbase i := rfl
@[simp] theorem tally_setArray (t : Nat) (v : BeadArray) (i : Nat) : (s.setArray t v).tally i = s.tally i := rfl
@[simp] theorem core_setArray (t : Nat) (v : BeadArray) (i : Nat) : (s.setArray t v).core i = s.core i := rfl
@[simp] theorem rod_setArray (t : Nat) (v : BeadArray) (i : Nat) : (s.setArray t v).rod i = s.rod i := rfl
@[simp] theorem engine_setArray (t : Nat) (v : BeadArray) (i : Nat) : (s.setArray t v).engine i = s.engine i := rfl
@[simp] theorem chan_setArray (t : Nat) (v : BeadArray) (i j : Nat) : (s.setArray t v).chan i j = s.chan i j := rfl
@[simp] theorem job_setArray (t : Nat) (v : BeadArray) (i : Nat) : (s.setArray t v).job i = s.job i := rfl
@[simp] theorem carrier_setArray (t : Nat) (v : BeadArray) (i : Nat) : (s.setArray t v).carrier i = s.carrier i := rfl
@[simp] theorem harqKey_setArray (t : Nat) (v : BeadArray) (i j : Nat) : (s.setArray t v).harqKey i j = s.harqKey i j := rfl
@[simp] theorem link_setArray (t : Nat) (v : BeadArray) (i : Nat) : (s.setArray t v).link i = s.link i := rfl
@[simp] theorem locked_setArray (t : Nat) (v : BeadArray) : (s.setArray t v).locked = s.locked := rfl
@[simp] theorem live_setArray (t : Nat) (v : BeadArray) : (s.setArray t v).live = s.live := rfl
@[simp] theorem runningSlot_setArray (t : Nat) (v : BeadArray) : (s.setArray t v).runningSlot = s.runningSlot := rfl
@[simp] theorem swapping_setArray (t : Nat) (v : BeadArray) (i : Nat) : (s.setArray t v).swapping i = s.swapping i := rfl
@[simp] theorem physOf_setArray (t : Nat) (v : BeadArray) (i : Nat) : (s.setArray t v).physOf i = s.physOf i := rfl
@[simp] theorem roleOf_setArray (t : Nat) (v : BeadArray) (i : Nat) : (s.setArray t v).roleOf i = s.roleOf i := rfl

@[simp] theorem reg_setRod (t : Nat) (v : RodEngine) (i : Nat) : (s.setRod t v).reg i = s.reg i := rfl
@[simp] theorem shadow_setRod (t : Nat) (v : RodEngine) (i : Nat) : (s.setRod t v).shadow i = s.shadow i := rfl
@[simp] theorem acctOf_setRod (t : Nat) (v : RodEngine) (i j : Nat) : (s.setRod t v).acctOf i j = s.acctOf i j := rfl
@[simp] theorem byte_setRod (t : Nat) (v : RodEngine) (i : Nat) : (s.setRod t v).byte i = s.byte i := rfl
@[simp] theorem eccOf_setRod (t : Nat) (v : RodEngine) (i : Nat) : (s.setRod t v).eccOf i = s.eccOf i := rfl
@[simp] theorem tbase_setRod (t : Nat) (v : RodEngine) (i : Nat) : (s.setRod t v).tbase i = s.tbase i := rfl
@[simp] theorem tally_setRod (t : Nat) (v : RodEngine) (i : Nat) : (s.setRod t v).tally i = s.tally i := rfl
@[simp] theorem core_setRod (t : Nat) (v : RodEngine) (i : Nat) : (s.setRod t v).core i = s.core i := rfl
@[simp] theorem array_setRod (t : Nat) (v : RodEngine) (i : Nat) : (s.setRod t v).array i = s.array i := rfl
@[simp] theorem engine_setRod (t : Nat) (v : RodEngine) (i : Nat) : (s.setRod t v).engine i = s.engine i := rfl
@[simp] theorem chan_setRod (t : Nat) (v : RodEngine) (i j : Nat) : (s.setRod t v).chan i j = s.chan i j := rfl
@[simp] theorem job_setRod (t : Nat) (v : RodEngine) (i : Nat) : (s.setRod t v).job i = s.job i := rfl
@[simp] theorem carrier_setRod (t : Nat) (v : RodEngine) (i : Nat) : (s.setRod t v).carrier i = s.carrier i := rfl
@[simp] theorem harqKey_setRod (t : Nat) (v : RodEngine) (i j : Nat) : (s.setRod t v).harqKey i j = s.harqKey i j := rfl
@[simp] theorem link_setRod (t : Nat) (v : RodEngine) (i : Nat) : (s.setRod t v).link i = s.link i := rfl
@[simp] theorem locked_setRod (t : Nat) (v : RodEngine) : (s.setRod t v).locked = s.locked := rfl
@[simp] theorem live_setRod (t : Nat) (v : RodEngine) : (s.setRod t v).live = s.live := rfl
@[simp] theorem runningSlot_setRod (t : Nat) (v : RodEngine) : (s.setRod t v).runningSlot = s.runningSlot := rfl
@[simp] theorem swapping_setRod (t : Nat) (v : RodEngine) (i : Nat) : (s.setRod t v).swapping i = s.swapping i := rfl
@[simp] theorem physOf_setRod (t : Nat) (v : RodEngine) (i : Nat) : (s.setRod t v).physOf i = s.physOf i := rfl
@[simp] theorem roleOf_setRod (t : Nat) (v : RodEngine) (i : Nat) : (s.setRod t v).roleOf i = s.roleOf i := rfl

@[simp] theorem reg_setEngine (e : Nat) (v : SlideEngine) (i : Nat) : (s.setEngine e v).reg i = s.reg i := rfl
@[simp] theorem shadow_setEngine (e : Nat) (v : SlideEngine) (i : Nat) : (s.setEngine e v).shadow i = s.shadow i := rfl
@[simp] theorem acctOf_setEngine (e : Nat) (v : SlideEngine) (i j : Nat) : (s.setEngine e v).acctOf i j = s.acctOf i j := rfl
@[simp] theorem byte_setEngine (e : Nat) (v : SlideEngine) (i : Nat) : (s.setEngine e v).byte i = s.byte i := rfl
@[simp] theorem eccOf_setEngine (e : Nat) (v : SlideEngine) (i : Nat) : (s.setEngine e v).eccOf i = s.eccOf i := rfl
@[simp] theorem tbase_setEngine (e : Nat) (v : SlideEngine) (i : Nat) : (s.setEngine e v).tbase i = s.tbase i := rfl
@[simp] theorem tally_setEngine (e : Nat) (v : SlideEngine) (i : Nat) : (s.setEngine e v).tally i = s.tally i := rfl
@[simp] theorem core_setEngine (e : Nat) (v : SlideEngine) (i : Nat) : (s.setEngine e v).core i = s.core i := rfl
@[simp] theorem array_setEngine (e : Nat) (v : SlideEngine) (i : Nat) : (s.setEngine e v).array i = s.array i := rfl
@[simp] theorem rod_setEngine (e : Nat) (v : SlideEngine) (i : Nat) : (s.setEngine e v).rod i = s.rod i := rfl
@[simp] theorem chan_setEngine (e : Nat) (v : SlideEngine) (i j : Nat) : (s.setEngine e v).chan i j = s.chan i j := rfl
@[simp] theorem job_setEngine (e : Nat) (v : SlideEngine) (i : Nat) : (s.setEngine e v).job i = s.job i := rfl
@[simp] theorem carrier_setEngine (e : Nat) (v : SlideEngine) (i : Nat) : (s.setEngine e v).carrier i = s.carrier i := rfl
@[simp] theorem harqKey_setEngine (e : Nat) (v : SlideEngine) (i j : Nat) : (s.setEngine e v).harqKey i j = s.harqKey i j := rfl
@[simp] theorem link_setEngine (e : Nat) (v : SlideEngine) (i : Nat) : (s.setEngine e v).link i = s.link i := rfl
@[simp] theorem locked_setEngine (e : Nat) (v : SlideEngine) : (s.setEngine e v).locked = s.locked := rfl
@[simp] theorem live_setEngine (e : Nat) (v : SlideEngine) : (s.setEngine e v).live = s.live := rfl
@[simp] theorem runningSlot_setEngine (e : Nat) (v : SlideEngine) : (s.setEngine e v).runningSlot = s.runningSlot := rfl
@[simp] theorem swapping_setEngine (e : Nat) (v : SlideEngine) (i : Nat) : (s.setEngine e v).swapping i = s.swapping i := rfl
@[simp] theorem physOf_setEngine (e : Nat) (v : SlideEngine) (i : Nat) : (s.setEngine e v).physOf i = s.physOf i := rfl
@[simp] theorem roleOf_setEngine (e : Nat) (v : SlideEngine) (i : Nat) : (s.setEngine e v).roleOf i = s.roleOf i := rfl

@[simp] theorem reg_setChan (e ch : Nat) (v : SlideChannel) (i : Nat) : (s.setChan e ch v).reg i = s.reg i := rfl
@[simp] theorem shadow_setChan (e ch : Nat) (v : SlideChannel) (i : Nat) : (s.setChan e ch v).shadow i = s.shadow i := rfl
@[simp] theorem acctOf_setChan (e ch : Nat) (v : SlideChannel) (i j : Nat) : (s.setChan e ch v).acctOf i j = s.acctOf i j := rfl
@[simp] theorem byte_setChan (e ch : Nat) (v : SlideChannel) (i : Nat) : (s.setChan e ch v).byte i = s.byte i := rfl
@[simp] theorem eccOf_setChan (e ch : Nat) (v : SlideChannel) (i : Nat) : (s.setChan e ch v).eccOf i = s.eccOf i := rfl
@[simp] theorem tbase_setChan (e ch : Nat) (v : SlideChannel) (i : Nat) : (s.setChan e ch v).tbase i = s.tbase i := rfl
@[simp] theorem tally_setChan (e ch : Nat) (v : SlideChannel) (i : Nat) : (s.setChan e ch v).tally i = s.tally i := rfl
@[simp] theorem core_setChan (e ch : Nat) (v : SlideChannel) (i : Nat) : (s.setChan e ch v).core i = s.core i := rfl
@[simp] theorem array_setChan (e ch : Nat) (v : SlideChannel) (i : Nat) : (s.setChan e ch v).array i = s.array i := rfl
@[simp] theorem rod_setChan (e ch : Nat) (v : SlideChannel) (i : Nat) : (s.setChan e ch v).rod i = s.rod i := rfl
@[simp] theorem engine_setChan (e ch : Nat) (v : SlideChannel) (i : Nat) : (s.setChan e ch v).engine i = s.engine i := rfl
@[simp] theorem job_setChan (e ch : Nat) (v : SlideChannel) (i : Nat) : (s.setChan e ch v).job i = s.job i := rfl
@[simp] theorem carrier_setChan (e ch : Nat) (v : SlideChannel) (i : Nat) : (s.setChan e ch v).carrier i = s.carrier i := rfl
@[simp] theorem harqKey_setChan (e ch : Nat) (v : SlideChannel) (i j : Nat) : (s.setChan e ch v).harqKey i j = s.harqKey i j := rfl
@[simp] theorem link_setChan (e ch : Nat) (v : SlideChannel) (i : Nat) : (s.setChan e ch v).link i = s.link i := rfl
@[simp] theorem locked_setChan (e ch : Nat) (v : SlideChannel) : (s.setChan e ch v).locked = s.locked := rfl
@[simp] theorem live_setChan (e ch : Nat) (v : SlideChannel) : (s.setChan e ch v).live = s.live := rfl
@[simp] theorem runningSlot_setChan (e ch : Nat) (v : SlideChannel) : (s.setChan e ch v).runningSlot = s.runningSlot := rfl
@[simp] theorem swapping_setChan (e ch : Nat) (v : SlideChannel) (i : Nat) : (s.setChan e ch v).swapping i = s.swapping i := rfl
@[simp] theorem physOf_setChan (e ch : Nat) (v : SlideChannel) (i : Nat) : (s.setChan e ch v).physOf i = s.physOf i := rfl
@[simp] theorem roleOf_setChan (e ch : Nat) (v : SlideChannel) (i : Nat) : (s.setChan e ch v).roleOf i = s.roleOf i := rfl

@[simp] theorem reg_setJob (n : Nat) (v : JobSlot) (i : Nat) : (s.setJob n v).reg i = s.reg i := rfl
@[simp] theorem shadow_setJob (n : Nat) (v : JobSlot) (i : Nat) : (s.setJob n v).shadow i = s.shadow i := rfl
@[simp] theorem acctOf_setJob (n : Nat) (v : JobSlot) (i j : Nat) : (s.setJob n v).acctOf i j = s.acctOf i j := rfl
@[simp] theorem byte_setJob (n : Nat) (v : JobSlot) (i : Nat) : (s.setJob n v).byte i = s.byte i := rfl
@[simp] theorem eccOf_setJob (n : Nat) (v : JobSlot) (i : Nat) : (s.setJob n v).eccOf i = s.eccOf i := rfl
@[simp] theorem tbase_setJob (n : Nat) (v : JobSlot) (i : Nat) : (s.setJob n v).tbase i = s.tbase i := rfl
@[simp] theorem tally_setJob (n : Nat) (v : JobSlot) (i : Nat) : (s.setJob n v).tally i = s.tally i := rfl
@[simp] theorem core_setJob (n : Nat) (v : JobSlot) (i : Nat) : (s.setJob n v).core i = s.core i := rfl
@[simp] theorem array_setJob (n : Nat) (v : JobSlot) (i : Nat) : (s.setJob n v).array i = s.array i := rfl
@[simp] theorem rod_setJob (n : Nat) (v : JobSlot) (i : Nat) : (s.setJob n v).rod i = s.rod i := rfl
@[simp] theorem engine_setJob (n : Nat) (v : JobSlot) (i : Nat) : (s.setJob n v).engine i = s.engine i := rfl
@[simp] theorem chan_setJob (n : Nat) (v : JobSlot) (i j : Nat) : (s.setJob n v).chan i j = s.chan i j := rfl
@[simp] theorem carrier_setJob (n : Nat) (v : JobSlot) (i : Nat) : (s.setJob n v).carrier i = s.carrier i := rfl
@[simp] theorem harqKey_setJob (n : Nat) (v : JobSlot) (i j : Nat) : (s.setJob n v).harqKey i j = s.harqKey i j := rfl
@[simp] theorem link_setJob (n : Nat) (v : JobSlot) (i : Nat) : (s.setJob n v).link i = s.link i := rfl
@[simp] theorem locked_setJob (n : Nat) (v : JobSlot) : (s.setJob n v).locked = s.locked := rfl
@[simp] theorem live_setJob (n : Nat) (v : JobSlot) : (s.setJob n v).live = s.live := rfl
@[simp] theorem swapping_setJob (n : Nat) (v : JobSlot) (i : Nat) : (s.setJob n v).swapping i = s.swapping i := rfl
@[simp] theorem physOf_setJob (n : Nat) (v : JobSlot) (i : Nat) : (s.setJob n v).physOf i = s.physOf i := rfl
@[simp] theorem roleOf_setJob (n : Nat) (v : JobSlot) (i : Nat) : (s.setJob n v).roleOf i = s.roleOf i := rfl

@[simp] theorem reg_setCarrier (c : Nat) (v : CarrierState) (i : Nat) : (s.setCarrier c v).reg i = s.reg i := rfl
@[simp] theorem shadow_setCarrier (c : Nat) (v : CarrierState) (i : Nat) : (s.setCarrier c v).shadow i = s.shadow i := rfl
@[simp] theorem acctOf_setCarrier (c : Nat) (v : CarrierState) (i j : Nat) : (s.setCarrier c v).acctOf i j = s.acctOf i j := rfl
@[simp] theorem byte_setCarrier (c : Nat) (v : CarrierState) (i : Nat) : (s.setCarrier c v).byte i = s.byte i := rfl
@[simp] theorem eccOf_setCarrier (c : Nat) (v : CarrierState) (i : Nat) : (s.setCarrier c v).eccOf i = s.eccOf i := rfl
@[simp] theorem tbase_setCarrier (c : Nat) (v : CarrierState) (i : Nat) : (s.setCarrier c v).tbase i = s.tbase i := rfl
@[simp] theorem tally_setCarrier (c : Nat) (v : CarrierState) (i : Nat) : (s.setCarrier c v).tally i = s.tally i := rfl
@[simp] theorem core_setCarrier (c : Nat) (v : CarrierState) (i : Nat) : (s.setCarrier c v).core i = s.core i := rfl
@[simp] theorem array_setCarrier (c : Nat) (v : CarrierState) (i : Nat) : (s.setCarrier c v).array i = s.array i := rfl
@[simp] theorem rod_setCarrier (c : Nat) (v : CarrierState) (i : Nat) : (s.setCarrier c v).rod i = s.rod i := rfl
@[simp] theorem engine_setCarrier (c : Nat) (v : CarrierState) (i : Nat) : (s.setCarrier c v).engine i = s.engine i := rfl
@[simp] theorem chan_setCarrier (c : Nat) (v : CarrierState) (i j : Nat) : (s.setCarrier c v).chan i j = s.chan i j := rfl
@[simp] theorem job_setCarrier (c : Nat) (v : CarrierState) (i : Nat) : (s.setCarrier c v).job i = s.job i := rfl
@[simp] theorem harqKey_setCarrier (c : Nat) (v : CarrierState) (i j : Nat) : (s.setCarrier c v).harqKey i j = s.harqKey i j := rfl
@[simp] theorem link_setCarrier (c : Nat) (v : CarrierState) (i : Nat) : (s.setCarrier c v).link i = s.link i := rfl
@[simp] theorem locked_setCarrier (c : Nat) (v : CarrierState) : (s.setCarrier c v).locked = s.locked := rfl
@[simp] theorem live_setCarrier (c : Nat) (v : CarrierState) : (s.setCarrier c v).live = s.live := rfl
@[simp] theorem runningSlot_setCarrier (c : Nat) (v : CarrierState) : (s.setCarrier c v).runningSlot = s.runningSlot := rfl
@[simp] theorem swapping_setCarrier (c : Nat) (v : CarrierState) (i : Nat) : (s.setCarrier c v).swapping i = s.swapping i := rfl
@[simp] theorem physOf_setCarrier (c : Nat) (v : CarrierState) (i : Nat) : (s.setCarrier c v).physOf i = s.physOf i := rfl
@[simp] theorem roleOf_setCarrier (c : Nat) (v : CarrierState) (i : Nat) : (s.setCarrier c v).roleOf i = s.roleOf i := rfl

@[simp] theorem reg_setHarqKey (c k : Nat) (v : Option Nat) (i : Nat) : (s.setHarqKey c k v).reg i = s.reg i := rfl
@[simp] theorem shadow_setHarqKey (c k : Nat) (v : Option Nat) (i : Nat) : (s.setHarqKey c k v).shadow i = s.shadow i := rfl
@[simp] theorem acctOf_setHarqKey (c k : Nat) (v : Option Nat) (i j : Nat) : (s.setHarqKey c k v).acctOf i j = s.acctOf i j := rfl
@[simp] theorem byte_setHarqKey (c k : Nat) (v : Option Nat) (i : Nat) : (s.setHarqKey c k v).byte i = s.byte i := rfl
@[simp] theorem eccOf_setHarqKey (c k : Nat) (v : Option Nat) (i : Nat) : (s.setHarqKey c k v).eccOf i = s.eccOf i := rfl
@[simp] theorem tbase_setHarqKey (c k : Nat) (v : Option Nat) (i : Nat) : (s.setHarqKey c k v).tbase i = s.tbase i := rfl
@[simp] theorem tally_setHarqKey (c k : Nat) (v : Option Nat) (i : Nat) : (s.setHarqKey c k v).tally i = s.tally i := rfl
@[simp] theorem core_setHarqKey (c k : Nat) (v : Option Nat) (i : Nat) : (s.setHarqKey c k v).core i = s.core i := rfl
@[simp] theorem array_setHarqKey (c k : Nat) (v : Option Nat) (i : Nat) : (s.setHarqKey c k v).array i = s.array i := rfl
@[simp] theorem rod_setHarqKey (c k : Nat) (v : Option Nat) (i : Nat) : (s.setHarqKey c k v).rod i = s.rod i := rfl
@[simp] theorem engine_setHarqKey (c k : Nat) (v : Option Nat) (i : Nat) : (s.setHarqKey c k v).engine i = s.engine i := rfl
@[simp] theorem chan_setHarqKey (c k : Nat) (v : Option Nat) (i j : Nat) : (s.setHarqKey c k v).chan i j = s.chan i j := rfl
@[simp] theorem job_setHarqKey (c k : Nat) (v : Option Nat) (i : Nat) : (s.setHarqKey c k v).job i = s.job i := rfl
@[simp] theorem carrier_setHarqKey (c k : Nat) (v : Option Nat) (i : Nat) : (s.setHarqKey c k v).carrier i = s.carrier i := rfl
@[simp] theorem link_setHarqKey (c k : Nat) (v : Option Nat) (i : Nat) : (s.setHarqKey c k v).link i = s.link i := rfl
@[simp] theorem locked_setHarqKey (c k : Nat) (v : Option Nat) : (s.setHarqKey c k v).locked = s.locked := rfl
@[simp] theorem live_setHarqKey (c k : Nat) (v : Option Nat) : (s.setHarqKey c k v).live = s.live := rfl
@[simp] theorem runningSlot_setHarqKey (c k : Nat) (v : Option Nat) : (s.setHarqKey c k v).runningSlot = s.runningSlot := rfl
@[simp] theorem swapping_setHarqKey (c k : Nat) (v : Option Nat) (i : Nat) : (s.setHarqKey c k v).swapping i = s.swapping i := rfl
@[simp] theorem physOf_setHarqKey (c k : Nat) (v : Option Nat) (i : Nat) : (s.setHarqKey c k v).physOf i = s.physOf i := rfl
@[simp] theorem roleOf_setHarqKey (c k : Nat) (v : Option Nat) (i : Nat) : (s.setHarqKey c k v).roleOf i = s.roleOf i := rfl

@[simp] theorem reg_setLink (c : Nat) (v : LinkState) (i : Nat) : (s.setLink c v).reg i = s.reg i := rfl
@[simp] theorem shadow_setLink (c : Nat) (v : LinkState) (i : Nat) : (s.setLink c v).shadow i = s.shadow i := rfl
@[simp] theorem acctOf_setLink (c : Nat) (v : LinkState) (i j : Nat) : (s.setLink c v).acctOf i j = s.acctOf i j := rfl
@[simp] theorem byte_setLink (c : Nat) (v : LinkState) (i : Nat) : (s.setLink c v).byte i = s.byte i := rfl
@[simp] theorem eccOf_setLink (c : Nat) (v : LinkState) (i : Nat) : (s.setLink c v).eccOf i = s.eccOf i := rfl
@[simp] theorem tbase_setLink (c : Nat) (v : LinkState) (i : Nat) : (s.setLink c v).tbase i = s.tbase i := rfl
@[simp] theorem tally_setLink (c : Nat) (v : LinkState) (i : Nat) : (s.setLink c v).tally i = s.tally i := rfl
@[simp] theorem core_setLink (c : Nat) (v : LinkState) (i : Nat) : (s.setLink c v).core i = s.core i := rfl
@[simp] theorem array_setLink (c : Nat) (v : LinkState) (i : Nat) : (s.setLink c v).array i = s.array i := rfl
@[simp] theorem rod_setLink (c : Nat) (v : LinkState) (i : Nat) : (s.setLink c v).rod i = s.rod i := rfl
@[simp] theorem engine_setLink (c : Nat) (v : LinkState) (i : Nat) : (s.setLink c v).engine i = s.engine i := rfl
@[simp] theorem chan_setLink (c : Nat) (v : LinkState) (i j : Nat) : (s.setLink c v).chan i j = s.chan i j := rfl
@[simp] theorem job_setLink (c : Nat) (v : LinkState) (i : Nat) : (s.setLink c v).job i = s.job i := rfl
@[simp] theorem carrier_setLink (c : Nat) (v : LinkState) (i : Nat) : (s.setLink c v).carrier i = s.carrier i := rfl
@[simp] theorem harqKey_setLink (c : Nat) (v : LinkState) (i j : Nat) : (s.setLink c v).harqKey i j = s.harqKey i j := rfl
@[simp] theorem locked_setLink (c : Nat) (v : LinkState) : (s.setLink c v).locked = s.locked := rfl
@[simp] theorem live_setLink (c : Nat) (v : LinkState) : (s.setLink c v).live = s.live := rfl
@[simp] theorem runningSlot_setLink (c : Nat) (v : LinkState) : (s.setLink c v).runningSlot = s.runningSlot := rfl
@[simp] theorem swapping_setLink (c : Nat) (v : LinkState) (i : Nat) : (s.setLink c v).swapping i = s.swapping i := rfl
@[simp] theorem physOf_setLink (c : Nat) (v : LinkState) (i : Nat) : (s.setLink c v).physOf i = s.physOf i := rfl
@[simp] theorem roleOf_setLink (c : Nat) (v : LinkState) (i : Nat) : (s.setLink c v).roleOf i = s.roleOf i := rfl

@[simp] theorem reg_setInteg (v : Integrity) (i : Nat) : (s.setInteg v).reg i = s.reg i := rfl
@[simp] theorem shadow_setInteg (v : Integrity) (i : Nat) : (s.setInteg v).shadow i = s.shadow i := rfl
@[simp] theorem acctOf_setInteg (v : Integrity) (i j : Nat) : (s.setInteg v).acctOf i j = s.acctOf i j := rfl
@[simp] theorem byte_setInteg (v : Integrity) (i : Nat) : (s.setInteg v).byte i = s.byte i := rfl
@[simp] theorem eccOf_setInteg (v : Integrity) (i : Nat) : (s.setInteg v).eccOf i = s.eccOf i := rfl
@[simp] theorem tbase_setInteg (v : Integrity) (i : Nat) : (s.setInteg v).tbase i = s.tbase i := rfl
@[simp] theorem tally_setInteg (v : Integrity) (i : Nat) : (s.setInteg v).tally i = s.tally i := rfl
@[simp] theorem core_setInteg (v : Integrity) (i : Nat) : (s.setInteg v).core i = s.core i := rfl
@[simp] theorem array_setInteg (v : Integrity) (i : Nat) : (s.setInteg v).array i = s.array i := rfl
@[simp] theorem rod_setInteg (v : Integrity) (i : Nat) : (s.setInteg v).rod i = s.rod i := rfl
@[simp] theorem engine_setInteg (v : Integrity) (i : Nat) : (s.setInteg v).engine i = s.engine i := rfl
@[simp] theorem chan_setInteg (v : Integrity) (i j : Nat) : (s.setInteg v).chan i j = s.chan i j := rfl
@[simp] theorem job_setInteg (v : Integrity) (i : Nat) : (s.setInteg v).job i = s.job i := rfl
@[simp] theorem carrier_setInteg (v : Integrity) (i : Nat) : (s.setInteg v).carrier i = s.carrier i := rfl
@[simp] theorem harqKey_setInteg (v : Integrity) (i j : Nat) : (s.setInteg v).harqKey i j = s.harqKey i j := rfl
@[simp] theorem link_setInteg (v : Integrity) (i : Nat) : (s.setInteg v).link i = s.link i := rfl
@[simp] theorem locked_setInteg (v : Integrity) : (s.setInteg v).locked = s.locked := rfl
@[simp] theorem live_setInteg (v : Integrity) : (s.setInteg v).live = s.live := rfl
@[simp] theorem runningSlot_setInteg (v : Integrity) : (s.setInteg v).runningSlot = s.runningSlot := rfl

@[simp] theorem reg_onInteg (f : Integrity → Integrity) (i : Nat) : (s.onInteg f).reg i = s.reg i := rfl
@[simp] theorem shadow_onInteg (f : Integrity → Integrity) (i : Nat) : (s.onInteg f).shadow i = s.shadow i := rfl
@[simp] theorem acctOf_onInteg (f : Integrity → Integrity) (i j : Nat) : (s.onInteg f).acctOf i j = s.acctOf i j := rfl
@[simp] theorem byte_onInteg (f : Integrity → Integrity) (i : Nat) : (s.onInteg f).byte i = s.byte i := rfl
@[simp] theorem eccOf_onInteg (f : Integrity → Integrity) (i : Nat) : (s.onInteg f).eccOf i = s.eccOf i := rfl
@[simp] theorem tbase_onInteg (f : Integrity → Integrity) (i : Nat) : (s.onInteg f).tbase i = s.tbase i := rfl
@[simp] theorem tally_onInteg (f : Integrity → Integrity) (i : Nat) : (s.onInteg f).tally i = s.tally i := rfl
@[simp] theorem core_onInteg (f : Integrity → Integrity) (i : Nat) : (s.onInteg f).core i = s.core i := rfl
@[simp] theorem array_onInteg (f : Integrity → Integrity) (i : Nat) : (s.onInteg f).array i = s.array i := rfl
@[simp] theorem rod_onInteg (f : Integrity → Integrity) (i : Nat) : (s.onInteg f).rod i = s.rod i := rfl
@[simp] theorem engine_onInteg (f : Integrity → Integrity) (i : Nat) : (s.onInteg f).engine i = s.engine i := rfl
@[simp] theorem chan_onInteg (f : Integrity → Integrity) (i j : Nat) : (s.onInteg f).chan i j = s.chan i j := rfl
@[simp] theorem job_onInteg (f : Integrity → Integrity) (i : Nat) : (s.onInteg f).job i = s.job i := rfl
@[simp] theorem carrier_onInteg (f : Integrity → Integrity) (i : Nat) : (s.onInteg f).carrier i = s.carrier i := rfl
@[simp] theorem harqKey_onInteg (f : Integrity → Integrity) (i j : Nat) : (s.onInteg f).harqKey i j = s.harqKey i j := rfl
@[simp] theorem link_onInteg (f : Integrity → Integrity) (i : Nat) : (s.onInteg f).link i = s.link i := rfl
@[simp] theorem locked_onInteg (f : Integrity → Integrity) : (s.onInteg f).locked = s.locked := rfl
@[simp] theorem live_onInteg (f : Integrity → Integrity) : (s.onInteg f).live = s.live := rfl
@[simp] theorem runningSlot_onInteg (f : Integrity → Integrity) : (s.onInteg f).runningSlot = s.runningSlot := rfl

@[simp] theorem reg_setBridge (v : Bridge) (i : Nat) : (s.setBridge v).reg i = s.reg i := rfl
@[simp] theorem shadow_setBridge (v : Bridge) (i : Nat) : (s.setBridge v).shadow i = s.shadow i := rfl
@[simp] theorem acctOf_setBridge (v : Bridge) (i j : Nat) : (s.setBridge v).acctOf i j = s.acctOf i j := rfl
@[simp] theorem byte_setBridge (v : Bridge) (i : Nat) : (s.setBridge v).byte i = s.byte i := rfl
@[simp] theorem eccOf_setBridge (v : Bridge) (i : Nat) : (s.setBridge v).eccOf i = s.eccOf i := rfl
@[simp] theorem tbase_setBridge (v : Bridge) (i : Nat) : (s.setBridge v).tbase i = s.tbase i := rfl
@[simp] theorem tally_setBridge (v : Bridge) (i : Nat) : (s.setBridge v).tally i = s.tally i := rfl
@[simp] theorem core_setBridge (v : Bridge) (i : Nat) : (s.setBridge v).core i = s.core i := rfl
@[simp] theorem array_setBridge (v : Bridge) (i : Nat) : (s.setBridge v).array i = s.array i := rfl
@[simp] theorem rod_setBridge (v : Bridge) (i : Nat) : (s.setBridge v).rod i = s.rod i := rfl
@[simp] theorem engine_setBridge (v : Bridge) (i : Nat) : (s.setBridge v).engine i = s.engine i := rfl
@[simp] theorem chan_setBridge (v : Bridge) (i j : Nat) : (s.setBridge v).chan i j = s.chan i j := rfl
@[simp] theorem job_setBridge (v : Bridge) (i : Nat) : (s.setBridge v).job i = s.job i := rfl
@[simp] theorem carrier_setBridge (v : Bridge) (i : Nat) : (s.setBridge v).carrier i = s.carrier i := rfl
@[simp] theorem harqKey_setBridge (v : Bridge) (i j : Nat) : (s.setBridge v).harqKey i j = s.harqKey i j := rfl
@[simp] theorem link_setBridge (v : Bridge) (i : Nat) : (s.setBridge v).link i = s.link i := rfl
@[simp] theorem locked_setBridge (v : Bridge) : (s.setBridge v).locked = s.locked := rfl
@[simp] theorem live_setBridge (v : Bridge) : (s.setBridge v).live = s.live := rfl
@[simp] theorem runningSlot_setBridge (v : Bridge) : (s.setBridge v).runningSlot = s.runningSlot := rfl
@[simp] theorem swapping_setBridge (v : Bridge) (i : Nat) : (s.setBridge v).swapping i = s.swapping i := rfl
@[simp] theorem physOf_setBridge (v : Bridge) (i : Nat) : (s.setBridge v).physOf i = s.physOf i := rfl
@[simp] theorem roleOf_setBridge (v : Bridge) (i : Nat) : (s.setBridge v).roleOf i = s.roleOf i := rfl

@[simp] theorem reg_onBridge (f : Bridge → Bridge) (i : Nat) : (s.onBridge f).reg i = s.reg i := rfl
@[simp] theorem shadow_onBridge (f : Bridge → Bridge) (i : Nat) : (s.onBridge f).shadow i = s.shadow i := rfl
@[simp] theorem acctOf_onBridge (f : Bridge → Bridge) (i j : Nat) : (s.onBridge f).acctOf i j = s.acctOf i j := rfl
@[simp] theorem byte_onBridge (f : Bridge → Bridge) (i : Nat) : (s.onBridge f).byte i = s.byte i := rfl
@[simp] theorem eccOf_onBridge (f : Bridge → Bridge) (i : Nat) : (s.onBridge f).eccOf i = s.eccOf i := rfl
@[simp] theorem tbase_onBridge (f : Bridge → Bridge) (i : Nat) : (s.onBridge f).tbase i = s.tbase i := rfl
@[simp] theorem tally_onBridge (f : Bridge → Bridge) (i : Nat) : (s.onBridge f).tally i = s.tally i := rfl
@[simp] theorem core_onBridge (f : Bridge → Bridge) (i : Nat) : (s.onBridge f).core i = s.core i := rfl
@[simp] theorem array_onBridge (f : Bridge → Bridge) (i : Nat) : (s.onBridge f).array i = s.array i := rfl
@[simp] theorem rod_onBridge (f : Bridge → Bridge) (i : Nat) : (s.onBridge f).rod i = s.rod i := rfl
@[simp] theorem engine_onBridge (f : Bridge → Bridge) (i : Nat) : (s.onBridge f).engine i = s.engine i := rfl
@[simp] theorem chan_onBridge (f : Bridge → Bridge) (i j : Nat) : (s.onBridge f).chan i j = s.chan i j := rfl
@[simp] theorem job_onBridge (f : Bridge → Bridge) (i : Nat) : (s.onBridge f).job i = s.job i := rfl
@[simp] theorem carrier_onBridge (f : Bridge → Bridge) (i : Nat) : (s.onBridge f).carrier i = s.carrier i := rfl
@[simp] theorem harqKey_onBridge (f : Bridge → Bridge) (i j : Nat) : (s.onBridge f).harqKey i j = s.harqKey i j := rfl
@[simp] theorem link_onBridge (f : Bridge → Bridge) (i : Nat) : (s.onBridge f).link i = s.link i := rfl
@[simp] theorem locked_onBridge (f : Bridge → Bridge) : (s.onBridge f).locked = s.locked := rfl
@[simp] theorem live_onBridge (f : Bridge → Bridge) : (s.onBridge f).live = s.live := rfl
@[simp] theorem runningSlot_onBridge (f : Bridge → Bridge) : (s.onBridge f).runningSlot = s.runningSlot := rfl
@[simp] theorem swapping_onBridge (f : Bridge → Bridge) (i : Nat) : (s.onBridge f).swapping i = s.swapping i := rfl
@[simp] theorem physOf_onBridge (f : Bridge → Bridge) (i : Nat) : (s.onBridge f).physOf i = s.physOf i := rfl
@[simp] theorem roleOf_onBridge (f : Bridge → Bridge) (i : Nat) : (s.onBridge f).roleOf i = s.roleOf i := rfl

@[simp] theorem reg_setPower (v : Power) (i : Nat) : (s.setPower v).reg i = s.reg i := rfl
@[simp] theorem shadow_setPower (v : Power) (i : Nat) : (s.setPower v).shadow i = s.shadow i := rfl
@[simp] theorem acctOf_setPower (v : Power) (i j : Nat) : (s.setPower v).acctOf i j = s.acctOf i j := rfl
@[simp] theorem byte_setPower (v : Power) (i : Nat) : (s.setPower v).byte i = s.byte i := rfl
@[simp] theorem eccOf_setPower (v : Power) (i : Nat) : (s.setPower v).eccOf i = s.eccOf i := rfl
@[simp] theorem tbase_setPower (v : Power) (i : Nat) : (s.setPower v).tbase i = s.tbase i := rfl
@[simp] theorem tally_setPower (v : Power) (i : Nat) : (s.setPower v).tally i = s.tally i := rfl
@[simp] theorem core_setPower (v : Power) (i : Nat) : (s.setPower v).core i = s.core i := rfl
@[simp] theorem array_setPower (v : Power) (i : Nat) : (s.setPower v).array i = s.array i := rfl
@[simp] theorem rod_setPower (v : Power) (i : Nat) : (s.setPower v).rod i = s.rod i := rfl
@[simp] theorem engine_setPower (v : Power) (i : Nat) : (s.setPower v).engine i = s.engine i := rfl
@[simp] theorem chan_setPower (v : Power) (i j : Nat) : (s.setPower v).chan i j = s.chan i j := rfl
@[simp] theorem job_setPower (v : Power) (i : Nat) : (s.setPower v).job i = s.job i := rfl
@[simp] theorem carrier_setPower (v : Power) (i : Nat) : (s.setPower v).carrier i = s.carrier i := rfl
@[simp] theorem harqKey_setPower (v : Power) (i j : Nat) : (s.setPower v).harqKey i j = s.harqKey i j := rfl
@[simp] theorem link_setPower (v : Power) (i : Nat) : (s.setPower v).link i = s.link i := rfl
@[simp] theorem locked_setPower (v : Power) : (s.setPower v).locked = s.locked := rfl
@[simp] theorem live_setPower (v : Power) : (s.setPower v).live = s.live := rfl
@[simp] theorem runningSlot_setPower (v : Power) : (s.setPower v).runningSlot = s.runningSlot := rfl
@[simp] theorem swapping_setPower (v : Power) (i : Nat) : (s.setPower v).swapping i = s.swapping i := rfl
@[simp] theorem physOf_setPower (v : Power) (i : Nat) : (s.setPower v).physOf i = s.physOf i := rfl
@[simp] theorem roleOf_setPower (v : Power) (i : Nat) : (s.setPower v).roleOf i = s.roleOf i := rfl

@[simp] theorem reg_onPower (f : Power → Power) (i : Nat) : (s.onPower f).reg i = s.reg i := rfl
@[simp] theorem shadow_onPower (f : Power → Power) (i : Nat) : (s.onPower f).shadow i = s.shadow i := rfl
@[simp] theorem acctOf_onPower (f : Power → Power) (i j : Nat) : (s.onPower f).acctOf i j = s.acctOf i j := rfl
@[simp] theorem byte_onPower (f : Power → Power) (i : Nat) : (s.onPower f).byte i = s.byte i := rfl
@[simp] theorem eccOf_onPower (f : Power → Power) (i : Nat) : (s.onPower f).eccOf i = s.eccOf i := rfl
@[simp] theorem tbase_onPower (f : Power → Power) (i : Nat) : (s.onPower f).tbase i = s.tbase i := rfl
@[simp] theorem tally_onPower (f : Power → Power) (i : Nat) : (s.onPower f).tally i = s.tally i := rfl
@[simp] theorem core_onPower (f : Power → Power) (i : Nat) : (s.onPower f).core i = s.core i := rfl
@[simp] theorem array_onPower (f : Power → Power) (i : Nat) : (s.onPower f).array i = s.array i := rfl
@[simp] theorem rod_onPower (f : Power → Power) (i : Nat) : (s.onPower f).rod i = s.rod i := rfl
@[simp] theorem engine_onPower (f : Power → Power) (i : Nat) : (s.onPower f).engine i = s.engine i := rfl
@[simp] theorem chan_onPower (f : Power → Power) (i j : Nat) : (s.onPower f).chan i j = s.chan i j := rfl
@[simp] theorem job_onPower (f : Power → Power) (i : Nat) : (s.onPower f).job i = s.job i := rfl
@[simp] theorem carrier_onPower (f : Power → Power) (i : Nat) : (s.onPower f).carrier i = s.carrier i := rfl
@[simp] theorem harqKey_onPower (f : Power → Power) (i j : Nat) : (s.onPower f).harqKey i j = s.harqKey i j := rfl
@[simp] theorem link_onPower (f : Power → Power) (i : Nat) : (s.onPower f).link i = s.link i := rfl
@[simp] theorem locked_onPower (f : Power → Power) : (s.onPower f).locked = s.locked := rfl
@[simp] theorem live_onPower (f : Power → Power) : (s.onPower f).live = s.live := rfl
@[simp] theorem runningSlot_onPower (f : Power → Power) : (s.onPower f).runningSlot = s.runningSlot := rfl
@[simp] theorem swapping_onPower (f : Power → Power) (i : Nat) : (s.onPower f).swapping i = s.swapping i := rfl
@[simp] theorem physOf_onPower (f : Power → Power) (i : Nat) : (s.onPower f).physOf i = s.physOf i := rfl
@[simp] theorem roleOf_onPower (f : Power → Power) (i : Nat) : (s.onPower f).roleOf i = s.roleOf i := rfl

@[simp] theorem reg_setSec (v : Security) (i : Nat) : (s.setSec v).reg i = s.reg i := rfl
@[simp] theorem shadow_setSec (v : Security) (i : Nat) : (s.setSec v).shadow i = s.shadow i := rfl
@[simp] theorem acctOf_setSec (v : Security) (i j : Nat) : (s.setSec v).acctOf i j = s.acctOf i j := rfl
@[simp] theorem byte_setSec (v : Security) (i : Nat) : (s.setSec v).byte i = s.byte i := rfl
@[simp] theorem eccOf_setSec (v : Security) (i : Nat) : (s.setSec v).eccOf i = s.eccOf i := rfl
@[simp] theorem tbase_setSec (v : Security) (i : Nat) : (s.setSec v).tbase i = s.tbase i := rfl
@[simp] theorem tally_setSec (v : Security) (i : Nat) : (s.setSec v).tally i = s.tally i := rfl
@[simp] theorem core_setSec (v : Security) (i : Nat) : (s.setSec v).core i = s.core i := rfl
@[simp] theorem array_setSec (v : Security) (i : Nat) : (s.setSec v).array i = s.array i := rfl
@[simp] theorem rod_setSec (v : Security) (i : Nat) : (s.setSec v).rod i = s.rod i := rfl
@[simp] theorem engine_setSec (v : Security) (i : Nat) : (s.setSec v).engine i = s.engine i := rfl
@[simp] theorem chan_setSec (v : Security) (i j : Nat) : (s.setSec v).chan i j = s.chan i j := rfl
@[simp] theorem job_setSec (v : Security) (i : Nat) : (s.setSec v).job i = s.job i := rfl
@[simp] theorem carrier_setSec (v : Security) (i : Nat) : (s.setSec v).carrier i = s.carrier i := rfl
@[simp] theorem harqKey_setSec (v : Security) (i j : Nat) : (s.setSec v).harqKey i j = s.harqKey i j := rfl
@[simp] theorem link_setSec (v : Security) (i : Nat) : (s.setSec v).link i = s.link i := rfl
@[simp] theorem locked_setSec (v : Security) : (s.setSec v).locked = s.locked := rfl
@[simp] theorem live_setSec (v : Security) : (s.setSec v).live = s.live := rfl
@[simp] theorem runningSlot_setSec (v : Security) : (s.setSec v).runningSlot = s.runningSlot := rfl
@[simp] theorem swapping_setSec (v : Security) (i : Nat) : (s.setSec v).swapping i = s.swapping i := rfl
@[simp] theorem physOf_setSec (v : Security) (i : Nat) : (s.setSec v).physOf i = s.physOf i := rfl
@[simp] theorem roleOf_setSec (v : Security) (i : Nat) : (s.setSec v).roleOf i = s.roleOf i := rfl

@[simp] theorem reg_onSec (f : Security → Security) (i : Nat) : (s.onSec f).reg i = s.reg i := rfl
@[simp] theorem shadow_onSec (f : Security → Security) (i : Nat) : (s.onSec f).shadow i = s.shadow i := rfl
@[simp] theorem acctOf_onSec (f : Security → Security) (i j : Nat) : (s.onSec f).acctOf i j = s.acctOf i j := rfl
@[simp] theorem byte_onSec (f : Security → Security) (i : Nat) : (s.onSec f).byte i = s.byte i := rfl
@[simp] theorem eccOf_onSec (f : Security → Security) (i : Nat) : (s.onSec f).eccOf i = s.eccOf i := rfl
@[simp] theorem tbase_onSec (f : Security → Security) (i : Nat) : (s.onSec f).tbase i = s.tbase i := rfl
@[simp] theorem tally_onSec (f : Security → Security) (i : Nat) : (s.onSec f).tally i = s.tally i := rfl
@[simp] theorem core_onSec (f : Security → Security) (i : Nat) : (s.onSec f).core i = s.core i := rfl
@[simp] theorem array_onSec (f : Security → Security) (i : Nat) : (s.onSec f).array i = s.array i := rfl
@[simp] theorem rod_onSec (f : Security → Security) (i : Nat) : (s.onSec f).rod i = s.rod i := rfl
@[simp] theorem engine_onSec (f : Security → Security) (i : Nat) : (s.onSec f).engine i = s.engine i := rfl
@[simp] theorem chan_onSec (f : Security → Security) (i j : Nat) : (s.onSec f).chan i j = s.chan i j := rfl
@[simp] theorem job_onSec (f : Security → Security) (i : Nat) : (s.onSec f).job i = s.job i := rfl
@[simp] theorem carrier_onSec (f : Security → Security) (i : Nat) : (s.onSec f).carrier i = s.carrier i := rfl
@[simp] theorem harqKey_onSec (f : Security → Security) (i j : Nat) : (s.onSec f).harqKey i j = s.harqKey i j := rfl
@[simp] theorem link_onSec (f : Security → Security) (i : Nat) : (s.onSec f).link i = s.link i := rfl
@[simp] theorem locked_onSec (f : Security → Security) : (s.onSec f).locked = s.locked := rfl
@[simp] theorem live_onSec (f : Security → Security) : (s.onSec f).live = s.live := rfl
@[simp] theorem runningSlot_onSec (f : Security → Security) : (s.onSec f).runningSlot = s.runningSlot := rfl
@[simp] theorem swapping_onSec (f : Security → Security) (i : Nat) : (s.onSec f).swapping i = s.swapping i := rfl
@[simp] theorem physOf_onSec (f : Security → Security) (i : Nat) : (s.onSec f).physOf i = s.physOf i := rfl
@[simp] theorem roleOf_onSec (f : Security → Security) (i : Nat) : (s.onSec f).roleOf i = s.roleOf i := rfl

@[simp] theorem reg_setDbg (v : Debug) (i : Nat) : (s.setDbg v).reg i = s.reg i := rfl
@[simp] theorem shadow_setDbg (v : Debug) (i : Nat) : (s.setDbg v).shadow i = s.shadow i := rfl
@[simp] theorem acctOf_setDbg (v : Debug) (i j : Nat) : (s.setDbg v).acctOf i j = s.acctOf i j := rfl
@[simp] theorem byte_setDbg (v : Debug) (i : Nat) : (s.setDbg v).byte i = s.byte i := rfl
@[simp] theorem eccOf_setDbg (v : Debug) (i : Nat) : (s.setDbg v).eccOf i = s.eccOf i := rfl
@[simp] theorem tbase_setDbg (v : Debug) (i : Nat) : (s.setDbg v).tbase i = s.tbase i := rfl
@[simp] theorem tally_setDbg (v : Debug) (i : Nat) : (s.setDbg v).tally i = s.tally i := rfl
@[simp] theorem core_setDbg (v : Debug) (i : Nat) : (s.setDbg v).core i = s.core i := rfl
@[simp] theorem array_setDbg (v : Debug) (i : Nat) : (s.setDbg v).array i = s.array i := rfl
@[simp] theorem rod_setDbg (v : Debug) (i : Nat) : (s.setDbg v).rod i = s.rod i := rfl
@[simp] theorem engine_setDbg (v : Debug) (i : Nat) : (s.setDbg v).engine i = s.engine i := rfl
@[simp] theorem chan_setDbg (v : Debug) (i j : Nat) : (s.setDbg v).chan i j = s.chan i j := rfl
@[simp] theorem job_setDbg (v : Debug) (i : Nat) : (s.setDbg v).job i = s.job i := rfl
@[simp] theorem carrier_setDbg (v : Debug) (i : Nat) : (s.setDbg v).carrier i = s.carrier i := rfl
@[simp] theorem harqKey_setDbg (v : Debug) (i j : Nat) : (s.setDbg v).harqKey i j = s.harqKey i j := rfl
@[simp] theorem link_setDbg (v : Debug) (i : Nat) : (s.setDbg v).link i = s.link i := rfl
@[simp] theorem locked_setDbg (v : Debug) : (s.setDbg v).locked = s.locked := rfl
@[simp] theorem runningSlot_setDbg (v : Debug) : (s.setDbg v).runningSlot = s.runningSlot := rfl
@[simp] theorem swapping_setDbg (v : Debug) (i : Nat) : (s.setDbg v).swapping i = s.swapping i := rfl
@[simp] theorem physOf_setDbg (v : Debug) (i : Nat) : (s.setDbg v).physOf i = s.physOf i := rfl
@[simp] theorem roleOf_setDbg (v : Debug) (i : Nat) : (s.setDbg v).roleOf i = s.roleOf i := rfl

@[simp] theorem reg_onDbg (f : Debug → Debug) (i : Nat) : (s.onDbg f).reg i = s.reg i := rfl
@[simp] theorem shadow_onDbg (f : Debug → Debug) (i : Nat) : (s.onDbg f).shadow i = s.shadow i := rfl
@[simp] theorem acctOf_onDbg (f : Debug → Debug) (i j : Nat) : (s.onDbg f).acctOf i j = s.acctOf i j := rfl
@[simp] theorem byte_onDbg (f : Debug → Debug) (i : Nat) : (s.onDbg f).byte i = s.byte i := rfl
@[simp] theorem eccOf_onDbg (f : Debug → Debug) (i : Nat) : (s.onDbg f).eccOf i = s.eccOf i := rfl
@[simp] theorem tbase_onDbg (f : Debug → Debug) (i : Nat) : (s.onDbg f).tbase i = s.tbase i := rfl
@[simp] theorem tally_onDbg (f : Debug → Debug) (i : Nat) : (s.onDbg f).tally i = s.tally i := rfl
@[simp] theorem core_onDbg (f : Debug → Debug) (i : Nat) : (s.onDbg f).core i = s.core i := rfl
@[simp] theorem array_onDbg (f : Debug → Debug) (i : Nat) : (s.onDbg f).array i = s.array i := rfl
@[simp] theorem rod_onDbg (f : Debug → Debug) (i : Nat) : (s.onDbg f).rod i = s.rod i := rfl
@[simp] theorem engine_onDbg (f : Debug → Debug) (i : Nat) : (s.onDbg f).engine i = s.engine i := rfl
@[simp] theorem chan_onDbg (f : Debug → Debug) (i j : Nat) : (s.onDbg f).chan i j = s.chan i j := rfl
@[simp] theorem job_onDbg (f : Debug → Debug) (i : Nat) : (s.onDbg f).job i = s.job i := rfl
@[simp] theorem carrier_onDbg (f : Debug → Debug) (i : Nat) : (s.onDbg f).carrier i = s.carrier i := rfl
@[simp] theorem harqKey_onDbg (f : Debug → Debug) (i j : Nat) : (s.onDbg f).harqKey i j = s.harqKey i j := rfl
@[simp] theorem link_onDbg (f : Debug → Debug) (i : Nat) : (s.onDbg f).link i = s.link i := rfl
@[simp] theorem locked_onDbg (f : Debug → Debug) : (s.onDbg f).locked = s.locked := rfl
@[simp] theorem runningSlot_onDbg (f : Debug → Debug) : (s.onDbg f).runningSlot = s.runningSlot := rfl
@[simp] theorem swapping_onDbg (f : Debug → Debug) (i : Nat) : (s.onDbg f).swapping i = s.swapping i := rfl
@[simp] theorem physOf_onDbg (f : Debug → Debug) (i : Nat) : (s.onDbg f).physOf i = s.physOf i := rfl
@[simp] theorem roleOf_onDbg (f : Debug → Debug) (i : Nat) : (s.onDbg f).roleOf i = s.roleOf i := rfl

@[simp] theorem reg_setSub (v : Submission) (i : Nat) : (s.setSub v).reg i = s.reg i := rfl
@[simp] theorem shadow_setSub (v : Submission) (i : Nat) : (s.setSub v).shadow i = s.shadow i := rfl
@[simp] theorem acctOf_setSub (v : Submission) (i j : Nat) : (s.setSub v).acctOf i j = s.acctOf i j := rfl
@[simp] theorem byte_setSub (v : Submission) (i : Nat) : (s.setSub v).byte i = s.byte i := rfl
@[simp] theorem eccOf_setSub (v : Submission) (i : Nat) : (s.setSub v).eccOf i = s.eccOf i := rfl
@[simp] theorem tbase_setSub (v : Submission) (i : Nat) : (s.setSub v).tbase i = s.tbase i := rfl
@[simp] theorem tally_setSub (v : Submission) (i : Nat) : (s.setSub v).tally i = s.tally i := rfl
@[simp] theorem core_setSub (v : Submission) (i : Nat) : (s.setSub v).core i = s.core i := rfl
@[simp] theorem array_setSub (v : Submission) (i : Nat) : (s.setSub v).array i = s.array i := rfl
@[simp] theorem rod_setSub (v : Submission) (i : Nat) : (s.setSub v).rod i = s.rod i := rfl
@[simp] theorem engine_setSub (v : Submission) (i : Nat) : (s.setSub v).engine i = s.engine i := rfl
@[simp] theorem chan_setSub (v : Submission) (i j : Nat) : (s.setSub v).chan i j = s.chan i j := rfl
@[simp] theorem job_setSub (v : Submission) (i : Nat) : (s.setSub v).job i = s.job i := rfl
@[simp] theorem carrier_setSub (v : Submission) (i : Nat) : (s.setSub v).carrier i = s.carrier i := rfl
@[simp] theorem harqKey_setSub (v : Submission) (i j : Nat) : (s.setSub v).harqKey i j = s.harqKey i j := rfl
@[simp] theorem link_setSub (v : Submission) (i : Nat) : (s.setSub v).link i = s.link i := rfl
@[simp] theorem locked_setSub (v : Submission) : (s.setSub v).locked = s.locked := rfl
@[simp] theorem live_setSub (v : Submission) : (s.setSub v).live = s.live := rfl
@[simp] theorem runningSlot_setSub (v : Submission) : (s.setSub v).runningSlot = s.runningSlot := rfl
@[simp] theorem swapping_setSub (v : Submission) (i : Nat) : (s.setSub v).swapping i = s.swapping i := rfl
@[simp] theorem physOf_setSub (v : Submission) (i : Nat) : (s.setSub v).physOf i = s.physOf i := rfl
@[simp] theorem roleOf_setSub (v : Submission) (i : Nat) : (s.setSub v).roleOf i = s.roleOf i := rfl

@[simp] theorem reg_onSub (f : Submission → Submission) (i : Nat) : (s.onSub f).reg i = s.reg i := rfl
@[simp] theorem shadow_onSub (f : Submission → Submission) (i : Nat) : (s.onSub f).shadow i = s.shadow i := rfl
@[simp] theorem acctOf_onSub (f : Submission → Submission) (i j : Nat) : (s.onSub f).acctOf i j = s.acctOf i j := rfl
@[simp] theorem byte_onSub (f : Submission → Submission) (i : Nat) : (s.onSub f).byte i = s.byte i := rfl
@[simp] theorem eccOf_onSub (f : Submission → Submission) (i : Nat) : (s.onSub f).eccOf i = s.eccOf i := rfl
@[simp] theorem tbase_onSub (f : Submission → Submission) (i : Nat) : (s.onSub f).tbase i = s.tbase i := rfl
@[simp] theorem tally_onSub (f : Submission → Submission) (i : Nat) : (s.onSub f).tally i = s.tally i := rfl
@[simp] theorem core_onSub (f : Submission → Submission) (i : Nat) : (s.onSub f).core i = s.core i := rfl
@[simp] theorem array_onSub (f : Submission → Submission) (i : Nat) : (s.onSub f).array i = s.array i := rfl
@[simp] theorem rod_onSub (f : Submission → Submission) (i : Nat) : (s.onSub f).rod i = s.rod i := rfl
@[simp] theorem engine_onSub (f : Submission → Submission) (i : Nat) : (s.onSub f).engine i = s.engine i := rfl
@[simp] theorem chan_onSub (f : Submission → Submission) (i j : Nat) : (s.onSub f).chan i j = s.chan i j := rfl
@[simp] theorem job_onSub (f : Submission → Submission) (i : Nat) : (s.onSub f).job i = s.job i := rfl
@[simp] theorem carrier_onSub (f : Submission → Submission) (i : Nat) : (s.onSub f).carrier i = s.carrier i := rfl
@[simp] theorem harqKey_onSub (f : Submission → Submission) (i j : Nat) : (s.onSub f).harqKey i j = s.harqKey i j := rfl
@[simp] theorem link_onSub (f : Submission → Submission) (i : Nat) : (s.onSub f).link i = s.link i := rfl
@[simp] theorem locked_onSub (f : Submission → Submission) : (s.onSub f).locked = s.locked := rfl
@[simp] theorem live_onSub (f : Submission → Submission) : (s.onSub f).live = s.live := rfl
@[simp] theorem runningSlot_onSub (f : Submission → Submission) : (s.onSub f).runningSlot = s.runningSlot := rfl
@[simp] theorem swapping_onSub (f : Submission → Submission) (i : Nat) : (s.onSub f).swapping i = s.swapping i := rfl
@[simp] theorem physOf_onSub (f : Submission → Submission) (i : Nat) : (s.onSub f).physOf i = s.physOf i := rfl
@[simp] theorem roleOf_onSub (f : Submission → Submission) (i : Nat) : (s.onSub f).roleOf i = s.roleOf i := rfl

@[simp] theorem reg_setCpl (v : Completion) (i : Nat) : (s.setCpl v).reg i = s.reg i := rfl
@[simp] theorem shadow_setCpl (v : Completion) (i : Nat) : (s.setCpl v).shadow i = s.shadow i := rfl
@[simp] theorem acctOf_setCpl (v : Completion) (i j : Nat) : (s.setCpl v).acctOf i j = s.acctOf i j := rfl
@[simp] theorem byte_setCpl (v : Completion) (i : Nat) : (s.setCpl v).byte i = s.byte i := rfl
@[simp] theorem eccOf_setCpl (v : Completion) (i : Nat) : (s.setCpl v).eccOf i = s.eccOf i := rfl
@[simp] theorem tbase_setCpl (v : Completion) (i : Nat) : (s.setCpl v).tbase i = s.tbase i := rfl
@[simp] theorem tally_setCpl (v : Completion) (i : Nat) : (s.setCpl v).tally i = s.tally i := rfl
@[simp] theorem core_setCpl (v : Completion) (i : Nat) : (s.setCpl v).core i = s.core i := rfl
@[simp] theorem array_setCpl (v : Completion) (i : Nat) : (s.setCpl v).array i = s.array i := rfl
@[simp] theorem rod_setCpl (v : Completion) (i : Nat) : (s.setCpl v).rod i = s.rod i := rfl
@[simp] theorem engine_setCpl (v : Completion) (i : Nat) : (s.setCpl v).engine i = s.engine i := rfl
@[simp] theorem chan_setCpl (v : Completion) (i j : Nat) : (s.setCpl v).chan i j = s.chan i j := rfl
@[simp] theorem job_setCpl (v : Completion) (i : Nat) : (s.setCpl v).job i = s.job i := rfl
@[simp] theorem carrier_setCpl (v : Completion) (i : Nat) : (s.setCpl v).carrier i = s.carrier i := rfl
@[simp] theorem harqKey_setCpl (v : Completion) (i j : Nat) : (s.setCpl v).harqKey i j = s.harqKey i j := rfl
@[simp] theorem link_setCpl (v : Completion) (i : Nat) : (s.setCpl v).link i = s.link i := rfl
@[simp] theorem locked_setCpl (v : Completion) : (s.setCpl v).locked = s.locked := rfl
@[simp] theorem live_setCpl (v : Completion) : (s.setCpl v).live = s.live := rfl
@[simp] theorem runningSlot_setCpl (v : Completion) : (s.setCpl v).runningSlot = s.runningSlot := rfl
@[simp] theorem swapping_setCpl (v : Completion) (i : Nat) : (s.setCpl v).swapping i = s.swapping i := rfl
@[simp] theorem physOf_setCpl (v : Completion) (i : Nat) : (s.setCpl v).physOf i = s.physOf i := rfl
@[simp] theorem roleOf_setCpl (v : Completion) (i : Nat) : (s.setCpl v).roleOf i = s.roleOf i := rfl

@[simp] theorem reg_onCpl (f : Completion → Completion) (i : Nat) : (s.onCpl f).reg i = s.reg i := rfl
@[simp] theorem shadow_onCpl (f : Completion → Completion) (i : Nat) : (s.onCpl f).shadow i = s.shadow i := rfl
@[simp] theorem acctOf_onCpl (f : Completion → Completion) (i j : Nat) : (s.onCpl f).acctOf i j = s.acctOf i j := rfl
@[simp] theorem byte_onCpl (f : Completion → Completion) (i : Nat) : (s.onCpl f).byte i = s.byte i := rfl
@[simp] theorem eccOf_onCpl (f : Completion → Completion) (i : Nat) : (s.onCpl f).eccOf i = s.eccOf i := rfl
@[simp] theorem tbase_onCpl (f : Completion → Completion) (i : Nat) : (s.onCpl f).tbase i = s.tbase i := rfl
@[simp] theorem tally_onCpl (f : Completion → Completion) (i : Nat) : (s.onCpl f).tally i = s.tally i := rfl
@[simp] theorem core_onCpl (f : Completion → Completion) (i : Nat) : (s.onCpl f).core i = s.core i := rfl
@[simp] theorem array_onCpl (f : Completion → Completion) (i : Nat) : (s.onCpl f).array i = s.array i := rfl
@[simp] theorem rod_onCpl (f : Completion → Completion) (i : Nat) : (s.onCpl f).rod i = s.rod i := rfl
@[simp] theorem engine_onCpl (f : Completion → Completion) (i : Nat) : (s.onCpl f).engine i = s.engine i := rfl
@[simp] theorem chan_onCpl (f : Completion → Completion) (i j : Nat) : (s.onCpl f).chan i j = s.chan i j := rfl
@[simp] theorem job_onCpl (f : Completion → Completion) (i : Nat) : (s.onCpl f).job i = s.job i := rfl
@[simp] theorem carrier_onCpl (f : Completion → Completion) (i : Nat) : (s.onCpl f).carrier i = s.carrier i := rfl
@[simp] theorem harqKey_onCpl (f : Completion → Completion) (i j : Nat) : (s.onCpl f).harqKey i j = s.harqKey i j := rfl
@[simp] theorem link_onCpl (f : Completion → Completion) (i : Nat) : (s.onCpl f).link i = s.link i := rfl
@[simp] theorem locked_onCpl (f : Completion → Completion) : (s.onCpl f).locked = s.locked := rfl
@[simp] theorem live_onCpl (f : Completion → Completion) : (s.onCpl f).live = s.live := rfl
@[simp] theorem runningSlot_onCpl (f : Completion → Completion) : (s.onCpl f).runningSlot = s.runningSlot := rfl
@[simp] theorem swapping_onCpl (f : Completion → Completion) (i : Nat) : (s.onCpl f).swapping i = s.swapping i := rfl
@[simp] theorem physOf_onCpl (f : Completion → Completion) (i : Nat) : (s.onCpl f).physOf i = s.physOf i := rfl
@[simp] theorem roleOf_onCpl (f : Completion → Completion) (i : Nat) : (s.onCpl f).roleOf i = s.roleOf i := rfl

@[simp] theorem reg_setHost (v : HostPort) (i : Nat) : (s.setHost v).reg i = s.reg i := rfl
@[simp] theorem shadow_setHost (v : HostPort) (i : Nat) : (s.setHost v).shadow i = s.shadow i := rfl
@[simp] theorem acctOf_setHost (v : HostPort) (i j : Nat) : (s.setHost v).acctOf i j = s.acctOf i j := rfl
@[simp] theorem byte_setHost (v : HostPort) (i : Nat) : (s.setHost v).byte i = s.byte i := rfl
@[simp] theorem eccOf_setHost (v : HostPort) (i : Nat) : (s.setHost v).eccOf i = s.eccOf i := rfl
@[simp] theorem tbase_setHost (v : HostPort) (i : Nat) : (s.setHost v).tbase i = s.tbase i := rfl
@[simp] theorem tally_setHost (v : HostPort) (i : Nat) : (s.setHost v).tally i = s.tally i := rfl
@[simp] theorem core_setHost (v : HostPort) (i : Nat) : (s.setHost v).core i = s.core i := rfl
@[simp] theorem array_setHost (v : HostPort) (i : Nat) : (s.setHost v).array i = s.array i := rfl
@[simp] theorem rod_setHost (v : HostPort) (i : Nat) : (s.setHost v).rod i = s.rod i := rfl
@[simp] theorem engine_setHost (v : HostPort) (i : Nat) : (s.setHost v).engine i = s.engine i := rfl
@[simp] theorem chan_setHost (v : HostPort) (i j : Nat) : (s.setHost v).chan i j = s.chan i j := rfl
@[simp] theorem job_setHost (v : HostPort) (i : Nat) : (s.setHost v).job i = s.job i := rfl
@[simp] theorem carrier_setHost (v : HostPort) (i : Nat) : (s.setHost v).carrier i = s.carrier i := rfl
@[simp] theorem harqKey_setHost (v : HostPort) (i j : Nat) : (s.setHost v).harqKey i j = s.harqKey i j := rfl
@[simp] theorem link_setHost (v : HostPort) (i : Nat) : (s.setHost v).link i = s.link i := rfl
@[simp] theorem locked_setHost (v : HostPort) : (s.setHost v).locked = s.locked := rfl
@[simp] theorem live_setHost (v : HostPort) : (s.setHost v).live = s.live := rfl
@[simp] theorem runningSlot_setHost (v : HostPort) : (s.setHost v).runningSlot = s.runningSlot := rfl
@[simp] theorem swapping_setHost (v : HostPort) (i : Nat) : (s.setHost v).swapping i = s.swapping i := rfl
@[simp] theorem physOf_setHost (v : HostPort) (i : Nat) : (s.setHost v).physOf i = s.physOf i := rfl
@[simp] theorem roleOf_setHost (v : HostPort) (i : Nat) : (s.setHost v).roleOf i = s.roleOf i := rfl

@[simp] theorem reg_onHost (f : HostPort → HostPort) (i : Nat) : (s.onHost f).reg i = s.reg i := rfl
@[simp] theorem shadow_onHost (f : HostPort → HostPort) (i : Nat) : (s.onHost f).shadow i = s.shadow i := rfl
@[simp] theorem acctOf_onHost (f : HostPort → HostPort) (i j : Nat) : (s.onHost f).acctOf i j = s.acctOf i j := rfl
@[simp] theorem byte_onHost (f : HostPort → HostPort) (i : Nat) : (s.onHost f).byte i = s.byte i := rfl
@[simp] theorem eccOf_onHost (f : HostPort → HostPort) (i : Nat) : (s.onHost f).eccOf i = s.eccOf i := rfl
@[simp] theorem tbase_onHost (f : HostPort → HostPort) (i : Nat) : (s.onHost f).tbase i = s.tbase i := rfl
@[simp] theorem tally_onHost (f : HostPort → HostPort) (i : Nat) : (s.onHost f).tally i = s.tally i := rfl
@[simp] theorem core_onHost (f : HostPort → HostPort) (i : Nat) : (s.onHost f).core i = s.core i := rfl
@[simp] theorem array_onHost (f : HostPort → HostPort) (i : Nat) : (s.onHost f).array i = s.array i := rfl
@[simp] theorem rod_onHost (f : HostPort → HostPort) (i : Nat) : (s.onHost f).rod i = s.rod i := rfl
@[simp] theorem engine_onHost (f : HostPort → HostPort) (i : Nat) : (s.onHost f).engine i = s.engine i := rfl
@[simp] theorem chan_onHost (f : HostPort → HostPort) (i j : Nat) : (s.onHost f).chan i j = s.chan i j := rfl
@[simp] theorem job_onHost (f : HostPort → HostPort) (i : Nat) : (s.onHost f).job i = s.job i := rfl
@[simp] theorem carrier_onHost (f : HostPort → HostPort) (i : Nat) : (s.onHost f).carrier i = s.carrier i := rfl
@[simp] theorem harqKey_onHost (f : HostPort → HostPort) (i j : Nat) : (s.onHost f).harqKey i j = s.harqKey i j := rfl
@[simp] theorem link_onHost (f : HostPort → HostPort) (i : Nat) : (s.onHost f).link i = s.link i := rfl
@[simp] theorem locked_onHost (f : HostPort → HostPort) : (s.onHost f).locked = s.locked := rfl
@[simp] theorem live_onHost (f : HostPort → HostPort) : (s.onHost f).live = s.live := rfl
@[simp] theorem runningSlot_onHost (f : HostPort → HostPort) : (s.onHost f).runningSlot = s.runningSlot := rfl
@[simp] theorem swapping_onHost (f : HostPort → HostPort) (i : Nat) : (s.onHost f).swapping i = s.swapping i := rfl
@[simp] theorem physOf_onHost (f : HostPort → HostPort) (i : Nat) : (s.onHost f).physOf i = s.physOf i := rfl
@[simp] theorem roleOf_onHost (f : HostPort → HostPort) (i : Nat) : (s.onHost f).roleOf i = s.roleOf i := rfl

@[simp] theorem reg_hold (x : HeldAccess) (i : Nat) : (s.hold x).reg i = s.reg i := rfl
@[simp] theorem shadow_hold (x : HeldAccess) (i : Nat) : (s.hold x).shadow i = s.shadow i := rfl
@[simp] theorem acctOf_hold (x : HeldAccess) (i j : Nat) : (s.hold x).acctOf i j = s.acctOf i j := rfl
@[simp] theorem byte_hold (x : HeldAccess) (i : Nat) : (s.hold x).byte i = s.byte i := rfl
@[simp] theorem eccOf_hold (x : HeldAccess) (i : Nat) : (s.hold x).eccOf i = s.eccOf i := rfl
@[simp] theorem tbase_hold (x : HeldAccess) (i : Nat) : (s.hold x).tbase i = s.tbase i := rfl
@[simp] theorem tally_hold (x : HeldAccess) (i : Nat) : (s.hold x).tally i = s.tally i := rfl
@[simp] theorem core_hold (x : HeldAccess) (i : Nat) : (s.hold x).core i = s.core i := rfl
@[simp] theorem array_hold (x : HeldAccess) (i : Nat) : (s.hold x).array i = s.array i := rfl
@[simp] theorem rod_hold (x : HeldAccess) (i : Nat) : (s.hold x).rod i = s.rod i := rfl
@[simp] theorem engine_hold (x : HeldAccess) (i : Nat) : (s.hold x).engine i = s.engine i := rfl
@[simp] theorem chan_hold (x : HeldAccess) (i j : Nat) : (s.hold x).chan i j = s.chan i j := rfl
@[simp] theorem job_hold (x : HeldAccess) (i : Nat) : (s.hold x).job i = s.job i := rfl
@[simp] theorem carrier_hold (x : HeldAccess) (i : Nat) : (s.hold x).carrier i = s.carrier i := rfl
@[simp] theorem harqKey_hold (x : HeldAccess) (i j : Nat) : (s.hold x).harqKey i j = s.harqKey i j := rfl
@[simp] theorem link_hold (x : HeldAccess) (i : Nat) : (s.hold x).link i = s.link i := rfl
@[simp] theorem locked_hold (x : HeldAccess) : (s.hold x).locked = s.locked := rfl
@[simp] theorem live_hold (x : HeldAccess) : (s.hold x).live = s.live := rfl
@[simp] theorem runningSlot_hold (x : HeldAccess) : (s.hold x).runningSlot = s.runningSlot := rfl
@[simp] theorem swapping_hold (x : HeldAccess) (i : Nat) : (s.hold x).swapping i = s.swapping i := rfl
@[simp] theorem physOf_hold (x : HeldAccess) (i : Nat) : (s.hold x).physOf i = s.physOf i := rfl
@[simp] theorem roleOf_hold (x : HeldAccess) (i : Nat) : (s.hold x).roleOf i = s.roleOf i := rfl

@[simp] theorem reg_answer (st : PcieStatus) (data : List Byte) (i : Nat) : (s.answer st data).reg i = s.reg i := rfl
@[simp] theorem shadow_answer (st : PcieStatus) (data : List Byte) (i : Nat) : (s.answer st data).shadow i = s.shadow i := rfl
@[simp] theorem acctOf_answer (st : PcieStatus) (data : List Byte) (i j : Nat) : (s.answer st data).acctOf i j = s.acctOf i j := rfl
@[simp] theorem byte_answer (st : PcieStatus) (data : List Byte) (i : Nat) : (s.answer st data).byte i = s.byte i := rfl
@[simp] theorem eccOf_answer (st : PcieStatus) (data : List Byte) (i : Nat) : (s.answer st data).eccOf i = s.eccOf i := rfl
@[simp] theorem tbase_answer (st : PcieStatus) (data : List Byte) (i : Nat) : (s.answer st data).tbase i = s.tbase i := rfl
@[simp] theorem tally_answer (st : PcieStatus) (data : List Byte) (i : Nat) : (s.answer st data).tally i = s.tally i := rfl
@[simp] theorem core_answer (st : PcieStatus) (data : List Byte) (i : Nat) : (s.answer st data).core i = s.core i := rfl
@[simp] theorem array_answer (st : PcieStatus) (data : List Byte) (i : Nat) : (s.answer st data).array i = s.array i := rfl
@[simp] theorem rod_answer (st : PcieStatus) (data : List Byte) (i : Nat) : (s.answer st data).rod i = s.rod i := rfl
@[simp] theorem engine_answer (st : PcieStatus) (data : List Byte) (i : Nat) : (s.answer st data).engine i = s.engine i := rfl
@[simp] theorem chan_answer (st : PcieStatus) (data : List Byte) (i j : Nat) : (s.answer st data).chan i j = s.chan i j := rfl
@[simp] theorem job_answer (st : PcieStatus) (data : List Byte) (i : Nat) : (s.answer st data).job i = s.job i := rfl
@[simp] theorem carrier_answer (st : PcieStatus) (data : List Byte) (i : Nat) : (s.answer st data).carrier i = s.carrier i := rfl
@[simp] theorem harqKey_answer (st : PcieStatus) (data : List Byte) (i j : Nat) : (s.answer st data).harqKey i j = s.harqKey i j := rfl
@[simp] theorem link_answer (st : PcieStatus) (data : List Byte) (i : Nat) : (s.answer st data).link i = s.link i := rfl
@[simp] theorem locked_answer (st : PcieStatus) (data : List Byte) : (s.answer st data).locked = s.locked := rfl
@[simp] theorem live_answer (st : PcieStatus) (data : List Byte) : (s.answer st data).live = s.live := rfl
@[simp] theorem runningSlot_answer (st : PcieStatus) (data : List Byte) : (s.answer st data).runningSlot = s.runningSlot := rfl
@[simp] theorem swapping_answer (st : PcieStatus) (data : List Byte) (i : Nat) : (s.answer st data).swapping i = s.swapping i := rfl
@[simp] theorem physOf_answer (st : PcieStatus) (data : List Byte) (i : Nat) : (s.answer st data).physOf i = s.physOf i := rfl
@[simp] theorem roleOf_answer (st : PcieStatus) (data : List Byte) (i : Nat) : (s.answer st data).roleOf i = s.roleOf i := rfl

/-! ### A write read back -/

@[simp] theorem reg_setReg (o : Nat) (w : Word) : (s.setReg o w).reg o = w := tget_tset_same _ _ _ _
theorem reg_setReg_ne (o : Nat) (w : Word) (i : Nat) (h : i ≠ o) : (s.setReg o w).reg i = s.reg i := tget_tset_ne _ _ h _

@[simp] theorem shadow_setShadow (o : Nat) (w : Option Word) : (s.setShadow o w).shadow o = w := tget_tset_same _ _ _ _
theorem shadow_setShadow_ne (o : Nat) (w : Option Word) (i : Nat) (h : i ≠ o) : (s.setShadow o w).shadow i = s.shadow i := tget_tset_ne _ _ h _

@[simp] theorem byte_setByte (o : Nat) (w : Byte) : (s.setByte o w).byte o = w := tget_tset_same _ _ _ _
theorem byte_setByte_ne (o : Nat) (w : Byte) (i : Nat) (h : i ≠ o) : (s.setByte o w).byte i = s.byte i := tget_tset_ne _ _ h _

@[simp] theorem eccOf_setEcc (o : Nat) (w : Nat) : (s.setEcc o w).eccOf o = w := tget_tset_same _ _ _ _
theorem eccOf_setEcc_ne (o : Nat) (w : Nat) (i : Nat) (h : i ≠ o) : (s.setEcc o w).eccOf i = s.eccOf i := tget_tset_ne _ _ h _

@[simp] theorem tbase_setTbase (o : Nat) (w : TimeBase) : (s.setTbase o w).tbase o = w := tget_tset_same _ _ _ _
theorem tbase_setTbase_ne (o : Nat) (w : TimeBase) (i : Nat) (h : i ≠ o) : (s.setTbase o w).tbase i = s.tbase i := tget_tset_ne _ _ h _

@[simp] theorem tally_setTally (o : Nat) (w : Tally) : (s.setTally o w).tally o = w := tget_tset_same _ _ _ _
theorem tally_setTally_ne (o : Nat) (w : Tally) (i : Nat) (h : i ≠ o) : (s.setTally o w).tally i = s.tally i := tget_tset_ne _ _ h _

@[simp] theorem core_setCore (o : Nat) (w : DigitCore) : (s.setCore o w).core o = w := tget_tset_same _ _ _ _
theorem core_setCore_ne (o : Nat) (w : DigitCore) (i : Nat) (h : i ≠ o) : (s.setCore o w).core i = s.core i := tget_tset_ne _ _ h _

@[simp] theorem array_setArray (o : Nat) (w : BeadArray) : (s.setArray o w).array o = w := tget_tset_same _ _ _ _
theorem array_setArray_ne (o : Nat) (w : BeadArray) (i : Nat) (h : i ≠ o) : (s.setArray o w).array i = s.array i := tget_tset_ne _ _ h _

@[simp] theorem rod_setRod (o : Nat) (w : RodEngine) : (s.setRod o w).rod o = w := tget_tset_same _ _ _ _
theorem rod_setRod_ne (o : Nat) (w : RodEngine) (i : Nat) (h : i ≠ o) : (s.setRod o w).rod i = s.rod i := tget_tset_ne _ _ h _

@[simp] theorem engine_setEngine (o : Nat) (w : SlideEngine) : (s.setEngine o w).engine o = w := tget_tset_same _ _ _ _
theorem engine_setEngine_ne (o : Nat) (w : SlideEngine) (i : Nat) (h : i ≠ o) : (s.setEngine o w).engine i = s.engine i := tget_tset_ne _ _ h _

@[simp] theorem job_setJob (o : Nat) (w : JobSlot) : (s.setJob o w).job o = w := tget_tset_same _ _ _ _
theorem job_setJob_ne (o : Nat) (w : JobSlot) (i : Nat) (h : i ≠ o) : (s.setJob o w).job i = s.job i := tget_tset_ne _ _ h _

@[simp] theorem carrier_setCarrier (o : Nat) (w : CarrierState) : (s.setCarrier o w).carrier o = w := tget_tset_same _ _ _ _
theorem carrier_setCarrier_ne (o : Nat) (w : CarrierState) (i : Nat) (h : i ≠ o) : (s.setCarrier o w).carrier i = s.carrier i := tget_tset_ne _ _ h _

@[simp] theorem link_setLink (o : Nat) (w : LinkState) : (s.setLink o w).link o = w := tget_tset_same _ _ _ _
theorem link_setLink_ne (o : Nat) (w : LinkState) (i : Nat) (h : i ≠ o) : (s.setLink o w).link i = s.link i := tget_tset_ne _ _ h _

@[simp] theorem setInteg_integ (v : Integrity) : (s.setInteg v).integ = v := rfl
@[simp] theorem onInteg_integ (f : Integrity → Integrity) : (s.onInteg f).integ = f s.integ := rfl
@[simp] theorem setBridge_bridge (v : Bridge) : (s.setBridge v).bridge = v := rfl
@[simp] theorem onBridge_bridge (f : Bridge → Bridge) : (s.onBridge f).bridge = f s.bridge := rfl
@[simp] theorem setPower_power (v : Power) : (s.setPower v).power = v := rfl
@[simp] theorem onPower_power (f : Power → Power) : (s.onPower f).power = f s.power := rfl
@[simp] theorem setSec_sec (v : Security) : (s.setSec v).sec = v := rfl
@[simp] theorem onSec_sec (f : Security → Security) : (s.onSec f).sec = f s.sec := rfl
@[simp] theorem setDbg_dbg (v : Debug) : (s.setDbg v).dbg = v := rfl
@[simp] theorem onDbg_dbg (f : Debug → Debug) : (s.onDbg f).dbg = f s.dbg := rfl
@[simp] theorem setSub_sub (v : Submission) : (s.setSub v).sub = v := rfl
@[simp] theorem onSub_sub (f : Submission → Submission) : (s.onSub f).sub = f s.sub := rfl
@[simp] theorem setCpl_cpl (v : Completion) : (s.setCpl v).cpl = v := rfl
@[simp] theorem onCpl_cpl (f : Completion → Completion) : (s.onCpl f).cpl = f s.cpl := rfl
@[simp] theorem setHost_host (v : HostPort) : (s.setHost v).host = v := rfl
@[simp] theorem onHost_host (f : HostPort → HostPort) : (s.onHost f).host = f s.host := rfl

theorem chan_setChan (e ch : Nat) (w : SlideChannel) : (s.setChan e ch w).chan e ch = w := tget_tset_same _ _ _ _

theorem chan_setChan_ne (e ch e' ch' : Nat) (w : SlideChannel) (h : 32 * e' + ch' ≠ 32 * e + ch) :
    (s.setChan e ch w).chan e' ch' = s.chan e' ch' := tget_tset_ne _ _ h _

theorem reg_setReg_if (o i : Nat) (w : Word) : (s.setReg o w).reg i = if i = o then w else s.reg i := by
  by_cases h : i = o
  · simp [h]
  · simp [h, reg_setReg_ne]

theorem byte_setByte_if (a i : Nat) (b : Byte) : (s.setByte a b).byte i = if i = a then b else s.byte i := by
  by_cases h : i = a
  · simp [h]
  · simp [h, byte_setByte_ne]

end Sys2Proof.Machine.State
end

