-- ==== Sys2Proof/Laws/Log.lean ====
section
/-! SUPPORT. Log.lean: all that reporting an error can do. -/

namespace Sys2Proof.Machine

theorem OnlyLog.refl (s : State) : OnlyLog s s := rfl

theorem OnlyLog.trans {s t u : State} (h : OnlyLog s t) (k : OnlyLog t u) : OnlyLog s u := by
  unfold OnlyLog at *
  rw [k, h]

/-- Two states that agree outside the four fields. -/
theorem OnlyLog.intro {s t : State} (r : Tab Word) (m : List Sent) (g : Integrity) (d : Debug)
    (h : t = { s with regs := r, sent := m, integ := g, dbg := d }) : OnlyLog s t := by
  subst h; rfl

theorem OnlyLog.setReg (s : State) (o : Nat) (w : Word) : OnlyLog s (s.setReg o w) := rfl
theorem OnlyLog.send (s : State) (m : Sent) : OnlyLog s (s.send m) := by
  unfold State.send; split <;> rfl
theorem OnlyLog.onInteg (s : State) (f : Integrity → Integrity) : OnlyLog s (s.onInteg f) := rfl
theorem OnlyLog.onDbg (s : State) (f : Debug → Debug) : OnlyLog s (s.onDbg f) := rfl

theorem OnlyLog.setRegs (l : List Word) : ∀ (s : State) (o : Nat), OnlyLog s (s.setRegs o l) := by
  induction l with
  | nil => exact fun s _ => OnlyLog.refl s
  | cons w r ih => exact fun s o => (OnlyLog.setReg s o w).trans (ih _ _)

theorem OnlyLog.signalVector (s : State) (v : Nat) : OnlyLog s (signalVector s v) := by
  unfold Machine.signalVector
  split
  · exact OnlyLog.setReg _ _ _
  · exact OnlyLog.send _ _

theorem OnlyLog.enterLog (s : State) (r : LogRecord) : OnlyLog s (enterLog s r) := by
  unfold Machine.enterLog
  dsimp only
  split
  · exact ((OnlyLog.setRegs _ _ _).trans (OnlyLog.setReg _ _ _)).trans (OnlyLog.signalVector _ _)
  · exact (OnlyLog.setRegs _ _ _).trans (OnlyLog.setReg _ _ _)

theorem OnlyLog.logError (s : State) (r : LogRecord) : OnlyLog s (logError s r) := by
  unfold Machine.logError
  split
  · exact OnlyLog.enterLog _ _
  · extract_lets s1 s2 s3 o
    have h1 : OnlyLog s s1 := OnlyLog.setReg _ _ _
    have h3 : OnlyLog s1 s3 := (OnlyLog.setReg _ _ _).trans (OnlyLog.setReg _ _ _)
    split
    · exact h1
    · split
      · exact (h1.trans h3).trans (OnlyLog.onInteg _ _)
      · exact h1.trans h3

theorem OnlyLog.countLevel (s : State) (k : Nat) : OnlyLog s (countLevel s k) := by
  unfold Machine.countLevel; split <;> rfl

theorem OnlyLog.startHandling (s : State) : OnlyLog s (startHandling s) := by
  unfold Machine.startHandling
  split
  · dsimp only
    split
    · exact ((OnlyLog.onInteg _ _).trans (OnlyLog.countLevel _ _)).trans (OnlyLog.onInteg _ _)
    · exact (OnlyLog.onInteg _ _).trans (OnlyLog.countLevel _ _)
  · exact OnlyLog.refl _

theorem OnlyLog.queueHandling (s : State) (r : LogRecord) : OnlyLog s (queueHandling s r) := by
  unfold Machine.queueHandling
  split
  · exact OnlyLog.refl _
  · split
    · split
      · dsimp only
        split
        · exact ((OnlyLog.onInteg _ _).trans (OnlyLog.countLevel _ _)).trans (OnlyLog.onInteg _ _)
        · exact (OnlyLog.onInteg _ _).trans (OnlyLog.countLevel _ _)
      · exact OnlyLog.onInteg _ _
    · exact (OnlyLog.onInteg _ _).trans (OnlyLog.startHandling _)

theorem OnlyLog.liftHead (s : State) : OnlyLog s (liftHead s) := by
  unfold Machine.liftHead
  split
  · exact (OnlyLog.onInteg _ _).trans (OnlyLog.countLevel _ _)
  · exact OnlyLog.refl _

theorem OnlyLog.escalateHead (s : State) : OnlyLog s (escalateHead s) := by
  unfold Machine.escalateHead
  extract_lets s1
  have h : OnlyLog s s1 := OnlyLog.liftHead s
  split
  · split
    · exact h.trans (OnlyLog.logError _ _)
    · exact h
  · exact h

theorem OnlyLog.admitError (s : State) (r : LogRecord) : OnlyLog s (admitError s r) := by
  unfold Machine.admitError
  extract_lets s1 want k again lvl r1 s2
  have h1 : OnlyLog s s1 := OnlyLog.setReg _ _ _
  have h2 : OnlyLog s1 s2 := OnlyLog.logError _ _
  split
  · exact (h1.trans h2).trans (OnlyLog.liftHead _)
  · exact (h1.trans h2).trans (OnlyLog.queueHandling _ _)

theorem OnlyLog.freezeNow (s : State) : OnlyLog s (freezeNow s) := by
  unfold Machine.freezeNow; split <;> rfl

/-- An error report changes nothing but registers, what leaves the device, the integrity system and the debug unit. -/
theorem raise_onlyLog (s : State) (code unit inst d0 d1 : Nat) : OnlyLog s (raise s code unit inst d0 d1) := by
  unfold raise
  extract_lets r fire s1 s2
  split
  · have h1 : OnlyLog s s1 := (OnlyLog.setReg _ _ _).trans (OnlyLog.setReg _ _ _)
    have h2 : OnlyLog s1 s2 := (OnlyLog.setReg _ _ _).trans (OnlyLog.freezeNow _)
    exact (h1.trans h2).trans (OnlyLog.onInteg _ _)
  · split
    · exact OnlyLog.onInteg _ _
    · split
      · exact OnlyLog.onInteg _ _
      · exact OnlyLog.admitError _ _

/-- What happens in one beat, but for the entering of its errors, changes what `f` changes. -/
theorem inOneBeat_onlyLog (f : State → State) (s : State) :
    OnlyLog (f (s.onInteg fun g => { g with batch := some [] })) (inOneBeat f s) := by
  have h : ∀ (l : List LogRecord) (v : State), OnlyLog v (l.foldl admitError v) := by
    intro l
    induction l with
    | nil => exact OnlyLog.refl
    | cons r l ih => exact fun v => (OnlyLog.admitError v r).trans (ih _)
  unfold inOneBeat
  exact (OnlyLog.onInteg _ _).trans (h _ _)

/-! ### Registers that no error report writes -/

/-- Every register outside the error log keeps its value. -/
def RegsKept (s t : State) : Prop := ∀ o, logReg o = false → t.reg o = s.reg o

theorem RegsKept.refl (s : State) : RegsKept s s := fun _ _ => rfl

theorem RegsKept.trans {s t u : State} (h : RegsKept s t) (k : RegsKept t u) : RegsKept s u :=
  fun o g => (k o g).trans (h o g)

theorem RegsKept.setReg (s : State) (o : Nat) (w : Word) (h : logReg o = true) : RegsKept s (s.setReg o w) := by
  intro i g
  rw [State.reg_setReg_ne]
  rintro rfl
  simp [h] at g

theorem RegsKept.send (s : State) (m : Sent) : RegsKept s (s.send m) := by
  unfold State.send; split <;> exact RegsKept.refl _
theorem RegsKept.onInteg (s : State) (f : Integrity → Integrity) : RegsKept s (s.onInteg f) := fun _ _ => rfl

theorem RegsKept.setRegs (l : List Word) : ∀ (s : State) (o : Nat), (∀ i < l.length, logReg (o + 4 * i) = true) →
    RegsKept s (s.setRegs o l) := by
  induction l with
  | nil => exact fun s _ _ => RegsKept.refl s
  | cons w r ih =>
    intro s o h
    refine (RegsKept.setReg s o w (by simpa using h 0 (by simp))).trans (ih _ _ fun i g => ?_)
    have := h (i + 1) (by simpa using g)
    rwa [show o + 4 * (i + 1) = o + 4 + 4 * i by ring] at this

theorem slice_lt (v hi lo : Nat) : slice v hi lo < 2 ^ (hi + 1 - lo) := Nat.mod_lt _ (Nat.two_pow_pos _)

theorem RegsKept.signalVector (s : State) (v : Nat) (h : v < 128) : RegsKept s (signalVector s v) := by
  unfold Machine.signalVector
  split
  · refine RegsKept.setReg _ _ _ ?_
    have : v / 32 < 4 := by omega
    simp [logReg]; omega
  · exact RegsKept.send _ _

theorem RegsKept.enterLog (s : State) (r : LogRecord) : RegsKept s (enterLog s r) := by
  unfold Machine.enterLog
  extract_lets e s1 s2
  have h1 : RegsKept s s1 := by
    refine RegsKept.setRegs _ _ _ fun i h => ?_
    have : i < 8 := h
    have : e.toNat % 64 < 64 := Nat.mod_lt _ (by decide)
    simp [logReg]; omega
  have h2 : RegsKept s1 s2 := RegsKept.setReg _ _ _ (by decide)
  split
  · exact (h1.trans h2).trans (RegsKept.signalVector _ _ (lt_trans (slice_lt _ 5 0) (by decide)))
  · exact h1.trans h2

theorem RegsKept.logError (s : State) (r : LogRecord) : RegsKept s (logError s r) := by
  unfold Machine.logError
  split
  · exact RegsKept.enterLog _ _
  · extract_lets s1 s2 s3 o
    have h1 : RegsKept s s1 := RegsKept.setReg _ _ _ (by decide)
    have h3 : RegsKept s1 s3 := (RegsKept.setReg _ _ _ (by decide)).trans (RegsKept.setReg _ _ _ (by decide))
    split
    · exact h1
    · split
      · exact (h1.trans h3).trans (RegsKept.onInteg _ _)
      · exact h1.trans h3

theorem RegsKept.countLevel (s : State) (k : Nat) : RegsKept s (countLevel s k) := by
  unfold Machine.countLevel
  split
  · refine RegsKept.setReg _ _ _ ?_
    simp [logReg]; omega
  · exact RegsKept.refl _

theorem RegsKept.startHandling (s : State) : RegsKept s (startHandling s) := by
  unfold Machine.startHandling
  split
  · extract_lets s1 s2
    have h : RegsKept s s2 := (RegsKept.onInteg _ _).trans (RegsKept.countLevel _ _)
    split
    · exact h.trans (RegsKept.onInteg _ _)
    · exact h
  · exact RegsKept.refl _

theorem RegsKept.queueHandling (s : State) (r : LogRecord) : RegsKept s (queueHandling s r) := by
  unfold Machine.queueHandling
  split
  · exact RegsKept.refl _
  · split
    · split
      · extract_lets s1 s2
        have h : RegsKept s s2 := (RegsKept.onInteg _ _).trans (RegsKept.countLevel _ _)
        split
        · exact h.trans (RegsKept.onInteg _ _)
        · exact h
      · exact RegsKept.onInteg _ _
    · exact (RegsKept.onInteg _ _).trans (RegsKept.startHandling _)

theorem RegsKept.liftHead (s : State) : RegsKept s (liftHead s) := by
  unfold Machine.liftHead
  split
  · exact (RegsKept.onInteg _ _).trans (RegsKept.countLevel _ _)
  · exact RegsKept.refl _

theorem RegsKept.escalateHead (s : State) : RegsKept s (escalateHead s) := by
  unfold Machine.escalateHead
  extract_lets s1
  have h : RegsKept s s1 := RegsKept.liftHead s
  split
  · split
    · exact h.trans (RegsKept.logError _ _)
    · exact h
  · exact h

theorem RegsKept.admitError (s : State) (r : LogRecord) (hc : r.code < 0x400) : RegsKept s (admitError s r) := by
  unfold Machine.admitError
  extract_lets s1 want k again lvl r1 s2
  have h1 : RegsKept s s1 := RegsKept.setReg _ _ _ (by simp [logReg]; omega)
  have h2 : RegsKept s1 s2 := RegsKept.logError _ _
  split
  · exact (h1.trans h2).trans (RegsKept.liftHead _)
  · exact (h1.trans h2).trans (RegsKept.queueHandling _ _)

/-- An error report writes no register but those of the error log. -/
theorem raise_regsKept (s : State) (code unit inst d0 d1 : Nat) (hc : code < 0x400) :
    RegsKept s (raise s code unit inst d0 d1) := by
  unfold raise
  extract_lets r fire s1 s2
  split
  · have h1 : RegsKept s s1 := (RegsKept.setReg _ _ _ (by decide)).trans (RegsKept.setReg _ _ _ (by decide))
    have h2 : RegsKept s1 s2 := by
      have h : RegsKept s1 (s1.setFld (dbgBase + 0x8) 8 8 0) := RegsKept.setReg _ _ _ (by decide)
      refine h.trans ?_
      show RegsKept _ (freezeNow _)
      unfold freezeNow
      split <;> exact fun _ _ => rfl
    exact (h1.trans h2).trans (RegsKept.onInteg _ _)
  · split
    · exact RegsKept.onInteg _ _
    · split
      · exact RegsKept.onInteg _ _
      · exact RegsKept.admitError _ _ hc

theorem reg_raise (s : State) (code unit inst d0 d1 o : Nat) (hc : code < 0x400) (h : logReg o = false) :
    (raise s code unit inst d0 d1).reg o = s.reg o := raise_regsKept s code unit inst d0 d1 hc o h

/-! ### What an error report leaves alone, field by field -/

variable (s : State) (code unit inst d0 d1 : Nat)

@[simp] theorem raise_shadows : (raise s code unit inst d0 d1).shadows = s.shadows := by
  rw [raise_onlyLog s code unit inst d0 d1]
@[simp] theorem raise_acct : (raise s code unit inst d0 d1).acct = s.acct := by
  rw [raise_onlyLog s code unit inst d0 d1]
@[simp] theorem raise_mem : (raise s code unit inst d0 d1).mem = s.mem := by
  rw [raise_onlyLog s code unit inst d0 d1]
@[simp] theorem raise_ecc : (raise s code unit inst d0 d1).ecc = s.ecc := by
  rw [raise_onlyLog s code unit inst d0 d1]
@[simp] theorem raise_writebacks : (raise s code unit inst d0 d1).writebacks = s.writebacks := by
  rw [raise_onlyLog s code unit inst d0 d1]
@[simp] theorem raise_scrub : (raise s code unit inst d0 d1).scrub = s.scrub := by
  rw [raise_onlyLog s code unit inst d0 d1]
@[simp] theorem raise_counter : (raise s code unit inst d0 d1).counter = s.counter := by
  rw [raise_onlyLog s code unit inst d0 d1]
@[simp] theorem raise_free : (raise s code unit inst d0 d1).free = s.free := by
  rw [raise_onlyLog s code unit inst d0 d1]
@[simp] theorem raise_bases : (raise s code unit inst d0 d1).bases = s.bases := by
  rw [raise_onlyLog s code unit inst d0 d1]
@[simp] theorem raise_tallies : (raise s code unit inst d0 d1).tallies = s.tallies := by
  rw [raise_onlyLog s code unit inst d0 d1]
@[simp] theorem raise_cores : (raise s code unit inst d0 d1).cores = s.cores := by
  rw [raise_onlyLog s code unit inst d0 d1]
@[simp] theorem raise_arrays : (raise s code unit inst d0 d1).arrays = s.arrays := by
  rw [raise_onlyLog s code unit inst d0 d1]
@[simp] theorem raise_rods : (raise s code unit inst d0 d1).rods = s.rods := by
  rw [raise_onlyLog s code unit inst d0 d1]
@[simp] theorem raise_engines : (raise s code unit inst d0 d1).engines = s.engines := by
  rw [raise_onlyLog s code unit inst d0 d1]
@[simp] theorem raise_channels : (raise s code unit inst d0 d1).channels = s.channels := by
  rw [raise_onlyLog s code unit inst d0 d1]
@[simp] theorem raise_jobs : (raise s code unit inst d0 d1).jobs = s.jobs := by
  rw [raise_onlyLog s code unit inst d0 d1]
@[simp] theorem raise_nextJob : (raise s code unit inst d0 d1).nextJob = s.nextJob := by
  rw [raise_onlyLog s code unit inst d0 d1]
@[simp] theorem raise_carriers : (raise s code unit inst d0 d1).carriers = s.carriers := by
  rw [raise_onlyLog s code unit inst d0 d1]
@[simp] theorem raise_harq : (raise s code unit inst d0 d1).harq = s.harq := by
  rw [raise_onlyLog s code unit inst d0 d1]
@[simp] theorem raise_decodes : (raise s code unit inst d0 d1).decodes = s.decodes := by
  rw [raise_onlyLog s code unit inst d0 d1]
@[simp] theorem raise_decodeNo : (raise s code unit inst d0 d1).decodeNo = s.decodeNo := by
  rw [raise_onlyLog s code unit inst d0 d1]
@[simp] theorem raise_links : (raise s code unit inst d0 d1).links = s.links := by
  rw [raise_onlyLog s code unit inst d0 d1]
@[simp] theorem raise_sub : (raise s code unit inst d0 d1).sub = s.sub := by
  rw [raise_onlyLog s code unit inst d0 d1]
@[simp] theorem raise_cpl : (raise s code unit inst d0 d1).cpl = s.cpl := by
  rw [raise_onlyLog s code unit inst d0 d1]
@[simp] theorem raise_host : (raise s code unit inst d0 d1).host = s.host := by
  rw [raise_onlyLog s code unit inst d0 d1]
@[simp] theorem raise_bridge : (raise s code unit inst d0 d1).bridge = s.bridge := by
  rw [raise_onlyLog s code unit inst d0 d1]
@[simp] theorem raise_power : (raise s code unit inst d0 d1).power = s.power := by
  rw [raise_onlyLog s code unit inst d0 d1]
@[simp] theorem raise_sec : (raise s code unit inst d0 d1).sec = s.sec := by
  rw [raise_onlyLog s code unit inst d0 d1]
@[simp] theorem raise_pending : (raise s code unit inst d0 d1).pending = s.pending := by
  rw [raise_onlyLog s code unit inst d0 d1]

@[simp] theorem raise_tally (n : Nat) : (raise s code unit inst d0 d1).tally n = s.tally n := by
  simp [State.tally]
@[simp] theorem raise_core (n : Nat) : (raise s code unit inst d0 d1).core n = s.core n := by
  simp [State.core]
@[simp] theorem raise_array (n : Nat) : (raise s code unit inst d0 d1).array n = s.array n := by
  simp [State.array]
@[simp] theorem raise_rod (n : Nat) : (raise s code unit inst d0 d1).rod n = s.rod n := by
  simp [State.rod]
@[simp] theorem raise_engine (n : Nat) : (raise s code unit inst d0 d1).engine n = s.engine n := by
  simp [State.engine]
@[simp] theorem raise_job (n : Nat) : (raise s code unit inst d0 d1).job n = s.job n := by
  simp [State.job]
@[simp] theorem raise_carrier (n : Nat) : (raise s code unit inst d0 d1).carrier n = s.carrier n := by
  simp [State.carrier]
@[simp] theorem raise_link (n : Nat) : (raise s code unit inst d0 d1).link n = s.link n := by
  simp [State.link]
@[simp] theorem raise_tbase (n : Nat) : (raise s code unit inst d0 d1).tbase n = s.tbase n := by
  simp [State.tbase]
@[simp] theorem raise_byte (n : Nat) : (raise s code unit inst d0 d1).byte n = s.byte n := by
  simp [State.byte]
@[simp] theorem raise_eccOf (n : Nat) : (raise s code unit inst d0 d1).eccOf n = s.eccOf n := by
  simp [State.eccOf]
@[simp] theorem raise_chan (e ch : Nat) : (raise s code unit inst d0 d1).chan e ch = s.chan e ch := by
  simp [State.chan]

end Sys2Proof.Machine
end

