-- ==== Sys2Proof/Laws/Memory.lean ====
section
/-! SUPPORT. Memory.lean: every operation on memory keeps its canonical form, and what a read after a write gives. -/

namespace Sys2Proof.Machine

theorem memOk_reset : MemOk State.reset := rfl

theorem MemOk.of_mem {s t : State} (h : t.mem = s.mem) (k : MemOk s) : MemOk t := by
  unfold MemOk at *; rwa [h]

theorem MemOk.setByte {s : State} (a : Nat) (b : Byte) (h : MemOk s) : MemOk (s.setByte a b) :=
  twf_tset _ _ _ _ h

theorem MemOk.clearMem {s : State} (lo hi : Nat) (h : MemOk s) : MemOk (s.clearMem lo hi) :=
  twf_tclear _ _ _ _ h

theorem MemOk.writeBytes (l : List Byte) : ∀ (s : State) (a : Nat), MemOk s → MemOk (s.writeBytes a l) := by
  induction l with
  | nil => exact fun _ _ h => h
  | cons b r ih => exact fun s a h => ih _ _ (h.setByte a b)

theorem MemOk.writeSkipping (p : Nat → Bool) (l : List Byte) :
    ∀ (s : State) (a : Nat), MemOk s → MemOk (writeSkipping s p a l) := by
  induction l with
  | nil => exact fun _ _ h => h
  | cons b r ih =>
    intro s a h
    refine ih _ _ ?_
    split
    · exact h
    · exact h.setByte a b

/-- A fold of operations that keep the canonical form keeps it. -/
theorem MemOk.foldl {α : Type} (f : State → α → State) (hf : ∀ s x, MemOk s → MemOk (f s x)) (l : List α) :
    ∀ s, MemOk s → MemOk (l.foldl f s) := by
  induction l with
  | nil => exact fun _ h => h
  | cons x r ih => exact fun s h => ih _ (hf s x h)

theorem MemOk.copyRegion {s : State} (a b n : Nat) (h : MemOk s) : MemOk (s.copyRegion a b n) := by
  unfold State.copyRegion
  extract_lets cells words s1 s2 s3
  have h2 : MemOk s2 := MemOk.foldl (fun s (e : Nat × Byte) => s.setByte (b + (e.1 - a)) e.2)
    (fun _ _ h => h.setByte _ _) _ _ (h.clearMem b (b + n))
  have h3 : MemOk s3 := h2
  exact MemOk.foldl (fun s (e : Nat × Nat) => s.setEcc (b / 8 + (e.1 - a / 8)) e.2) (fun _ _ h => h) _ _ h3

/-! ### What a read after a write gives -/

/-- Bytes written from `a` on: those addresses read as written, every other as before. -/
theorem byte_writeBytes (l : List Byte) : ∀ (s : State) (a i : Nat),
    (s.writeBytes a l).byte i = if a ≤ i ∧ i < a + l.length then l.getD (i - a) 0 else s.byte i := by
  induction l with
  | nil => intro s a i; simp only [State.writeBytes, List.length_nil]; rw [if_neg (by omega)]
  | cons b r ih =>
    intro s a i
    rw [State.writeBytes, ih]
    simp only [List.length_cons]
    by_cases h : a + 1 ≤ i ∧ i < a + 1 + r.length
    · have e : i - a = (i - (a + 1)) + 1 := by omega
      rw [if_pos h, if_pos (by omega), e, List.getD_cons_succ]
    · rw [if_neg h, State.byte_setByte_if]
      by_cases g : i = a
      · subst g; simp
      · rw [if_neg g, if_neg (by omega)]

theorem readBytes_writeBytes (s : State) (a : Nat) (l : List Byte) :
    (s.writeBytes a l).readBytes a l.length = l := by
  unfold State.readBytes
  refine List.ext_getElem (by simp) fun i h k => ?_
  have hi : i < l.length := by simpa using h
  simp only [List.getElem_map, List.getElem_range, byte_writeBytes]
  rw [if_pos (by omega)]
  simp [hi]

/-! ### Corrections and writes leave memory's form and every other field alone -/

theorem eccCorrected_onlyLog (s : State) (w : Nat) (r : Requester) : OnlyLog s (eccCorrected s w r) := by
  unfold eccCorrected
  extract_lets a o
  clear_value a
  match siteOf a with
  | some (.board p) =>
    dsimp only
    match logicalOf s p with
    | some t => exact ((OnlyLog.setReg _ _ _).trans (OnlyLog.setReg _ _ _)).trans (raise_onlyLog _ _ _ _ _ _)
    | none => exact raise_onlyLog _ _ _ _ _ _
  | some .common => exact ((OnlyLog.setReg _ _ _).trans (OnlyLog.setReg _ _ _)).trans (raise_onlyLog _ _ _ _ _ _)
  | some .hbm => exact ((OnlyLog.setReg _ _ _).trans (OnlyLog.setReg _ _ _)).trans (raise_onlyLog _ _ _ _ _ _)
  | none => exact OnlyLog.refl s

theorem eccCorrected_mem (s : State) (w : Nat) (r : Requester) : (eccCorrected s w r).mem = s.mem := by
  rw [eccCorrected_onlyLog s w r]

/-- A write that reaches a board changes, beside memory, only what its digit core still reads there (R95). -/
theorem unseenWrite_cores (s : State) (a n : Nat) (r : Requester) :
    unseenWrite s a n r = { s with cores := (unseenWrite s a n r).cores } := by
  unfold unseenWrite
  split
  · split
    · unfold markUnseen
      dsimp only
      split
      · split <;> rfl
      · split <;> rfl
    · rfl
  · rfl

theorem unseenWrite_mem (s : State) (a n : Nat) (r : Requester) : (unseenWrite s a n r).mem = s.mem := by
  rw [unseenWrite_cores]

theorem unseenWrite_ecc (s : State) (a n : Nat) (r : Requester) : (unseenWrite s a n r).ecc = s.ecc := by
  rw [unseenWrite_cores]

/-- Storing that keeps the canonical form keeps it through the corrections that come with it. -/
theorem MemOk.eccMerge {s : State} (bad : List Nat) (whole : Nat → Bool) (r : Requester)
    (put : (Nat → Bool) → State → State) (hp : ∀ p s, MemOk s → MemOk (put p s)) (h : MemOk s) :
    MemOk (eccMerge s bad whole r put) := by
  unfold Machine.eccMerge
  extract_lets stuck fixed s1 s2 s3
  have h1 : MemOk s1 := MemOk.foldl _ (fun s x k => k.of_mem (eccCorrected_mem s x r)) _ _ h
  exact MemOk.foldl (fun s w => s.setEcc w 0) (fun _ _ h => h) _ _ (hp _ _ h1)

theorem MemOk.writePairs {s : State} (p : Nat → Bool) (l : List (Nat × Byte)) (h : MemOk s) :
    MemOk (writePairs s p l) := by
  refine MemOk.foldl _ (fun s e k => ?_) _ _ h
  split
  · exact k
  · exact k.setByte _ _

theorem MemOk.memWriteMasked {s : State} (l : List (Nat × Byte)) (r : Requester) (h : MemOk s) :
    MemOk (memWriteMasked s l r) := by
  unfold Machine.memWriteMasked
  extract_lets s1 bad
  have h1 : MemOk s1 := MemOk.foldl _ (fun s x k => k.of_mem (unseenWrite_mem s x.1 1 r)) _ _ h
  exact MemOk.eccMerge _ _ _ _ (fun p s k => MemOk.writePairs p l k) h1

theorem MemOk.memWrite {s : State} (a : Nat) (l : List Byte) (r : Requester) (h : MemOk s) :
    MemOk (memWrite s a l r) := by
  unfold Machine.memWrite
  extract_lets n s1 bad
  have h1 : MemOk s1 := h.of_mem (unseenWrite_mem s a n r)
  split
  · exact MemOk.writeBytes _ _ _ h1
  · exact MemOk.eccMerge _ _ _ _ (fun p s k => MemOk.writeSkipping p l s a k) h1

end Sys2Proof.Machine
end

