-- ==== Sys2Proof/Laws/Context.lean ====
section
/-! SUPPORT. Context.lean: what a saved context and the flush, swap and discard of an empty tile do with memory. -/

namespace Sys2Proof.Machine

/-- The words of a context are those of its tile: no byte of memory is among them. -/
theorem contextWord_mem (s : State) (m : List Host.Cell) (t o : Nat) :
    contextWord { s with mem := m } t o 0 = contextWord s t o 0 := by
  have k0 : ({ s with mem := m } : State).core t = s.core t := rfl
  have h0 : ({ s with mem := m } : State).rod t = s.rod t := rfl
  have h1 : ∀ o, rodArea { s with mem := m } t o = rodArea s t o := fun o => by
    have k1 : ({ s with mem := m } : State).fld (rodBase t + 8) 3 0 = s.fld (rodBase t + 8) 3 0 := rfl
    unfold rodArea
    rw [h0, k0, k1]
  have h2 : ∀ o, arrayArea { s with mem := m } t o = arrayArea s t o := fun o => by
    have k1 : ({ s with mem := m } : State).array t = s.array t := rfl
    have k2 : ∀ b k, carryWord { s with mem := m } t b k = carryWord s t b k := fun _ _ => rfl
    have k3 : ∀ k, areaKey { s with mem := m } t k = areaKey s t k := fun _ => rfl
    have k4 : ∀ p, partRecord { s with mem := m } t p = partRecord s t p := fun _ => rfl
    unfold arrayArea
    rw [k1, k0, k2, k3, k4]
  have h3 : ∀ o, coreArea { s with mem := m } t o = coreArea s t o := fun o => by
    have k1 : ∀ k, resumeWord { s with mem := m } t k = resumeWord s t k := fun _ => rfl
    have k2 : ∀ k, streamWord { s with mem := m } k = streamWord s k := fun _ => rfl
    unfold coreArea
    rw [k0, k1, k2]
  have h4 : ∀ c k, channelArea { s with mem := m } t c k = channelArea s t c k := fun _ _ => rfl
  have h5 : ∀ o, peerArea { s with mem := m } t o = peerArea s t o := fun _ => rfl
  unfold contextWord
  rw [h0, h1, h2, h3, h4, h5]

theorem contextBytes_mem (s : State) (m : List Host.Cell) (t : Nat) :
    contextBytes { s with mem := m } t = contextBytes s t := by
  unfold contextBytes
  simp only [contextWord_mem]

/-- A loop whose steps do nothing. -/
theorem forEach_same (n : Nat) (f : State → Nat → State) (s : State) (h : ∀ k, f s k = s) : s.forEach n f = s := by
  unfold State.forEach
  induction List.range n with
  | nil => rfl
  | cons k r ih => rw [List.foldl_cons, h, ih]

/-- A loop whose steps leave memory out of account. -/
theorem forEach_mem (n : Nat) (f : State → Nat → State) (m : List Host.Cell)
    (h : ∀ (s : State) (k : Nat), f { s with mem := m } k = { f s k with mem := m }) (s : State) :
    State.forEach { s with mem := m } n f = { State.forEach s n f with mem := m } := by
  unfold State.forEach
  generalize List.range n = l
  induction l generalizing s with
  | nil => rfl
  | cons k r ih => rw [List.foldl_cons, List.foldl_cons, h, ih]

theorem loadTile_mem (s : State) (m : List Host.Cell) (t : Nat) (c : TileContext) :
    loadTile { s with mem := m } t c = { loadTile s t c with mem := m } := by
  let put (s : State) : State :=
    ((s.setReg (tileBase t + 0x10) c.tag).setReg (rodBase t + 8) c.exc).setReg (baBase t + 0x18) c.fault
  let a := keepFiller { c.array with carries := moveCarries c.array.carries id (rowOf s t) } (s.array t)
  let s' := (((s.setCore t { c.core with irq := standingIrq s t }).setArray t a).setRod t c.rod).setEngine t c.engine
  have h := forEach_mem 32 (fun s ch => s.setChan t ch (c.chans.getD ch {})) m (fun _ _ => rfl) s'
  show put (State.forEach { s' with mem := m } 32 fun s ch => s.setChan t ch (c.chans.getD ch {})) = _
  rw [h]
  have hput : ∀ u : State, put { u with mem := m } = { put u with mem := m } := fun u => by
    have e : ∀ (u : State) (a : Nat) (v : Word), State.setReg { u with mem := m } a v = { u.setReg a v with mem := m } :=
      fun _ _ _ => rfl
    simp only [put, e]
  exact hput _

theorem contextBytes_length (s : State) (t : Nat) : (contextBytes s t).length = contextSize := by
  have h : ∀ v : Nat, (natLE 4 v).length = 4 := fun _ => rfl
  simp only [contextBytes, List.length_flatMap, h]
  rw [List.map_const', List.sum_replicate, List.length_range]
  decide

/-- Without a descriptor there is nothing to discard but the records of peer reads. -/
theorem discardSlides_empty (s : State) (t : Nat) (h : s.channels = []) :
    discardSlides s t = setPeerReads s (s.runningSlot.getD 0) t [] := by
  have hq : ∀ ch, (s.chan t ch).q = [] := fun ch => by simp only [State.chan, h]; rfl
  unfold discardSlides
  rw [forEach_same 32 _ s fun ch => by rw [hq]]

/-- A core that does not execute is not asked to stop. -/
theorem recoveryStop_idle (s : State) (t : Nat) (h : (s.core t).status = .idle) : recoveryStop s t = s := by
  simp [recoveryStop, h]

theorem discardSlides_mem (s : State) (m : List Host.Cell) (t : Nat) (hc : s.channels = []) (hi : (s.core t).status = .idle) :
    discardSlides (recoveryStop { s with mem := m } t) t =
      { setPeerReads s (s.runningSlot.getD 0) t [] with mem := m } := by
  rw [recoveryStop_idle { s with mem := m } t hi, discardSlides_empty { s with mem := m } t hc]
  rfl

theorem readBytes_of_mem (u v : State) (a n : Nat) (k : u.mem = v.mem) : u.readBytes a n = v.readBytes a n := by
  simp only [State.readBytes, State.byte, k]

/-- Memory in which the checkpoint area of tile t holds the bytes of its context. -/
theorem readBytes_image (s : State) (t : Nat) (c : TileContext) (m : List Host.Cell)
    (hm : m = (s.writeBytes (checkpointArea t) (contextBytes (loadTile s t c) t)).mem) :
    ({ s with mem := m } : State).readBytes (checkpointArea t) contextSize =
      contextBytes (loadTile { s with mem := m } t c) t := by
  rw [loadTile_mem, contextBytes_mem, readBytes_of_mem _ (s.writeBytes (checkpointArea t) (contextBytes (loadTile s t c) t)) _ _ hm]
  have h := readBytes_writeBytes s (checkpointArea t) (contextBytes (loadTile s t c) t)
  rw [contextBytes_length] at h
  exact h

/-- Of a stopped tile without descriptors memory can be such that its checkpoint area holds a context's bytes. -/
theorem image_exists (s : State) (t : Nat) (c : TileContext) (hc : s.channels = []) (hi : (s.core t).status = .idle) :
    ∃ m : List Host.Cell,
      (discardSlides (recoveryStop { s with mem := m } t) t).readBytes (checkpointArea t) contextSize =
        contextBytes (loadTile (discardSlides (recoveryStop { s with mem := m } t) t) t c) t := by
  let w := setPeerReads s (s.runningSlot.getD 0) t []
  refine ⟨(w.writeBytes (checkpointArea t) (contextBytes (loadTile w t c) t)).mem, ?_⟩
  rw [discardSlides_mem s _ t hc hi]
  exact readBytes_image _ t c _ rfl

/-- Without channels, engines and peer accesses there is nothing to flush. -/
theorem flushTile_empty (s : State) (t : Nat) (hc : s.channels = []) (he : (s.engine t).quiet = 0)
    (hb : s.bridge.outstanding = []) : flushTile s t = s := by
  have h1 : recordPeerReads s (s.runningSlot.getD 0) t = s := by
    have : ∀ ch, peerOut s t ch false = [] := fun ch => by simp only [peerOut, hb, List.filter_nil]
    generalize s.runningSlot.getD 0 = k
    have h := forEach_same 32 (fun s ch => (peerOut s t ch false).foldl (recordPeerRead k t ch) s) s
      (fun ch => by simp only [this, List.foldl_nil])
    unfold State.forEach at h
    exact h
  unfold flushTile
  rw [h1]
  refine forEach_same 32 _ s fun ch => ?_
  have hq : s.chan t ch = {} := by simp only [State.chan, hc]; rfl
  have hf : flushes (s.chan t ch) = false := by rw [hq]; rfl
  have hg : forgetPeer s t ch = s := by unfold forgetPeer; rw [hb]; rfl
  have hr : blockReturned s t = s := by unfold blockReturned; rw [if_pos he]
  unfold flushChannel
  rw [hf, if_neg (by decide)]
  simp only [hg, hr, hq]
  have hk : tset (fun _ => ({} : SlideChannel)) s.channels (32 * t + ch) {} = s.channels := by rw [hc]; rfl
  show ({ s with channels := tset (fun _ => {}) s.channels (32 * t + ch) {} } : State) = s
  rw [hk]

/-- Bytes outside a region copied to stay. -/
theorem byte_copyRegion (s : State) (a b n i : Nat) (h : i < b ∨ b + n ≤ i) : (s.copyRegion a b n).byte i = s.byte i := by
  have h1 : ∀ (l : List (Nat × Byte)) (s : State), (∀ e ∈ l, b + (e.1 - a) ≠ i) →
      (l.foldl (fun s e => s.setByte (b + (e.1 - a)) e.2) s).byte i = s.byte i := fun l => by
    induction l with
    | nil => intro _ _; rfl
    | cons e r ih =>
      intro s he
      rw [List.foldl_cons, ih _ fun x hx => he x (List.mem_cons_of_mem _ hx), State.byte_setByte_if,
        if_neg fun k => he e List.mem_cons_self k.symm]
  have h2 : ∀ (l : List (Nat × Nat)) (s : State),
      (l.foldl (fun s e => s.setEcc (b / 8 + (e.1 - a / 8)) e.2) s).byte i = s.byte i := fun l => by
    induction l with
    | nil => intro _; rfl
    | cons e r ih => intro s; rw [List.foldl_cons, ih]; rfl
  unfold State.copyRegion
  simp only []
  rw [h2]
  refine (h1 _ _ fun e he => ?_).trans ?_
  · have := (List.mem_filter.1 he).2
    simp only [Bool.and_eq_true, decide_eq_true_eq] at this
    omega
  · show tget memReset (tclear s.mem b (b + n)) i = tget memReset s.mem i
    rw [tget_tclear, if_neg (by omega)]

/-- A region copied changes memory and the errors it holds, and those alike whatever memory holds. -/
theorem copyRegion_mem (s : State) (m : List Host.Cell) (a b n : Nat) :
    State.copyRegion { s with mem := m } a b n =
      { s.copyRegion a b n with mem := (State.copyRegion { s with mem := m } a b n).mem } := by
  have h1 : ∀ (l : List (Nat × Byte)) (s : State), l.foldl (fun s e => s.setByte (b + (e.1 - a)) e.2) s =
      { s with mem := (l.foldl (fun s e => s.setByte (b + (e.1 - a)) e.2) s).mem } := fun l => by
    induction l with
    | nil => intro _; rfl
    | cons e r ih => intro s; rw [List.foldl_cons, ih]; rfl
  have h2 : ∀ (l : List (Nat × Nat)) (s : State) (m : List Host.Cell),
      l.foldl (fun s e => s.setEcc (b / 8 + (e.1 - a / 8)) e.2) { s with mem := m } =
        { l.foldl (fun s e => s.setEcc (b / 8 + (e.1 - a / 8)) e.2) s with mem := m } := fun l => by
    induction l with
    | nil => intro _ _; rfl
    | cons e r ih =>
      intro s m
      rw [List.foldl_cons, List.foldl_cons]
      exact ih (s.setEcc (b / 8 + (e.1 - a / 8)) e.2) m
  have h3 : ∀ s : State, s.copyRegion a b n = { (s.ecc.filter fun e => a / 8 ≤ e.1 && e.1 < (a + n) / 8).foldl
      (fun s e => s.setEcc (b / 8 + (e.1 - a / 8)) e.2) { s with ecc := tclear s.ecc (b / 8) ((b + n) / 8) } with
        mem := ((s.mem.filter fun e => a ≤ e.1 && e.1 < a + n).foldl (fun s e => s.setByte (b + (e.1 - a)) e.2)
          (s.clearMem b (b + n))).mem } := fun s => by
    unfold State.copyRegion
    simp only []
    rw [h1 _ (s.clearMem b (b + n))]
    exact h2 _ { s with ecc := tclear s.ecc (b / 8) ((b + n) / 8) } _
  rw [h3, h3 s]
  generalize ((State.mem { s with mem := m }).filter fun e => a ≤ e.1 && e.1 < a + n).foldl
    (fun s e => s.setByte (b + (e.1 - a)) e.2) (State.clearMem { s with mem := m } b (b + n)) = v
  have h4 := h2 (s.ecc.filter fun e => a / 8 ≤ e.1 && e.1 < (a + n) / 8)
    { s with ecc := tclear s.ecc (b / 8) ((b + n) / 8) } m
  exact congrArg (fun u : State => { u with mem := v.mem }) h4

theorem renumberTile_mem (s : State) (m : List Host.Cell) (t x y : Nat) :
    renumberTile { s with mem := m } t x y = { renumberTile s t x y with mem := m } := by
  unfold renumberTile
  generalize physBase x + 8 = o
  rfl

theorem freeLeases_mem (s : State) (m : List Host.Cell) (p : Lease → Bool) :
    freeLeases { s with mem := m } p = { freeLeases s p with mem := m } := by
  refine forEach_mem 128 _ m (fun s i => ?_) s
  show (if (leaseOf s i).any _ then freeLease { s with mem := m } i else { s with mem := m }) = _
  split <;> rfl

theorem remapTile_mem (s : State) (m : List Host.Cell) (t x y : Nat) :
    remapTile { s with mem := m } t x y = { remapTile s t x y with
      mem := (State.copyRegion { s with mem := m } (physStore x 0) (physStore y 0) (proofArea + proofSize)).mem } := by
  have e : ∀ s, remapTile s t x y = renumberTile (freeLeases (s.copyRegion (physStore x 0) (physStore y 0)
      (proofArea + proofSize)) fun l => l.swap = some t) t x y := fun s => by unfold remapTile; with_reducible rfl
  rw [e, e]
  generalize physStore x 0 = a, physStore y 0 = b, proofArea + proofSize = n
  generalize hv : (State.copyRegion { s with mem := m } a b n).mem = v
  rw [copyRegion_mem, hv, freeLeases_mem, renumberTile_mem]

/-- Bytes read outside a region copied to. -/
theorem readBytes_copyRegion (s : State) (a b n k l : Nat) (h : k + l ≤ b) :
    (s.copyRegion a b n).readBytes k l = s.readBytes k l := by
  unfold State.readBytes
  refine List.map_congr_left fun i hi => byte_copyRegion s a b n _ (.inl ?_)
  have := List.mem_range.1 hi
  omega

theorem checkpoint_below (t y : Nat) (ht : t < 16) : checkpointArea t + contextSize ≤ physStore y 0 := by
  unfold checkpointArea mequelLo contextSize physStore
  omega

/-- What a swap makes of such a tile before its checkpoint is loaded. -/
theorem swap_mem (s : State) (m : List Host.Cell) (t x y : Nat) (hc : s.channels = []) (hi : (s.core t).status = .idle)
    (he : (s.engine t).quiet = 0) (hb : s.bridge.outstanding = []) (hp : ∀ k, (s.proof k).running = none) :
    remapTile (abandonOn (flushTile (recoveryStop { s with mem := m } t) t) y) t x y = { remapTile s t x y with
      mem := (State.copyRegion { s with mem := m } (physStore x 0) (physStore y 0) (proofArea + proofSize)).mem } := by
  have ha : abandonOn { s with mem := m } y = { s with mem := m } := by
    unfold abandonOn
    exact forEach_same 24 _ _ fun k => by rw [show (State.proof { s with mem := m } k).running = none from hp k]
  rw [recoveryStop_idle { s with mem := m } t hi, flushTile_empty { s with mem := m } t hc he hb, ha, remapTile_mem]

/-- Bytes written before a region below which they lie is copied read back after it. -/
theorem readBytes_back (s v : State) (l : List Byte) (k n a b q : Nat) (hn : l.length = n) (hl : k + n ≤ b) :
    State.readBytes { v with mem := (State.copyRegion { s with mem := (s.writeBytes k l).mem } a b q).mem } k n = l := by
  subst hn
  refine (readBytes_of_mem _ (State.copyRegion { s with mem := (s.writeBytes k l).mem } a b q) _ _ rfl).trans ?_
  rw [readBytes_copyRegion _ _ _ _ _ _ hl, readBytes_of_mem { s with mem := (s.writeBytes k l).mem } (s.writeBytes k l) _ _ rfl]
  exact readBytes_writeBytes s k l

/-- The same for a swap that loads a checkpoint. -/
theorem image_exists_swap (s : State) (t x y : Nat) (c : TileContext) (hc : s.channels = []) (hi : (s.core t).status = .idle)
    (he : (s.engine t).quiet = 0) (hb : s.bridge.outstanding = []) (hp : ∀ k, (s.proof k).running = none)
    (ht : t < 16) : ∃ m : List Host.Cell,
      (remapTile (abandonOn (flushTile (recoveryStop { s with mem := m } t) t) y) t x y).readBytes (checkpointArea t)
        contextSize = contextBytes (loadTile
          (remapTile (abandonOn (flushTile (recoveryStop { s with mem := m } t) t) y) t x y) t c) t := by
  have h := readBytes_back s (remapTile s t x y) (contextBytes (loadTile (remapTile s t x y) t c) t) (checkpointArea t)
    contextSize (physStore x 0) (physStore y 0) (proofArea + proofSize) (contextBytes_length _ t) (checkpoint_below t y ht)
  generalize (s.writeBytes (checkpointArea t) (contextBytes (loadTile (remapTile s t x y) t c) t)).mem = m at h
  refine ⟨m, ?_⟩
  rw [swap_mem s m t x y hc hi he hb hp, loadTile_mem (remapTile s t x y), contextBytes_mem]
  exact h

end Sys2Proof.Machine
end

