-- ==== Sys2Proof/Laws/Gate.lean ====
section
/-! SUPPORT. Gate.lean: what the operations that wait for the device's clocks do when it is live and when it is not. -/

namespace Sys2Proof.Machine

theorem live_iff (s : State) : s.live = true ↔ s.dbg.frozen = false ∧ s.locked = true := by
  simp [State.live]

theorem State.act_of_live (s : State) (f : State → State) (h : s.live = true) : s.act f = f s := by
  simp [State.act, h]

theorem State.act_of_still (s : State) (f : State → State) (h : s.live = false) : s.act f = s := by
  simp [State.act, h]

theorem State.written_of_live (s : State) (src : Writer) (f : State → State) (h : s.live = true) :
    s.written src f = f s := by
  simp [State.written, h]

/-- A write that does not find the units acting changes at most the count of dropped writes. -/
theorem State.written_of_still (s : State) (src : Writer) (f : State → State) (h : s.live = false) :
    s.written src f = s ∨ s.written src f = s.bump (dbgBase + 0x44) 1 := by
  simp only [State.written, h]
  by_cases c : (s.dbg.frozen && decide (src = .pcie)) = true <;> simp [c]

theorem State.tileWritten_of_live (s : State) (src : Writer) (t o : Nat) (v : Word) (f : State → State)
    (h : s.live = true) (k : s.swapping t = false) : s.tileWritten src t o v f = f s := by
  simp [State.tileWritten, State.written, h, k]

theorem State.slideWritten_of_live (s : State) (src : Writer) (e o : Nat) (v : Word) (f : State → State)
    (h : s.live = true) (k : s.swapping e = false) : s.slideWritten src e o v f = f s := by
  unfold State.slideWritten
  split
  · exact State.tileWritten_of_live s src e o v f h k
  · exact State.written_of_live s src f h

end Sys2Proof.Machine
end

