-- ==== Sys2Proof/Laws/Issue.lean ====
section
/-! SUPPORT. Issue.lean: all that issuing an instruction of a digit core can do before the instruction's own work. -/

namespace Sys2Proof.Machine

/-- Two writes of one index leave the later. -/
theorem tset_tset {α : Type} [DecidableEq α] (d : Nat → α) (t : Tab α) (i : Nat) (v w : α) :
    tset d (tset d t i v) i w = tset d t i w := by
  have f : (tput i v (t.filter fun e => e.1 ≠ i)).filter (fun e => e.1 ≠ i) = t.filter fun e => e.1 ≠ i := by
    have h : ∀ r : Tab α, (∀ e ∈ r, e.1 ≠ i) → (tput i v r).filter (fun e => e.1 ≠ i) = r := by
      intro r
      induction r with
      | nil => simp [tput]
      | cons e r ih =>
        intro k
        unfold tput
        split
        · rw [List.filter_cons_of_neg (by simp), List.filter_eq_self.2 (by simpa using k)]
        · rw [List.filter_cons_of_pos (by simpa using k e (by simp)), ih fun x hx => k x (by simp [hx])]
    exact h _ (by simp)
  unfold tset
  dsimp only
  by_cases h : v = d i
  · simp [h]
  · simp only [h, if_false, f]

theorem State.setCore_setCore (s : State) (t : Nat) (a b : DigitCore) : (s.setCore t a).setCore t b = s.setCore t b := by
  simp only [State.setCore, tset_tset]

/-- What a read of memory can change: registers, the log, the write-backs and the taint of carriers. -/
def ReadOnly (s u : State) : Prop := u = { s with
  regs := u.regs, writebacks := u.writebacks, carriers := u.carriers, sent := u.sent, integ := u.integ, dbg := u.dbg }

theorem ReadOnly.refl (s : State) : ReadOnly s s := rfl

theorem ReadOnly.trans {s t u : State} (h : ReadOnly s t) (k : ReadOnly t u) : ReadOnly s u := by
  unfold ReadOnly at *
  rw [k, h]

theorem OnlyLog.readOnly {s t : State} (h : OnlyLog s t) : ReadOnly s t := by
  unfold ReadOnly
  unfold OnlyLog at h
  rw [h]

theorem ReadOnly.taintCarrier (s : State) (c : Nat) : ReadOnly s (taintCarrier s c) := by
  unfold Machine.taintCarrier
  split <;> rfl

theorem ReadOnly.foldl {α : Type} (f : State → α → State) (h : ∀ s x, ReadOnly s (f s x)) (l : List α) :
    ∀ s, ReadOnly s (l.foldl f s) := by
  induction l with
  | nil => exact ReadOnly.refl
  | cons x r ih => exact fun s => (h s x).trans (ih _)

theorem ReadOnly.taintTile (s : State) (t : Nat) : ReadOnly s (taintTile s t) :=
  ReadOnly.foldl _ ReadOnly.taintCarrier _ _

theorem ReadOnly.raise (s : State) (a b c d e : Nat) : ReadOnly s (raise s a b c d e) := (raise_onlyLog s a b c d e).readOnly

theorem ReadOnly.setReg (s : State) (o : Nat) (w : Word) : ReadOnly s (s.setReg o w) := rfl

theorem ReadOnly.setFld (s : State) (o hi lo v : Nat) : ReadOnly s (s.setFld o hi lo v) := rfl
theorem ReadOnly.setReg64 (s : State) (o v : Nat) : ReadOnly s (s.setReg64 o v) := rfl

/-- Noting an error in a status word, counting it and reporting it. -/
theorem ReadOnly.noted (p : Prop) [Decidable p] (s v : State) (h : ReadOnly s v) (o n a b c d e : Nat) (m : Word) :
    ReadOnly s (Machine.raise (((if p then s else v).orReg o m).bump n 1) a b c d e) := by
  have k : ReadOnly s (if p then s else v) := by
    split
    · exact ReadOnly.refl s
    · exact h
  exact (k.trans (by unfold ReadOnly; rfl)).trans (ReadOnly.raise _ _ _ _ _ _)

theorem ReadOnly.eccUncorrectable (s : State) (w : Nat) (r : Requester) : ReadOnly s (eccUncorrectable s w r) := by
  unfold Machine.eccUncorrectable
  extract_lets a o o' c1 c2 c3 h1 h2 h3
  have hc : ReadOnly s c3 := ReadOnly.noted _ s _ ((ReadOnly.setFld _ _ _ _ _).trans (ReadOnly.setReg _ _ _)) _ _ _ _ _ _ _ _
  have hh : ReadOnly s h3 := ReadOnly.noted _ s _ ((ReadOnly.setFld _ _ _ _ _).trans (ReadOnly.setReg64 _ _ _)) _ _ _ _ _ _ _ _
  clear_value a c3 h3
  split
  · split
    · extract_lets s1 s2 s3
      have h : ReadOnly s s3 := ReadOnly.noted _ s _ ((ReadOnly.setFld _ _ _ _ _).trans (ReadOnly.setReg _ _ _)) _ _ _ _ _ _ _ _
      clear_value s3
      split
      · exact h.trans (ReadOnly.taintTile _ _)
      · exact h
    · exact ReadOnly.raise _ _ _ _ _ _
  · split
    · exact hc
    · split
      · exact hc.trans (ReadOnly.taintCarrier _ _)
      · exact hc.trans (ReadOnly.foldl _ ReadOnly.taintCarrier _ _)
  · split
    · split
      · exact hh.trans (ReadOnly.taintTile _ _)
      · exact hh
    · exact hh
  · exact ReadOnly.refl s

theorem ReadOnly.eccMet (r : Requester) (s : State) (w : Nat) : ReadOnly s (eccMet r s w) := by
  unfold Machine.eccMet
  split
  · exact ReadOnly.refl s
  · extract_lets s1
    have h1 : ReadOnly s s1 := (eccCorrected_onlyLog s w r).readOnly
    split
    · exact h1
    · exact h1.trans rfl
  · exact ReadOnly.eccUncorrectable s w r

/-- A read of memory returns the bytes as stored, and changes only what reporting the errors it meets changes. -/
theorem memRead_readOnly (s : State) (a n : Nat) (r : Requester) :
    (memRead s a n r).1 = s.readBytes a n ∧ ReadOnly s (memRead s a n r).2 :=
  ⟨rfl, ReadOnly.foldl _ (ReadOnly.eccMet r) _ _⟩

theorem eccTouched_nil (s : State) (a n : Nat) (h : s.ecc = []) : eccTouched s a n = [] := by
  simp [eccTouched, h]

theorem memRead_clean (s : State) (a n : Nat) (r : Requester) (h : eccTouched s a n = []) :
    memRead s a n r = (s.readBytes a n, s) := by
  simp [memRead, h]

theorem memWrite_clean (s : State) (a : Nat) (l : List Byte) (r : Requester) (h : eccTouched s a l.length = []) :
    memWrite s a l r = (unseenWrite s a l.length r).writeBytes a l := by
  have e : eccTouched (unseenWrite s a l.length r) a l.length = [] := by
    rw [← h]; simp only [eccTouched, unseenWrite_ecc]
  simp [memWrite, e]

end Sys2Proof.Machine
end

