-- ==== Sys2Proof/WellFormed.lean ====
section
/-! DEFINITION. WellFormed.lean: what a command's operands must look like to be one that the surroundings of the device
can send. The meanings are total: they do not rely on these checks. -/

namespace Sys2Proof

/-- A register offset names an aligned word (R4). -/
def wfOffset (o : BitVec 26) : Bool := o.toNat % 4 = 0

/-- An offset of a broadcast or group window (Table 1.3). -/
def wfWindow (o : BitVec 26) : Bool :=
  wfOffset o && (0x00E0_0000 ≤ o.toNat && o.toNat < 0x00F2_0000 || 0x0200_0000 ≤ o.toNat && o.toNat < 0x0290_0000)

/-- A PRB, or a block of a link, has 12 samples of two parts (R274, R308). -/
def wfPrb (d : PrbData) : Bool := d.mant.length = 24

/-- A section carries PRB data of the right shape. -/
def wfSection (x : Section) : Bool := x.prbs.all wfPrb

/-- What a frame carries. -/
def wfBody : FrameBody → Bool
  | .ecpri m => m.seq < 256 && match m.payload with
    | .oran _ _ _ symbol xs => symbol < 64 && xs.all wfSection
    | .link _ _ blocks => blocks.all wfPrb
  | .ptp m => m.seq < 65536
  | .other _ => true

/-- A BAR2 request moves 1 to 4,096 bytes and does not cross a 4 KiB boundary (the PCIe base specification; log
entry 9). -/
def wfBar2 (r : Bar2Request) : Bool :=
  let n := if r.write then r.data.length else r.len
  1 ≤ n && r.offset.toNat % 4096 + n ≤ 4096

/-- A reading of the power monitors has a value for each physical tile (R423). -/
def wfPower (r : PowerReading) : Bool := r.tiles.length = 17

/-- The operands of a command are such as can be sent. -/
def Instr.wf : Instr → Bool
  | .registerWrite _ o _ => wfOffset o
  | .commit _ o _ => wfOffset o
  | .bcastWrite _ o _ => wfWindow o
  | .bcastRead o => wfWindow o
  | .registerRead o => wfOffset o
  | .bar2Access r => wfBar2 r
  | .ethernetFrameRx _ f => wfBody f.body
  | .bridgeCreditExchange held => held.length = 13
  | .lockstepRecord _ _ _ rows => rows.length = 32
  | .powerReading r => wfPower r
  | .vddMonitorPeriod mv => mv.length = 4
  | .thermalReading temps => temps.length = 24
  | .bridgePeerAccess r => if r.write then !r.bytes.isEmpty && r.bytes.all (·.1 < r.len) else r.bytes.isEmpty
  | .jtagExtest chain => !chain.isEmpty
  | .jtagSamplePreload chain => !chain.isEmpty
  | _ => true

end Sys2Proof
end

