-- ==== Sys2Proof/Tests/Slice0.lean ====
section
/-! SUPPORT. Slice0.lean: tests of single commands, ill-formed operands refused, and for every statement with hypotheses
a state and operands that meet them. -/

namespace Sys2Proof.Tests

set_option Elab.async false

open Sys2Proof Sys2Proof.Machine

/-! ### Small states -/

/-- After lock of the root PLL: the units act. -/
def up : State := State.reset.setReg 0x5_0000 (State.reset.reg 0x5_0000 ||| 1)
/-- The host reaches the device too. -/
def hosted : State := { up with host := { up.host with inReset := false, linkTraining := true } }
/-- Frozen by its pin. -/
def frozen : State := { hosted with dbg := { hosted.dbg with pin := true, frozen := true } }
/-- Core 0 in RUN with some fields. -/
def running (c : DigitCore) : State := up.setCore 0 { c with status := .run }
/-- A job in slot 0. -/
def withJob (s : State) (st : JobState) (b : BoundImage := {}) : State := s.setJob 0 { state := st, number := 1, image := b }
/-- One error in handling at one recovery level, on tile 0. -/
def handling (s : State) (code level : Nat) (part : Word := 5) : State :=
  { s with integ := { s.integ with
      handling := [⟨code, 2, level, false, 1, 0, part, 0, 0, 0⟩], recoveries := [⟨level, 0⟩] } }
/-- A command for Mequel with some bytes at their offsets. -/
def entry (code : Nat) (l : List (Nat × Nat)) : List Byte :=
  (List.range 64).map fun i => if i = 0 then BitVec.ofNat 8 code else BitVec.ofNat 8 (((l.find? (·.1 = i)).map (·.2)).getD 0)
/-- That command at the head of the queue. -/
def commanded (s : State) (c : List Byte) : State := { s with sub := { s.sub with commands := [c] } }
/-- 64 descriptor bytes with some fields: offset and byte. -/
def desc (l : List (Nat × Nat)) : List Byte :=
  (List.range 64).map fun i => BitVec.ofNat 8 (((l.find? (·.1 = i)).map (·.2)).getD 0)

/-- The job in slot 0 has tallies 0 to 9, and the core of tile 0 runs with 1 in s1. -/
def named (c : DigitCore) : State :=
  (running { c with s := [(1, 1)] }).setJob 0
    { state := .running, number := 1, image := { nsLen := 10 } }

/-! ### Ill-formed operands are refused, and no word spells a command -/

theorem test_wf_register : (Instr.registerWrite .pcie 2 0).wf = false ∧ (Instr.registerWrite .pcie 4 0).wf = true ∧
    (Instr.commit .pcie 1 0).wf = false ∧ (Instr.registerRead 3).wf = false := by decide
theorem test_wf_window : (Instr.bcastWrite .pcie 0x200_0002 0).wf = false ∧ (Instr.bcastRead 4).wf = false := by decide
theorem test_wf_bar2 : (Instr.bar2Access ⟨0, true, [], 1⟩).wf = false ∧
    (Instr.bar2Access ⟨4095, false, [], 2⟩).wf = false ∧ (Instr.bar2Access ⟨4095, false, [], 1⟩).wf = true := by decide
/-- A frame with a body. -/
def frame (b : FrameBody) : EthFrame := ⟨0, 0, true, 64, b⟩
/-- A U-plane message of one section with one PRB of n mantissas, of symbol k. -/
def oneSection (seq k n : Nat) : FrameBody :=
  .ecpri ⟨1, false, 0, 0, seq, true, .oran 0 0 0 k [⟨1, false, 0, 1, 0, 16, 49, [⟨0, List.replicate n 0⟩]⟩]⟩
theorem test_wf_frame : (Instr.ethernetFrameRx 0 (frame (oneSection 256 0 24))).wf = false ∧
    (Instr.ethernetFrameRx 0 (frame (oneSection 0 64 24))).wf = false ∧
    (Instr.ethernetFrameRx 0 (frame (oneSection 0 0 23))).wf = false ∧
    (Instr.ethernetFrameRx 0 (frame (.ecpri ⟨1, false, 0, 0, 0, true, .link 0 0 [⟨0, []⟩]⟩))).wf = false ∧
    (Instr.ethernetFrameRx 0 (frame (.ptp ⟨.sync, 0, 0, 0, 65536, false, 0, 0, 0⟩))).wf = false ∧
    (Instr.ethernetFrameRx 0 (frame (oneSection 255 13 24))).wf = true := by decide
theorem test_wf_exchange : (Instr.bridgeCreditExchange []).wf = false ∧
    (Instr.lockstepRecord 0 0 0 []).wf = false := by decide
theorem test_wf_power : (Instr.powerReading ⟨[], 0, 0, 0, 0, 0, 0, 0, 0⟩).wf = false ∧
    (Instr.vddMonitorPeriod [700]).wf = false ∧ (Instr.thermalReading [30]).wf = false := by decide
theorem test_wf_peer : (Instr.bridgePeerAccess ⟨0, 0, false, true, 0, 4, []⟩).wf = false := by decide
theorem test_wf_scan : (Instr.jtagExtest []).wf = false ∧ (Instr.jtagSamplePreload []).wf = false := by decide
theorem test_no_word : ∀ n w, decodeTableWord n w = none := fun _ _ => rfl

/-! ### Single commands -/

/-- DEVICE_ID reads as the value of Table 1.3, and a reserved offset as 0 (R34). -/
theorem test_read : (match exec (.registerRead 0x00B0_0000) hosted with
    | .next t => t.host.reply
    | _ => none) = some ⟨.success, [0, 0, 0, 0]⟩ := by decide
/-- ADD wraps modulo 2^32. -/
theorem test_dc_add : (match exec (.dcAdd 0 ⟨3, 1, 2, 0⟩) (running { s := [(1, 0xFFFF_FFFF), (2, 2)] }) with
    | .next t => sReg (t.core 0) 3
    | _ => 0) = 1 := by decide
/-- A tally saturates at 2^31 − 1 (R240). -/
theorem test_tally_saturates : (match exec (.tallyAddWrite .ledger 5 9) (up.setTally 5 ⟨0x7FFF_FFFE, false, false, 7⟩) with
    | .next t => t.tally 5
    | _ => ⟨0, false, false, 0⟩) = ⟨0x7FFF_FFFF, true, false, 7⟩ := by decide
/-- A freeze by the pin stops the counter (R467). -/
theorem test_freeze : (match exec (.freeze true) hosted with
    | .next t => t.live
    | _ => true) = false := by decide

/-! ### Witnesses: for every statement with hypotheses, states and operands that meet those of each of its clauses -/

theorem witness_IdleStepIsBeat : (hosted.pending = [] ∧ hosted.live = true ∧ (∀ k : Fin 16, executes hosted k = false) ∧
      (∀ e < 20, slideQuiet hosted e = true) ∧ (∀ c < 24, (hosted.proof c).running = none) ∧ hosted.integ.batch = none ∧
      hosted.regWrites = []) ∧ (∀ k n, (taskAt hosted k n).copies = []) ∧
    frozen.pending = [] ∧ frozen.dbg.frozen = true ∧ hosted.dbg.stream = none ∧ frozen.dbg.stream = none ∧ frozen.host.held = [] ∧
    (∃ x ∈ (frozen.hold { tile := 15, off := 0, write := false }).host.held, x.write = false) ∧
    State.reset.pending = [] ∧ State.reset.dbg.frozen = false ∧ State.reset.locked = false :=
  ⟨by decide, fun _ _ => rfl, by decide, by decide, by decide, by decide, by decide, by decide, by decide, by decide, by decide⟩

theorem witness_MisalignedAccessStops : (0x3FF_FFFF : BitVec 26).toNat % 4 ≠ 0 ∧ (0x3FF_FFFC : BitVec 26).toNat % 4 = 0 ∧
    ∀ (src : Writer) (o : BitVec 26) (v : Word), Instr.tmSnap ≠ Instr.registerWrite src o v ∧
      Instr.tmSnap ≠ Instr.registerRead o ∧ Instr.tmSnap ≠ Instr.commit src o v ∧ Instr.tmSnap ≠ Instr.bcastWrite src o v ∧
      Instr.tmSnap ≠ Instr.bcastRead o :=
  ⟨by decide, by decide, fun _ _ _ => ⟨nofun, nofun, nofun, nofun, nofun⟩⟩

theorem witness_ReservedAddress : HostUp hosted ∧ (0x00B0_0000 : BitVec 26).toNat % 4 = 0 ∧ regAt 0x00B0_0000 = none ∧
    Unicast hosted 0x00B0_0000 ∧ regAt 0x3FF_FFFC = none ∧ Unicast hosted 0x3FF_FFFC := by
  simp only [HostUp, Unicast]; decide

/-- A staged register, a locked one, and one of the physical tiles. -/
theorem witness_RegisterWriteByField : HostUp hosted ∧
    ∀ o ∈ [0x10_000C, 0x70_0000, 0x300_0004], ordinary o = true ∧ o % 4 = 0 ∧ Unicast hosted o ∧ fieldsAt o ≠ [] := by
  simp only [HostUp, Unicast]; decide

theorem witness_StagedUntilCommit : HostUp hosted ∧ ordinary 0x10_000C = true ∧ hookFree 0x10_000C = true ∧
    lockedMask 0x10_000C = 0 ∧ stagedMask 0x10_000C ≠ 0 ∧ commitOf 0x10_000C = some 0x10_00FC ∧
    Unicast hosted 0x10_000C ∧ Unicast hosted 0x10_00FC ∧ bit (1 : Word) 0 = true ∧ bit (0xFFFF_FFFE : Word) 0 = false := by
  simp only [HostUp, Unicast]; decide

/-- A running job keeps IG_CTL; one write changes a locked field of it, one does not. -/
theorem witness_LockedWriteRefused : let s := withJob hosted .running
    HostUp s ∧ ordinary 0x70_0000 = true ∧ Unicast s 0x70_0000 ∧ kIdle s 0x70_0000 = false ∧ validEntries s < 64 ∧
    s.integ.overflow = [] ∧ s.integ.batch = none ∧ s.flag (dbgBase + 8) 8 = false ∧
    lockedMask 0x70_0000 &&& (s.reg 0x70_0000 ^^^ s.reg 0x70_0000) = 0 ∧
    lockedMask 0x70_0000 &&& (s.reg 0x70_0000 ^^^ ~~~(s.reg 0x70_0000)) ≠ 0 := by
  simp only [HostUp, Unicast]; decide

/-- The tiles' broadcast window, and a group window without members; the words of the members agree, and with one client
tag changed they do not. -/
theorem witness_BroadcastAccesses : HostUp hosted ∧
    windowOf hosted 0x200_0010 = some (List.range 16, fun t => tileBase t + 0x10) ∧
    (∀ m ∈ List.range 16, ordinary (tileBase m + 0x10) = true ∧ lockedMask (tileBase m + 0x10) = 0 ∧
      Unicast hosted (tileBase m + 0x10)) ∧
    windowOf hosted 0x210_0010 = some ([], fun t => tileBase t + 0x10) ∧
    (∀ m ∈ List.range 16, ∀ k ∈ List.range 16, regView hosted (tileBase m + 0x10) = regView hosted (tileBase k + 0x10)) ∧
    ∃ m ∈ List.range 16, ∃ k ∈ List.range 16, regView (hosted.setReg (tileBase 15 + 0x10) 3) (tileBase m + 0x10)
      ≠ regView (hosted.setReg (tileBase 15 + 0x10) 3) (tileBase k + 0x10) := by
  simp only [HostUp, Unicast]
  refine ⟨by decide, rfl, by decide, rfl, by decide, by decide⟩

theorem witness_HeldAccessesWait : let s := handling hosted eBoardUncorr 3
    HostUp s ∧ windowOf s 0x100_0010 = none ∧ windowTile 0x100_0010 = some 0 ∧ s.swapping 0 = true ∧
    ∀ b : Bool, let x : HeldAccess := { tile := 0, off := 0x100_0010, write := true, broadcast := b }
      let u := hosted.hold x
      u.live = true ∧ u.swapping 0 = false ∧ x.bar2 = false ∧ u.host.held = [x] := by
  simp only [HostUp]; decide

/-- HBM trained, its lowest byte written, and a board; the word at the end of HBM, and an address that is none. -/
theorem witness_Bar2Accesses : let s := hosted.setFld (hbmBase + 4) 1 0 2
    let w : Bar2Request := ⟨0, true, [1, 2], 0⟩
    let r : Bar2Request := ⟨0, false, [], 4096⟩
    let u := { s with host := { s.host with bar2Base := 0x11_0000_0000 } }
    HostUp s ∧ bar2Waits s 0 = none ∧ bar2Store s (s.host.bar2Base + w.offset.toNat) w.data.length = some 0 ∧
    eccTouched s 0 w.data.length = [] ∧ bar2Store s (s.host.bar2Base + r.offset.toNat) r.len = some 0 ∧
    eccTouched s 0 r.len = [] ∧ HostUp u ∧ bar2Waits u 0x11_0000_0000 = none ∧
    bar2Store u (u.host.bar2Base + w.offset.toNat) w.data.length = some (physStore 0 0) ∧ eccTouched u (physStore 0 0) 2 = [] ∧
    MemOk s := by
  simp only [HostUp, MemOk]; decide

theorem witness_SpecialRegisterAccesses : up.live = true ∧ Writer.pcie ≠ Writer.ledger ∧ HostUp hosted ∧
    smbusAcks hosted = true ∧ smbusReaches hosted.dbg.smbOffset = true ∧ smbusReaches 0xF_FFFC = true := by
  simp only [HostUp]; decide

/-- Base 0 is not armed and has a mode, and there is a live carrier or none. -/
def timed (mode : Nat) (live : Bool) : State :=
  ((up.setReg (tbBase 0) 0).setReg (tbBase 0 + 4) (BitVec.ofNat 32 mode)).setReg (carrierBase 0) (if live then 0x8000_0000 else 0)

/-- A tick is due 1 ms after reset, and none at the first beat; base 0 is armed and may be stepped. -/
theorem witness_SlotTickAdvances : (let s := { timed 0 true with counter := 1250000 };
      s.live = true ∧ tickDue s 0 0 = true ∧ tickOf s 0 0 0 = true ∧ tickOf s 1 0 0 = false ∧
        commitsAt s 0 0 0x10_000C = true) ∧
    tickDue { timed 0 true with counter := 1 } 0 0 = false ∧ (timed 0 true).integ.batch = none ∧
    (let s := (timed 0 false).setReg (tbBase 0) 2;
      s.live = true ∧ s.baseBusy 0 = false ∧ tbArmed s 0 = true ∧ mayWriteTime s .pcie 0 = true ∧
        s.reg (tbBase 0 + 0x24 + 4 * b2n true) ≠ 1) := by decide +kernel

theorem witness_RateWriteContinuous : up.live = true ∧ mayWriteTime up .pcie 3 = true ∧
    mayWriteTime (timed 1 false) .pcie 0 = false ∧ (1 : BaseNo) ≠ 0 := by decide

theorem witness_TimeBaseRegisters : let a := (timed 0 false).setReg (tbBase 0) 2
    let b := (timed 0 true).setReg (tbBase 0) 2
    a.live = true ∧ mayWriteTime a .pcie 0 = true ∧ tbArmed a 0 = true ∧ a.baseBusy 0 = false ∧
    b.live = true ∧ mayWriteTime b .pcie 0 = true ∧ b.baseBusy 0 = true ∧ tbArmed (timed 0 false) 0 = false ∧
    tbMode (timed 3 false) 0 = 3 ∧ bits (5 : Word) 2 0 = 5 ∧ bits (4 : Word) 2 0 ≤ 4 := by decide

theorem witness_TimeServoAndEvents : let s := (timed 1 false).setTbase 0 { meas := [65536000] }
    let late := { timed 1 false with counter := 125000000 }
    let pps := (timed 1 false).setReg 0x0020_0400 0x0001_0001
    let full := (timed 1 false).setTbase 0 { meas := [0], rateWrites := List.replicate 16 0 }
    s.live = true ∧ tbMode s 0 ≠ 0 ∧ (s.tbase 0).meas = [65536000] ∧ tbArmed s 0 = false ∧
    tbMode (timed 4 false) 0 = 4 ∧
    ((full.tbase 0).rateWrites.filter fun c => full.counter.toNat < c + beatsPerSecond).length = 16 ∧
    late.live = true ∧ tbMode late 0 = 1 ∧ tbState late 0 ≠ 3 ∧ tbState late 0 ≠ 4 ∧
    (late.tbase 0).lastMeas + max 1 (late.fld (tbBase 0 + 4) 31 24) * 125000000 = late.counter.toNat ∧
    pps.flag 0x0020_0400 0 = true ∧ ppsDue { pps with counter := 1250000000 } = true ∧
    ppsDue { pps with counter := 1250000001 } = false ∧ pps.counter.toNat < pps.dbg.ppsAt + ppsBeats pps ∧
    pps.dbg.ppsAt + ppsBeats pps = { pps with counter := 12500 }.counter.toNat ∧
    (up.setReg 0x0020_0600 1).flag 0x0020_0600 0 = true ∧ synceLink (up.setReg 0x0020_0600 1) = true := by decide +kernel
/-- However long the slave port waits for Announce messages, it hears a master whose message comes at this beat. -/
theorem witness_TimeServoAndEvents_ptp :
    let best := (timed 1 false).setTbase 0 { ptp := { best := some (0, 0), heard := 1 } }
    tbMode best 0 = 1 ∧ ((best.tbase 0).ptp.masterAt best.counter.toNat).isSome = true ∧ best.host.downPorts = [] := by
  refine ⟨by decide, ?_, by decide⟩
  show (if decide (0 < 1 + Config.announceTimeout) = true then some (0, 0) else none : Option (Nat × Nat)).isSome = true
  rw [if_pos (by simp)]
  rfl

/-! Submission, completion and jobs. -/

/-- The area runs with room for two entries; PROD stands at p, and the first entry has code and version. -/
def area (p : Nat) (code ver : Nat) : State :=
  ((((up.setReg 0x0010_0000 1).setReg 0x0010_0004 2).setReg 0x0010_0008 0).writeLE prodAt 4 p).writeBytes
    (entryAt 2 0) (entry code [(1, ver)])
/-- An enabled ACCESS carrier 0 of the running job. -/
def served : State := (up.setReg (carrierBase 0) 0x8000_0000).setJob 0 { state := .running, number := 1, ccTag := [0] }
/-- A plan of n slots ahead of slot 0 at the front of the messages taken. -/
def planned (code n : Nat) : TakenPlan := ⟨entry code [(1, 1), (0xC, n)], [], some 0, true⟩

theorem witness_SubmissionAndMessages :
    (let s := area 0 0x10 1;
      s.live = true ∧ subOn s = true ∧ scanStarts s .period = true ∧ s.sub.held = [] ∧ (subProd s - subCons s).toNat = 0) ∧
    subSize (area 3 0x10 1) < (subProd (area 3 0x10 1) - subCons (area 3 0x10 1)).toNat ∧
    (let s := area 1 0x50 1;
      let l := subEntry s (subCons s);
      (subProd s - subCons s).toNat = 1 ∧ 1 ≤ subSize s ∧ entryVer l = 1 ∧ entryCode l ∈ commandCodes ∧
        s.sub.commands.length < 256) ∧
    (let s := area 1 0x10 2;
      (subProd s - subCons s).toNat = 1 ∧ entryKnown (subEntry s (subCons s)) = false) ∧
    (let s := (hosted.setReg 0x1_0010 5).setReg 0x0010_0000 0;
      s.live = true ∧ bootStage s = 5 ∧ subOn s = false) ∧
    served.live = true ∧ served.ccEnabled 0 = true ∧ served.ccLink 0 = false ∧
    (∀ ul : Bool, let p := planned (if ul then 0x20 else 0x21) 1
      entryCode p.header = (if ul then 0x20 else 0x21) ∧ p.m = some 0 ∧ field p.header 8 1 < 24 ∧
        planAhead p.header 0 = 1 ∧ planCause served 0 ul p = 0) ∧
    planAhead (planned 0x20 0).header 0 = 0 ∧ planAhead (planned 0x20 2).header 0 = 2 ∧
    (let l := entry 0x23 [(0xD, 4)];
      field l 8 1 < 24 ∧ 1 ≤ field l 0xC 2 ∧ field l 0xA 2 + field l 0xC 2 = 1024) := by decide +kernel

theorem witness_CompletionEntries : let x : CplEntry := ⟨7, 2, 0, []⟩
    let s := ((up.setReg (cplBase 7 + 0x14) 1).setReg (cplBase 7 + 8) 1).onCpl fun c => { c with queue := [x] }
    let u := ((up.setReg (msixOff 0 + 12) 0).setReg (cplBase 7 + 0x14) 0).onCpl fun c => { c with unsignalled := [(7, 1)] }
    s.live = true ∧ cplWaiting s 7 = some x ∧ cplRoom s 7 = true ∧ (s.reg (cplBase 7 + 8)).toNat = 1 ∧
    u.live = true ∧ u.host.downPorts = [] ∧ tget (fun _ => 0) u.cpl.unsignalled 7 ≠ 0 ∧
    u.flag (msixOff (u.fld (cplBase 7 + 0x14) 13 8) + 12) 0 = false := by decide

theorem witness_JobResidency :
    (let c := entry 0x10 ([(0x20, 0xFF)] ++ (List.range 24).map fun i => (0x28 + i, 0xFF));
      let s := commanded up c;
      let s' := s.onSub fun q => { q with commands := [] }
      s.live = true ∧ s.sec.handover = none ∧ s.sub.commands = [c] ∧ entryCode c = 0x10 ∧ loadBad s' c = false ∧
        loadSlot s' c = some 0 ∧ loadBad s' (entry 0x10 [(0x20, 4)]) = true) ∧
    (let s := withJob up .loaded;
      s.live = true ∧ (s.job 0).state = .loaded ∧ (imgHeader (imageOf s 0)).chipCount ≠ 2 ∧ bindFault s 0 ≠ none) ∧
    (let s := up.setJob 3 { state := .loaded, number := 1, pairingSince := some 0 };
      (s.job 3).state = .loaded ∧ (s.job 3).pairingSince = some 0 ∧ (s.job 3).paired = false ∧
        s.counter.toNat < 0 + 12500000000 ∧ 0 + 12500000000 ≤ { s with counter := 12500000000 }.counter.toNat) ∧
    (let c := entry 0x13 [(8, 1)];
      ∀ st ∈ [JobState.ended, .faulted], let s := commanded (withJob up st) c;
        s.sub.commands = [c] ∧ entryCode c = 0x13 ∧ slotOfJob s (field c 8 2) = some 0 ∧ (s.job 0).state = st) := by decide

/-- Job 2 in slot 3 awaits JOB_RUN, and a job in slot 0 stands in a state. -/
def toRun (st one : JobState) : State :=
  commanded ((withJob up one).setJob 3 { state := st, number := 2 }) (entry 0x11 [(8, 2)])
/-- One recorded peer read of slot k on tile 15. -/
def shadowed (s : State) (k : Nat) : State :=
  s.onBridge fun b => { b with shadowReads := [(16 * k + 15, [⟨0, 0, 0, 1, 0, false⟩])] }

theorem witness_JobsRunAndEnd :
    (∀ st ∈ [JobState.bound, .preempted], ∀ one ∈ [JobState.running, .ended],
      (toRun st one).live = true ∧ (toRun st one).sec.handover = none ∧ entryCode (entry 0x11 [(8, 2)]) = 0x11 ∧
        slotOfJob (toRun st one) (field (entry 0x11 [(8, 2)]) 8 2) = some 3 ∧ field (entry 0x11 [(8, 2)]) 0xA 1 ≤ 1 ∧
        ((toRun st one).job 3).state = st ∧ (toRun st .ended).anyRunning = false ∧
        ((List.range 4).all fun i => (List.range 4).all fun j => ((toRun st one).job i).state != .running ||
          ((toRun st one).job j).state != .running || i == j) = true ∧
        (toRun st one).ecc = [] ∧ (toRun st one).integ.recoveries = [] ∧
        ∀ k < 16, peerReads (toRun st one) 3 k = [] ∧ (∀ ch < 32, ((toRun st one).chan k ch).held = []) ∧
          executes (toRun st one) k = false ∧ tileStopped (toRun st one) k = true) ∧
    (let s := (toRun .bound .running).setCore 0 { status := .run };
      executes s 0 = true ∧ heldOff (s.core 0) = false ∧ (s.core 0).irq &&& 3 = 0) ∧
    (let s := (toRun .bound .running).setCore 0 { status := .run, delay := some ⟨none, 2⟩ };
      s.anyRunning = true ∧ s.integ.recoveries = [] ∧ executes s 0 = true ∧ heldOff (s.core 0) = true) ∧
    (let s := handling (toRun .bound .running) eBoardUncorr 2; s.anyRunning = true ∧ s.integ.recoveries ≠ []) ∧
    (∀ st ∈ [JobState.running, .preempted, .bound], entryCode (entry 0x12 [(8, 1)]) = 0x12 ∧
      slotOfJob (withJob up st) (field (entry 0x12 [(8, 1)]) 8 2) = some 0 ∧ ((withJob up st).job 0).state = st) ∧
    (withJob up .running).runningSlot = some 0 := by decide
theorem witness_JobsRunAndEnd_timeouts :
    leaseOf (up.onInteg fun g => { g with leases := [(127, some { deadline := 0 })] }) 127 = some { deadline := 0 } ∧ 0 ≤ up.counter.toNat ∧
    (shadowed up 3).runningSlot = none ∧
    (∀ j < 3, tget (fun _ => []) (shadowed up 3).bridge.shadowReads (16 * j + 15) = []) ∧
    tget (fun _ => []) (shadowed up 3).bridge.shadowReads (16 * 3 + 15) = [⟨0, 0, 0, 1, 0, false⟩] ∧ (shadowed up 3).ecc = [] ∧
    (shadowed (withJob up .running) 0).runningSlot = some 0 ∧
    tget (fun _ => []) (shadowed (withJob up .running) 0).bridge.shadowReads 15 = [⟨0, 0, 0, 1, 0, false⟩] ∧
    (let s := up.onBridge fun b => { b with recallPending := [3] };
      s.live = true ∧ s.bridge.recallPending = [3] ∧ s.bridge.outstanding = [] ∧ s.bridge.sigQ = [] ∧ s.bridge.txQ = [] ∧
        s.channels = [] ∧ tget (fun _ => 0) s.bridge.recallSince 3 = 0 ∧ s.counter.toNat < 0 + 25000 ∧
        0 + 25000 ≤ { s with counter := 25000 }.counter.toNat ∧ s.counter.toNat < s.bridge.runSince + 2500000 ∧
        s.bridge.runSince + 2500000 ≤ { s with counter := 2500000 }.counter.toNat) := by
  decide

/-! Digit cores. -/

theorem witness_DcScalars : DcGo (running {}) 0 ∧
    (⟨31, 1, 2, 0⟩ : DcR).func = 0 ∧ shiftReserved ⟨1, 2, 0, 0x41F⟩ = false ∧ shiftReserved ⟨1, 2, 3, 0⟩ = false ∧
    (⟨0, 1, 2, 47⟩ : DcR).func.toNat < 48 ∧ relation 5 0 0 = some true ∧
    (⟨1, 2, 3, 0x7C0⟩ : DcR).func.toNat / 2 % 32 = 0 ∧ sIndex {} 1 ≠ sIndex {} 31 := by
  simp only [DcGo]; decide

/-- Address register 0 holds the last word of the board, register 1 its first. -/
def atEdge : State := running { p := [(0, 0x11F_FFFC), (1, 0)], s := [(1, 5)] }

theorem witness_DcMemoryAndAccumulators : DcGo atEdge 0 ∧ atEdge.ecc = [] ∧
    accessOk (pattern 32 ((pReg (atEdge.core 0) 0).toNat + (0 : Int))) 4 = true ∧
    accessOk (pattern 32 ((pReg (atEdge.core 0) 0).toNat + (3 : Int))) 1 = true ∧
    postModify (pReg (atEdge.core 0) 0).toNat (qReg (atEdge.core 0) 0) 4 0 ≠ none ∧
    postModify (pReg (atEdge.core 0) 0).toNat (qReg (atEdge.core 0) 0) 4 1 ≠ none ∧
    (0 : BitVec 3) ≠ 1 ∧ accessOk (pReg (atEdge.core 0) 0).toNat 4 = true ∧ accessOk (pReg (atEdge.core 0) 1).toNat 4 = true ∧
    postModify (pReg (atEdge.core 0) 1).toNat (qReg (atEdge.core 0) 1) 4 1 ≠ none ∧
    (7 : BitVec 5).toNat < 8 ∧ (63 : BitVec 11).toNat < 64 := by
  simp only [DcGo]; decide +kernel

theorem witness_DcControl : DcGo (running {}) 0 ∧ ((running {}).core 0).delay = none ∧ ((running {}).core 0).rep = none ∧
    ((running { stack := List.replicate 15 0 }).core 0).stack.length < 16 ∧
    ((running { stack := [4] }).core 0).stack = [4] ∧ (31 : BitVec 18).toNat < 32 := by
  simp only [DcGo]; decide

/-- A pass of one element and a step, from board offset 0x1000 to 0x2000 or rod registers. -/
def onePass (rod step : Nat) : List Byte :=
  desc [(1, 0x10), (9, 0x10), (0x11, 0x20), (0x18, 1), (0x20, if step = 0 then 0 else if step < 8 then 3 else 4),
    (0x21, step), (0x22, rod), (0x23, 1), (0x24, 1)]
/-- A MATVEC of one element, from board offset 0x1000 to 0x2000. -/
def oneSum : List Byte := desc [(1, 0x10), (9, 0x10), (0xD, 0x20), (0x10, 1), (0x14, 1)]
/-- That descriptor at board offset 0 and an array command that names it. -/
def issued (qs : Bool) (w : DWord) (l : List Byte) : State :=
  (running { arrayQ := [⟨qs, w, 0, 0⟩], arrIssued := 1 }).writeBytes (physStore 0 0) l
/-- Such a pass, or MATVEC, in flight. -/
def flight (qs : Bool) (l : List Byte) (withheld : Bool := false) : State :=
  let x : PassInFlight := { cmd := ⟨qs, 0, 0, 0⟩, part := if qs then 4 else 0, desc := l, descAddr := 0, withheld := withheld }
  up.setArray 0 (if qs then { quickSum := [x] } else { passes := [x] })

theorem witness_DcIssues : DcGo (running {}) 0 ∧ arrayOutstanding (running {}) 0 < 16 ∧ rodOutstanding (running {}) 0 < 16 ∧
    (let c : DigitCore := { arrIssued := 16, rodIssued := 16, slideQ := List.replicate 16 0, sumQ := [7] };
      16 ≤ arrayOutstanding (running { c with arrayQ := List.replicate 16 ⟨false, 0, 0, 0⟩ }) 0 ∧
        16 ≤ rodOutstanding (running { c with rodQ := List.replicate 16 ⟨0, 0⟩ }) 0 ∧ c.slideQ.length = 16 ∧
        c.sumQ = [7]) ∧
    (16 : BitVec 16).toNat ≤ 16 ∧ DcGo (named {}) 0 ∧ inNamespace (named {}) (sReg ((named {}).core 0) 1).toNat = true ∧
    inNamespace (named {}) 10 = false ∧ (journalOf (named {}) 0 1).absorbAdds = 0 ∧ (journalOf (named {}) 0 1).absorbSubs = 0 ∧
    (named {}).runningSlot = some 0 ∧ ((named {}).job 0).image.tallies = [] ∧ ((named {}).core 0).signals = [] ∧
    withheldOf (running {}) 0 = [] ∧ (withheldOf (flight true oneSum true) 0).length = 1 ∧
    (let e : Nat × List (Byte × Bool) := (0x2000, [(0, true), (1, false)]);
      e.2 ≠ [] ∧ e.2.countP (!·.2) = (withheldOf (flight true oneSum true) 0).countP (drainsTo · e.1)) ∧
    signalReady (named {}) 0 ⟨1, 0, false, 0, 0, 0⟩ = true ∧ signalsTally (named {}) 0 1 = false ∧
    (let s := named { arrIssued := 1, arrayQ := [⟨false, 0, 0, 0⟩], signals := [⟨1, 0, true, 1, 0, 0⟩] };
      signalReady s 0 ⟨1, 0, false, 1, 0, 0⟩ = false ∧ signalReady s 0 ⟨1, 0, true, 1, 0, 0⟩ = false ∧
        signalsTally s 0 1 = true) ∧
    min (0 : Word).toNat 0x7FFF_FFFF ≤ ((named {}).tally 1).count ∧ ((named {}).tally 1).count < min (1 : Word).toNat 0x7FFF_FFFF
    := by
  simp only [DcGo]; decide

theorem witness_DcStops : DcGo (running {}) 0 ∧ (⟨0, 0, 0, 1⟩ : DcR).func ≠ 0 ∧
    DcGo (running { delay := some ⟨none, 2⟩ }) 0 ∧ DcGo (running { rep := some ⟨0, 0, 1, 0, 0, false⟩ }) 0 ∧
    accessOk (pattern 32 ((pReg {} 0).toNat + (-1 : Int))) 1 = false ∧ accessOk (pattern 32 ((pReg {} 0).toNat + (2 : Int))) 4 = false ∧
    (let c : DigitCore := { status := .stall, irq := 12 }; firstIrq c = some 2 ∧ c.delay = none ∧ c.rep = none) ∧
    (let s := up.setCore 0 { status := .held }; (s.core 0).status = .held ∧ s.flag (dbgBase + 0xC) 0 = false) ∧
    (let s := (running { irq := 1, holdoff := [(0, 1)] }).setReg (dcBase 0 + 0xC) 1;
      s.live = true ∧ overdueRequest s 0 = some 0 ∧ (s.core 0).irq = BitVec.ofNat 4 (2 ^ 0) ∧
        (s.core 0).holdoffLogged = 0 ∧ s.fld (dcBase 0 + 0xC) 15 0 = 1 ∧ holdoffOf (s.core 0) 0 = 1) ∧
    up.swapping 0 = false := by
  simp only [DcGo]; decide +kernel

theorem witness_DcFrame : ∃ u, exec (.dcAdd 0 ⟨3, 1, 2, 0⟩) (running {}) = .next u := ⟨_, rfl⟩

/-! Bead arrays and Quick Sum paths. -/

theorem witness_ArrayAdmission : let s := issued false 0 (onePass 0 0)
    let l := s.readBytes (s.boardStore 0 (arrDesc 0)) 64
    let f := issued false 0 (desc [])
    s.live = true ∧ s.ecc = [] ∧ (s.core 0).signals = [] ∧ (s.core 0).arrayQ = [⟨false, 0, 0, 0⟩] ∧
    rodHeld s 0 = false ∧ rodHeld (s.setCore 0 { s.core 0 with status := .held, heldBy := some 2 }) 0 = true ∧
    presenting s 0 0 = none ∧ (presenting (flight false (onePass 0 0)) 0 0).isSome = true ∧ lsAhead s 0 = false ∧
    depsMet s 0 ⟨false, 0, 0, 0⟩ = true ∧ arrPart 0 < partCount s 0 ∧ partStopped s 0 0 = false ∧ partWithheld s 0 0 = false ∧
    mapPending s 0 0 = false ∧ onBoard (arrDesc 0) 64 = true ∧ passCause s 0 0 0 (passDesc l) = none ∧
    passCause f 0 0 0 (passDesc (f.readBytes (f.boardStore 0 (arrDesc 0)) 64)) = some 0 ∧
    passCause s 0 0 0 (passDesc (onePass 0 1)) = none ∧ passCause s 0 0 0 (passDesc (onePass 0 9)) = some 2 ∧
    partStopped (s.setReg (baBase 0 + 0x18) 1) 0 0 = true ∧ onBoard 0x11F_FFC0 64 = true := by
  decide +kernel
theorem witness_ArrayAdmission_matvec : let s := issued true 0 oneSum
    let l := s.readBytes (s.boardStore 0 (arrDesc 0)) 64
    s.live = true ∧ (s.core 0).arrayQ = [⟨true, 0, 0, 0⟩] ∧ lsAhead s 0 = false ∧ depsMet s 0 ⟨true, 0, 0, 0⟩ = true ∧
    rodHeld s 0 = false ∧ (s.core 0).signals = [] ∧ qsPresenting s 0 = false ∧ qsPresenting (flight true oneSum) 0 = true ∧
    partStopped s 0 4 = false ∧ qsCause 0 (qsDesc l) = none ∧
    qsCause 0 (qsDesc (desc [])) = some 0 ∧ partStopped (s.setReg (baBase 0 + 0x18) 16) 0 4 = true := by
  decide +kernel

theorem witness_ArrayResults : (∀ rod ∈ [0, 0x80], let s := flight false (onePass rod 0);
      let d := passDesc (onePass rod 0);
      s.live = true ∧ s.ecc = [] ∧ lsActive s 0 = false ∧ (s.core 0).signals = [] ∧
        rodHeld s 0 = false ∧ passOnBoard d = true ∧ (nextPass s 0 0).isSome = true ∧ 1 ≤ d.rows ∧ d.rows ≤ 32 ∧
        1 ≤ d.cols ∧ d.cols ≤ 32 ∧ d.dtype ≤ 2 ∧ stepWrites d.step = true ∧ d.dRod = decide (rod ≠ 0)) ∧
    (passDesc (desc [(0x14, 1), (0x23, 1), (0x24, 1)])).cols * stepParts 0 * dBytes 0 ≤
      (passDesc (desc [(0x14, 1), (0x23, 1), (0x24, 1)])).dStride ∧
    stepWrites (passDesc (onePass 0 1)).step = false ∧
    (flight true oneSum).live = true ∧ lsActive (flight true oneSum) 0 = false ∧ rodHeld (flight true oneSum) 0 = false ∧
    qsOnBoard (qsDesc oneSum) = true ∧
    (∃ x, ((flight true oneSum).array 0).quickSum = [x] ∧ x.withheld = false) ∧ (qsDesc oneSum).dtype ≤ 2 ∧
    (qsDesc oneSum).n ≤ 1048575 := by
  refine ⟨by decide +kernel, by decide +kernel, by decide +kernel, by decide, by decide, by decide, by decide +kernel,
    ⟨_, rfl, rfl⟩, by decide +kernel, by decide +kernel⟩

theorem witness_ArrayErrors : (let s := (flight false (onePass 0 0)).setReg igBase 1;
      s.live = true ∧ s.ecc = [] ∧ rodHeld s 0 = false ∧ (nextPass s 0 0).isSome = true ∧ 0 < (passDesc (onePass 0 0)).rows ∧
        0 < (passDesc (onePass 0 0)).cols ∧ s.flag igBase 0 = true ∧ 2 ≤ (2 : Word).toNat % 65535 ∧
        2 ≤ (65534 : Word).toNat % 65535 ∧ stepWrites (passDesc (onePass 0 0)).step = true ∧
        (255 : Word).toNat % 256 ^ dBytes (passDesc (onePass 0 0)).dtype ≠ 0) ∧
    (let s := (flight false (onePass 0 0)).setReg (baBase 0 + 0x14) 5;
      (s.array 0).passes.any (·.part = 0) = true ∧ s.fld (baBase 0 + 0x14) 15 0 = 5 ∧
        tget (fun _ => false) (s.array 0).timedOut 0 = false) ∧
    (∀ i ∈ [255, 256], let s := (up.setReg (baBase 0) 8).setArray 0 { filler := [(3, { level := 1, idle := i })] };
      presenting s 0 3 = none ∧ fillerLevel s 0 3 = 1 ∧ (fillerOf s 0 3).falls = 0 ∧ (fillerOf s 0 3).idle = i) ∧
    (let s := up.onInteg fun g => { g with rowPending := [(33, some 0)] };
      tget (fun _ => none) s.integ.rowPending (2 * 16 + b2n true) = some 0 ∧ logicalOf s 16 = none ∧
        logicalOf up 0 = some 0 ∧ (up.array 0).passes = []) ∧
    up.swapping 0 = false ∧ arrayIdle up 0 = true ∧ bits (2 : Word) 1 0 ≠ 3 ∧ arrayIdle (withJob up .running) 0 = false ∧
    bits (3 : Word) 1 0 = 3 := by decide +kernel

/-! Rod engines. -/

/-- The word at the head of tile 0's rod queue. -/
def rodReady (w : DWord) : State := running { rodQ := [⟨w, 0⟩], rodIssued := 1 }
/-- A command word of an opcode and a TYPE, with its further bits. -/
def rodWord (op type rest : Nat) : DWord := BitVec.ofNat 64 (op * 2 ^ 58 + type * 2 ^ 54 + rest)

theorem rodReady_starts (w : DWord) (op : Nat) (h : (rodCmd w).op = op ∧ rodBad (rodCmd w) = false ∧ (rodCmd w).depArr = false) :
    RodStarts (rodReady w) 0 op (rodCmd w) := by
  refine ⟨(by decide : up.live = true), rfl, rfl, ⟨w, 0⟩, [], rfl, rfl, h.1, h.2.1,
    (by decide : up.flag (rodBase 0 + 0xC) 0 = false), ?_, ?_, ?_⟩
  · simp only [contestedBy, h.2.2]; rfl
  · intro hd; rw [h.2.2] at hd; cases hd
  · have : rodPosts (rodCmd w) ≤ 2 := by
      unfold rodPosts; split <;> (try split) <;> omega
    show 0 + rodPosts (rodCmd w) ≤ 8
    omega

/-- Opcode, TYPE and further bits of a legal command of each kind. -/
def rodSamples : List (Nat × Nat × Nat) :=
  ([0x08, 0x09, 0x0A, 0x0B, 0x0C, 0x0D, 0x0E, 0x0F, 0x10, 0x11, 0x12, 0x13, 0x14, 0x16, 0x18, 0x19, 0x20, 0x21, 0x22, 0x25,
    0x26, 0x28, 0x29, 0x01, 0x02, 0x00].map fun op => (op, 3, 0)) ++
  ([0x03, 0x04, 0x05, 0x06, 0x07, 0x1A, 0x1B, 0x1C, 0x1D, 0x1E].map fun op => (op, 0, 0)) ++
  [(0x23, 6, 2 * 2 ^ 29), (0x24, 3, 2 * 2 ^ 29), (0x08, 6, 0), (0x0A, 9, 0), (0x15, 3, 6 * 2 ^ 17), (0x31, 3, 0), (0x32, 0, 6 * 2 ^ 17),
    (0x30, 3, 3 * 2 ^ 17), (0x01, 10, 0), (0x02, 10, 0), (0x06, 0, 2 * 2 ^ 49), (0x15, 3, 2 ^ 34 + 6 * 2 ^ 17)]

theorem witness_RodElements : ∀ x ∈ rodSamples, let w := rodWord x.1 x.2.1 x.2.2
    RodStarts (rodReady w) 0 x.1 (rodCmd w) ∧ elemOfRod (rodCmd w).type ≠ none := by
  have h : ∀ x ∈ rodSamples, let w := rodWord x.1 x.2.1 x.2.2;
      ((rodCmd w).op = x.1 ∧ rodBad (rodCmd w) = false ∧ (rodCmd w).depArr = false) ∧ elemOfRod (rodCmd w).type ≠ none := by
    decide +kernel
  exact fun x hx => ⟨rodReady_starts _ _ (h x hx).1, (h x hx).2⟩

theorem witness_RodMovesAndFaults : (rodReady (rodWord 0x01 3 0)).ecc = [] ∧
    (∀ op ∈ [0x01, 0x02], ldrBad {} (rodCmd (rodWord op 3 0)) .int32 = false ∧
      ldrBad {} (rodCmd (rodWord op 3 0x11F_FFC0)) .int32 = false ∧ ldrBad {} (rodCmd (rodWord op 3 0x11F_FFC8)) .int32 = true) ∧
    ldrAddr (rodCmd (rodWord 0x03 0 0x11F_FF80)) % 128 = 0 ∧ onBoard 0x11F_FF80 128 = true ∧
    (rodCmd (rodWord 0x07 0 0)).sb + 4 ≤ boardSize ∧ (rodCmd (rodWord 0x07 0 (2 ^ 27))).sb.testBit 27 = true ∧
    rowBytes .int32 ≤ 64 ∧
    (let s := rodReady (rodWord 0x08 15 0);
      s.live = true ∧ (s.core 0).rodQ = [⟨rodWord 0x08 15 0, 0⟩] ∧ (s.core 0).signals = [] ∧ rodHeld s 0 = false ∧
        rodFaulted s 0 = false ∧
        rodBad (rodCmd (rodWord 0x08 15 0)) = true ∧ (rodCmd (rodWord 0x08 15 0)).op = 0x08 ∧
        rodUses (rodCmd (rodWord 0x3F 0 0)).op = none) ∧
    (∀ op ∈ [0x00, 0x08, 0x01, 0x02, 0x23, 0x3F], let s := rodReady (rodWord op 3 0);
      s.live = true ∧ (s.core 0).signals = [] ∧ rodHeld s 0 = false ∧ rodFaulted s 0 = false ∧
        (rodCmd (rodWord op 3 0)).depArr = false ∧ rodPosts (rodCmd (rodWord op 3 0)) ≤ 8 ∧ (s.core 0).sumQ = []) ∧
    rodHeld ((rodReady (rodWord 0x08 3 0)).setCore 0 { status := .held, heldBy := some 2 }) 0 = true ∧
    rodFaulted ((rodReady (rodWord 0x08 3 0)).setReg (rodBase 0 + 0xC) 1) 0 = true ∧
    (∀ op ∈ [0x00, 0x08, 0x01, 0x02], let q : RodCommand := ⟨rodWord op 3 (2 ^ 31), 1⟩;
      let s := running { rodQ := [q], arrayQ := [⟨false, 0, 0, 0⟩] };
      (rodCmd q.word).depArr = true ∧ arrayDoneBefore s 0 q.arrBefore = false ∧ (rodCmd q.word).op = op) ∧
    (∀ n ∈ [7, 8], let w := rodWord 0x23 3 (2 * 2 ^ 29);
      ¬ ((running { rodQ := [⟨w, 0⟩], sumQ := List.replicate n 0 }).core 0).sumQ.length + rodPosts (rodCmd w) ≤ 8) ∧
    up.swapping 0 = false := by
  refine ⟨by decide, by decide +kernel, by decide +kernel, by decide, by decide, by decide +kernel, by decide,
    by decide +kernel, by decide +kernel, by decide, by decide, by decide +kernel, by decide +kernel, by decide⟩

theorem witness_RodSummaries : (bcastReg (rodReady 0 |>.rod 0) 0).toNat < viewElems .int32 ∧
    (∀ x ∈ [(0x15, 3, 6 * 2 ^ 17), (0x31, 3, 0), (0x32, 0, 6 * 2 ^ 17), (0x30, 3, 3 * 2 ^ 17)],
      let c := rodCmd (rodWord x.1 x.2.1 x.2.2);
      c.op = x.1 ∧ c.zero = false ∧ elemOfRod c.type ≠ none ∧ elemOfRod c.dtype ≠ none) ∧
    (rodCmd (rodWord 0x15 3 (2 ^ 34 + 6 * 2 ^ 17))).zero = true ∧
    (∀ op ∈ [0x20, 0x21, 0x22, 0x28, 0x29], RodStarts (rodReady (rodWord op 3 0)) 0 op (rodCmd (rodWord op 3 0))) ∧
    taken {} (rodCmd (rodWord 0x23 3 (2 * 2 ^ 29))) 0 = true := by
  refine ⟨by decide, by decide +kernel, by decide +kernel, ?_, by decide⟩
  intro op h
  exact (witness_RodElements (op, 3, 0) (by fin_cases h <;> decide)).1

/-! Boards, HBM and slide engines. -/

theorem witness_MemoryUpkeep : (∃ s : State, s.live = true ∧ s.ecc = [] ∧ s.flag (brdBase 15) 0 = true ∧ s.spare = some 16 ∧
      s.flag cbBase 0 = true ∧ s.flag hbmBase 0 = true) ∧
    (let s := { up with writebacks := [(5, List.replicate 8 1)] }; s.live = true ∧ s.writebacks = [(5, List.replicate 8 1)]) ∧
    (up.setFld hbmBase 23 16 1).fld hbmBase 23 16 ≠ 0 ∧ (up.setReg (hbmBase + 0x1C) (2 ^ 31)).flag (hbmBase + 0x1C) 31 = true :=
  ⟨⟨((up.setReg (brdBase 15) 1).setReg cbBase 1).setReg hbmBase 1, by decide⟩, by decide, by decide, by decide⟩

/-- A COPY or STREAM of HBM bytes from 0 to 0x1000 by channel 0, and its 64 bytes. -/
def moving (stream : Bool) (n : Nat) : SlideDesc :=
  { addr := 0, src := 0, dst := 0x1000, len0 := n, n1 := 1, n2 := 1, sstr1 := 0, dstr1 := 0, sstr2 := 0, dstr2 := 0, ringLen := 1,
    ctally := 1, noCtally := false, ktally := 0, noKtally := !stream, channel := 0, cancel := false, stream := stream, tag := 0,
    chmask := 0, no := 0, bad := false }
def copyBytes (n : Nat) : List Byte := desc [(9, 0x10), (0x10, n), (0x14, 1), (0x16, 1), (0x28, 1), (0x2B, 0x80)]
/-- A CANCEL of the descriptors of channel 0 with CTALLY 1. -/
def cancelBytes : List Byte := desc [(0x28, 1), (0x2D, 1), (0x30, 1)]
/-- Tile 0's slide queue names the 64 bytes at board offset 0; its channel 0 is enabled or not; tallies 0 to 9 are the
job's. -/
def queued (l : List Byte) (on : Bool) (q : List SlideDesc) : State :=
  (((named { slideQ := [0] }).writeBytes (physStore 0 0) l).setReg (chBase 0 0) (if on then 0x8010_0000 else 0)).setChan 0 0
    { status := if q.isEmpty then .idle else .active, q := q }

theorem witness_SlideQueues : up.live = true ∧
    (∀ on : Bool, let s := queued (copyBytes 1) on [];
      let l := headBytes s 0 0;
      let d := headDesc s 0 0;
      s.live = true ∧ s.ecc = [] ∧ source s 0 = [0] ∧ descAddrOk 0 d = true ∧ d.cancel = false ∧ slideFieldsOk l d = true ∧
        slideOutside s 0 d = none ∧ slidePrivileged (s.chan 0 d.channel) d = false ∧ chEnabled s 0 d.channel = on ∧
        (s.chan 0 d.channel).q.length < channelLimit 0 ∧ (s.chan 0 d.channel).status = .idle) ∧
    (let s := queued (copyBytes 0) true []; slideFieldsOk (headBytes s 0 0) (headDesc s 0 0) = false) ∧
    ((queued (copyBytes 1) true (List.replicate 128 (moving false 1))).chan 0 0).q.length = channelLimit 0 := by
  decide +kernel
theorem witness_SlideQueues_cancel : (let s := queued cancelBytes true [moving false 1];
      let l := headBytes s 0 0;
      let x := headDesc s 0 0;
      s.live = true ∧ s.ecc = [] ∧ chEnabled s 0 x.channel = true ∧ source s 0 = [0] ∧ descAddrOk 0 x = true ∧ x.cancel = true ∧ slideFieldsOk l x = true ∧
        slideOutside s 0 x = none ∧ x.chmask.testBit 0 = true ∧ x.chmask.testBit 1 = false ∧
        (moving false 1).ctally = x.ctally ∧ selects x 0 { moving false 1 with ctally := 2 } = false) ∧
    (let x : CancelInFlight := ⟨slideDesc cancelBytes 0, 1, []⟩;
      let s := (queued cancelBytes true []).setEngine 0 { cancels := [x] };
      s.live = true ∧ (s.engine 0).cancels = [x] ∧ cancelWaits s 0 x.desc = false ∧
        cancelWaits (s.onBridge fun b => { b with outstanding := [
          { id := 0, engine := 0, channel := 0, addr := 0, write := true, drops := true }] }) 0 x.desc = true ∧ x.credits = [] ∧ (s.core 0).signals = [] ∧ x.desc.noKtally = false ∧ x.desc.ktally = 0 ∧
        (journalOf s 0 0).absorbAdds = 0 ∧ ((s.job 0).image.tallies) = [] ∧ x.desc.chmask.testBit 0 = true) := by
  decide +kernel

/-- The bytes of `moving` lie apart. -/
theorem moving_apart (stream : Bool) (n : Nat) (hn : n ≤ 512) (h0 : 0 < n) (s : State) : Apart s (moving stream n) 0 0 n := by
  have h1 : ∀ i < n, srcStore s (moving stream n) i = some i := by
    intro i hi
    have : srcAddr (moving stream n) i = i := by
      simp only [srcAddr, moving, pattern, Nat.mul_one]
      have := Nat.mod_eq_of_lt hi; have := Nat.div_eq_of_lt hi
      omega
    simp only [srcStore, this, targetOf, hbmSize, if_pos (show i < 0x6_0000_0000 by omega), State.storeOf]
  have h2 : ∀ i < n, dstStore s (moving stream n) 0 i = some (0x1000 + i) := by
    intro i hi
    have : dstAddr (moving stream n) 0 i = 0x1000 + i := by
      simp only [dstAddr, moving, pattern, Nat.mul_one]
      have := Nat.mod_eq_of_lt hi; have := Nat.div_eq_of_lt hi
      split <;> omega
    simp only [dstStore, this, targetOf, hbmSize, if_pos (show 0x1000 + i < 0x6_0000_0000 by omega), State.storeOf]
  refine ⟨fun i _ hi => by simp [h1 i hi, h2 i hi], fun i j _ hi _ hj => ?_⟩
  rw [h1 j hj, h2 i hi, h2 j hj]
  refine ⟨fun h => ?_, fun hne h => ?_⟩ <;> injection h <;> omega

/-- Nothing holds them, and their source is no carrier buffer. -/
theorem moving_open (stream : Bool) (n : Nat) (hn : n ≤ 512) (s : State) (hs : unannounced s 0 = false) :
    Open s (moving stream n) 0 0 n := by
  intro i _ hi
  have hm := Nat.mod_eq_of_lt hi
  have hd := Nat.div_eq_of_lt hi
  have h1 : srcAddr (moving stream n) i = i := by
    simp only [srcAddr, moving, pattern, Nat.mul_one]; omega
  have h2 : dstAddr (moving stream n) 0 i = 0x1000 + i := by
    simp only [dstAddr, moving, pattern, Nat.mul_one]; split <;> omega
  refine ⟨?_, ?_, fun a h => ?_⟩
  · simp only [accessHeld, h1, targetOf, hbmSize, if_pos (show i < 0x6_0000_0000 by omega)]
  · simp only [accessHeld, h2, targetOf, hbmSize, if_pos (show 0x1000 + i < 0x6_0000_0000 by omega)]
  · simp only [srcStore, h1, targetOf, hbmSize, if_pos (show i < 0x6_0000_0000 by omega), State.storeOf, Option.some.injEq] at h
    rw [show a - commonStore 0 = 0 by rw [← h]; simp only [commonStore]; omega]
    exact hs

theorem witness_SlideTransfers : (∀ n ∈ [1, 512], let s := queued [] true [moving false n];
      s.live = true ∧ s.ecc = [] ∧ (s.chan 0 0).q = [moving false n] ∧ chActive s 0 0 = true ∧
        (s.chan 0 0).failed = none ∧ shadowPending s 0 0 = false ∧ (s.chan 0 0).pos < slideTotal (moving false n) ∧
        NoSignals s 0 ∧ Settled (s.chan 0 0) ∧ (s.chan 0 0).taken = (s.chan 0 0).pos / 512 ∧ NoPeer s 0 0 ∧
        blockFree s 0 0 = true ∧ (n - 1) / 512 = (s.chan 0 0).pos / 512 ∧ TokensFor s 0 0 n ∧
        Apart s (moving false n) 0 0 n ∧ Open s (moving false n) 0 0 n) ∧
    (let s := queued [] true [moving false 1024];
      blockFree s 0 0 = true ∧ blockFree (s.setChan 0 0 { s.chan 0 0 with taken := 1 }) 0 0 = true) ∧
    (let s := queued [] true [moving false 1];
      (s.chan 0 0).status = .active ∧ (s.chan 0 0).failed = none ∧ (s.chan 0 0).q = [moving false 1] ∧
        (s.setReg (slideBase 0) 0).fld (slideBase 0) 3 0 = 0 ∧ (s.setReg (slideBase 0) 1).fld (slideBase 0) 3 0 = 1) ∧
    (∀ a ∈ [0, 2 ^ 47 - 1], ∀ n ∈ [0, 3], let s := (((queued [] true []).setReg (slideBase 0) (if a = 0 then 1 else 5)).setChan 0 0
        { status := .active, q := [moving false 1], failed := some (a, n) });
      (s.chan 0 0).status = .active ∧ (s.chan 0 0).failed = some (a, n) ∧ (s.chan 0 0).q ≠ [] ∧
        accessFails s 0 = false ∧ accessFails s (2 ^ 47 - 1) = true ∧
        (if a = 0 then s.fld (slideBase 0) 3 0 ≤ n + 1 else n + 1 < s.fld (slideBase 0) 3 0)) ∧
    up.swapping 0 = false ∧
    (∀ b : Bool, ((up.setChan 0 0 { status := .halted, invalid := b, q := [moving false 1] }).chan 0 0).status = .halted) ∧
    channelIdle up 0 0 = true ∧ channelIdle (queued [] true [moving false 1]) 0 0 = false ∧
    (let s := (queued [] true [moving false 1]).setCore 0 { status := .held, heldBy := some 2 };
      chActive s 0 0 = false ∧ (channelStatus s 0 0).toNat % 8 = 4) := by
  refine ⟨fun n hn => ?_, by decide +kernel, by decide +kernel, by decide +kernel, by decide, by decide, by decide, by decide,
    by decide +kernel⟩
  fin_cases hn <;> exact ⟨by decide, by decide, by decide, by decide, by decide, by decide, by decide,
    fun _ => rfl, ⟨rfl, rfl, rfl, rfl, rfl, rfl⟩, by decide, fun w => by cases w <;> decide,
    by decide, by decide, .inl (by decide), moving_apart false _ (by decide) (by decide) _,
    moving_open false _ (by decide) _ (by decide)⟩

/-- Channel 30 of engine 0 has waited 64 beats for a buffer block, and none was returned; channel 31 holds one and has
read so many bytes into it; the spill area lies in HBM. -/
def stalled (rd : Nat) : State :=
  ((((((up.setReg (chBase 0 30) 0).setReg (slideBase 0) 0x0001_0100).setReg64 (slideBase 0 + 8) 0x1_0000).setChan 0 31
    { status := .active, q := [moving true 512], rd := rd, held := List.replicate rd 1, taken := 1, creditsTaken := 1 }).setChan
      0 30 { status := .active, q := [moving false 512], waited := 64 }).setEngine 0 { quiet := 64 })

theorem witness_SlideStreamFlow : (∀ k : Bool, let s := (((queued [] true [moving true 512]).setFld (chBase 0 0) 15 8 1).setTally 0
        ⟨if k then 1 else 0, false, false, 0⟩);
      let c := s.chan 0 0;
      s.live = true ∧ s.ecc = [] ∧ c.q = [moving true 512] ∧ chActive s 0 0 = true ∧ lacksCredit s 0 0 (moving true 512) = true ∧
        blockFree s 0 0 = true ∧ slideTakes s 0 0 = k) ∧
    (let s := (queued [] true []).setChan 0 0 { status := .active, q := [moving true 512], taken := 1, creditsTaken := 1 };
      let c := s.chan 0 0;
      chActive s 0 0 = true ∧ lacksCredit s 0 0 (moving true 512) = false ∧ c.failed = none ∧ shadowPending s 0 0 = false ∧
        (s.core 0).signals = [] ∧ c.held = [] ∧ c.slots = [] ∧ c.tail = [] ∧ c.rd = c.pos ∧ c.returned = c.pos / 512 ∧
        c.backBlock = false ∧ (∀ w, peerOut s 0 0 w = []) ∧ c.taken = c.pos / 512 + 1 ∧ s.fld (chBase 0 0 + 4) 15 0 = 0 ∧ c.pos % 512 = 0 ∧
        c.pos + 512 = slideTotal (moving true 512)) ∧
    (let s := (queued [] true []).setReg (chBase 0 0) 0x8000_0000;
      let s := s.setFld (chBase 0 0) 27 27 1;
      let s := s.setChan 0 0 { status := .active, q := [{ moving true 1024 with noKtally := true }] };
      let c := s.chan 0 0;
      c.taken = c.pos / 512 ∧ creditHere s 0 0 { moving true 1024 with noKtally := true } = true ∧
        chActive s 0 0 = true ∧ c.pos + 512 < slideTotal (moving true 1024)) ∧
    Apart up (moving true 512) (0 % max 1 (moving true 512).ringLen) 0 (0 + 512) ∧
    Open up (moving true 512) (0 % max 1 (moving true 512).ringLen) 0 (0 + 512) ∧
    (∀ rd ∈ [0, 512], let s := stalled rd;
      s.live = true ∧ s.ecc = [] ∧ detectorFires s 0 = true ∧ detectorFires (s.setEngine 0 { quiet := 63 }) 0 = false ∧
        spillChoice s 0 = some 31 ∧ accessFails s (spillAddr s 0 0) = false ∧ (s.chan 0 31).q = [moving true 512] ∧
        (freeSlots s 0).take (spillable s 0 31).2 = (if rd = 0 then [] else [0]) ∧
        spillStore s 0 0 = some 0x1_0000) ∧
    (let s := ((stalled 0).setReg (chBase 0 31) 0x8000_8000).setChan 0 31 {};
      detectorFires s 0 = true ∧ spillChoice s 0 = none) := by
  refine ⟨by decide +kernel, ⟨by decide, by decide, by decide, by decide, by decide, by decide, by decide, by decide, by decide,
    by decide, by decide, fun _ => rfl, by decide, by decide, by decide, by decide⟩, by decide +kernel,
    moving_apart true 512 (by decide) (by decide) _, moving_open true 512 (by decide) _ (by decide), by decide +kernel,
    by decide +kernel⟩

/-! Radio access. -/

/-- Carrier 0: one PRB, one stream each way, enabled or not, its windows open for 100 µs, its regions 0, 1, 3 and 4 in the
common board; the job in slot 0 serves it, with tallies 1 to 4. -/
def radio (on : Bool) : State :=
  let s := up.setReg (carrierBase 0) ((if on then 0x8000_0000 else 0) ||| 0x4104)
  let s := (s.setReg (carrierBase 0 + 0x10) 0x03E8_0000).setReg (carrierBase 0 + 0x1C) 0
  let s := (s.setReg (carrierBase 0 + 0x84) 0x4000).setReg (carrierBase 0 + 0x88) 0x4000
  let s := (s.setReg (carrierBase 0 + 0x8C) 0x4000).setReg (carrierBase 0 + 0x98) 0x8000
  let s := (s.setReg (carrierBase 0 + 0x9C) 64).setReg (carrierBase 0 + 0xA0) 0xC000
  let s := (s.setReg (carrierBase 0 + 0x40) 0x0002_0001).setReg (carrierBase 0 + 0x44) 0x0004_0003
  (s.setReg (carrierBase 0 + 0x20) 0).setJob 0 { state := .running, number := 1, ccTag := [0], image := { nsLen := 10 } }

theorem witness_CarrierControl : (radio false).live = true ∧ (radio false).ccLive 0 = false ∧
    accessCause ((radio false).setReg (carrierBase 0) (blend (mask 30 2) ((radio false).reg (carrierBase 0)) 0x8000_4104)) 0 = 0 ∧
    accessCause ((radio false).setReg (carrierBase 0) (blend (mask 30 2) ((radio false).reg (carrierBase 0)) 0x8000_0000)) 0 = 1 ∧
    linkCause ((radio false).setReg (carrierBase 0) (blend (mask 30 2) ((radio false).reg (carrierBase 0)) 0xC800_0000)) 0 = 5 ∧
    bit (0xC800_0000 : Word) 30 = true ∧ (radio true).ccLive 0 = true ∧
    (let s := (List.range 8).foldl (fun s c => s.setReg (carrierBase (16 + c)) 0x4000_0000) (radio false);
      8 ≤ linkContexts s ∧ bit (s.reg (carrierBase 0)) 30 = false ∧ s.ccLive 0 = false) ∧ linkContexts (radio false) < 8 := by
  decide +kernel

/-- An item of a kind, of 8 bits; and a plan of it for slot 0. -/
def anItem (kind : Nat) : PlanItem :=
  ⟨kind, 2, 0, 0, 1, 0, 1, 1, 2, 8, 8, 0, 0, 0, 0, 1, 0, 0, false⟩
def aPlan (ul : Bool) (x : ItemState) : Plan := { ul := ul, htag := 7, slot := 0, symMask := 1, beam := 0, items := [x] }
/-- Carrier 0 with that plan. -/
def withPlan (p : Plan) : State := (radio true).setCarrier 0 { plans := [p] }
/-- The section of PRB 0. -/
def aSection : Section := ⟨1, false, 0, 1, 0, 16, 48, [⟨0, List.replicate 24 1⟩]⟩
def aMessage : EcpriMsg := ⟨1, false, 0, 0, 0, true, .oran 0 0 0 0 [aSection]⟩

theorem witness_FronthaulReception : let s := withPlan (aPlan true { item := anItem 0 })
    s.live = true ∧ linkExists s 0 = true ∧ s.portDown (fhPort 0) = false ∧ s.integ.batch = none ∧
    (∀ y < 24, (s.proof y).running = none) ∧
    frameOk s 0 { frame (.ecpri aMessage) with fcsOk := false } = false ∧
    frameOk s 0 { frame (.ecpri aMessage) with dst := linkMac s 0 } = true ∧ ecpriOk aMessage = true ∧
    eaxcCarrier s 0 0 false = some 0 ∧ s.ecc = [] ∧ 0 < ccUl s 0 ∧ aSection.ef = false ∧ aSection.sectionType = 1 ∧
    ulOpen s 0 < ulClose s 0 ∧ ulScheduled s 0 0 0 = true ∧ aSection.startPrb + sectionPrbs s 0 aSection = ccNprb s 0 ∧
    featuresOk s 0 aSection = true ∧ jobServes s 0 = true ∧ decompresses s 0 aSection = true ∧ ccBufOff s 0 0 ≤ symbolAt s 0 0 (ccUl s 0) 0 0 0 ∧
    symbolAt s 0 0 (ccUl s 0) 0 0 0 + 48 ≤ ccBufOff s 0 0 + ccBufSize s 0 0 ∧
    s.ccLive 0 = true ∧ s.ccLink 0 = false ∧ (0, 0) ∉ (s.carrier 0).signalled ∧ -1 ≤ (s.ccSlot 0 - 0).toInt ∧
    (s.ccSlot 0 - 0).toInt < 64 ∧ ulScheduled s 0 0 13 = false ∧ (bitmapOf s 0 0 0 0)[0]? = some false := by decide +kernel
theorem witness_FronthaulReception_slot :
    (match sectionSlot (withPlan (aPlan true { item := anItem 0 })) 0 0 0 0 0 with
      | .ok n => n == 0
      | .error _ => false) = true := by decide +kernel

theorem witness_FronthaulTransmission : let x : ItemState := { item := anItem 0 }
    let f : ItemState := { x with fetched := some [1] }
    let s := withPlan (aPlan false x)
    let e := withPlan (aPlan false { f with encoded := true })
    s.live = true ∧ planOf s 0 false 0 = some (aPlan false x) ∧ (aPlan false x).checked = false ∧ (aPlan false x).cSent = false ∧
    jobServes s 0 = true ∧ jobServes (s.setJob 0 {}) 0 = false ∧ planOf s 0 true 0 = none ∧ s.host.downPorts = [] ∧ itemOf (aPlan false x) 0 = some x ∧ x.fetched = none ∧
    x.withheld = false ∧ itemOf (aPlan false f) 0 = some f ∧ f.encoded = false ∧ earlierEncoded (aPlan false f) 0 = true ∧
    s.ecc = [] ∧ encTally s 0 0 = some 3 ∧ s.runningSlot = some 0 ∧ (aPlan false x).symMask.testBit 0 = true ∧
    ((openItems (aPlan false { f with encoded := true })).all fun x => x.1.item.symStart ≠ 0 || x.1.encoded) = true ∧
    transmitTurn s 0 (aPlan false x) 0 = true ∧ (aPlan false x).windows = [] ∧ s.integ.batch = none ∧
    transmitTurn s 0 { aPlan false x with symMask := 3 } 1 = false ∧ dlReady e 0 = false ∧ dlReady (e.setTally 4 ⟨1, false, false, 0⟩) 0 = true ∧ expectedOf e 0 0 + 1 < 0x4000_0000 := by
  decide +kernel

/-- A decode record of item 0 of slot 0. -/
def aRecord (kind e : Nat) : List Byte := desc [(0, kind), (8, 0), (0xC, e)]
/-- It stands at the head of region 3, and the request tally shows one. -/
def requested (kind itemKind e : Nat) : State :=
  ((withPlan (aPlan true { item := anItem itemKind })).writeBytes (commonStore 0x8000) (aRecord kind e)).setTally 1
    ⟨1, false, false, 0⟩

theorem witness_DecodeUnitWork : (∀ k ∈ [(1, 1, 8), (2, 2, 0), (1, 2, 8)], let s := requested k.1 k.2.1 k.2.2;
      let r := s.readBytes (commonStore (recordAt s 0 0)) 64;
      s.live = true ∧ s.ecc = [] ∧ s.runningSlot = some 0 ∧ reqTally s 0 0 = some 1 ∧
        takenOf s 0 0 < (s.tally 1).count ∧ s.ccLink 0 = false ∧ 64 ≤ ccBufSize s 0 3 ∧ takenOf s 0 0 + 1 < 0x4000_0000 ∧
        recordAt s 0 0 + 64 ≤ commonSize ∧ (recordTarget s 0 r).isSome = decide (k ≠ (1, 2, 8)) ∧ field r 0 1 = k.1) ∧
    (let d : DecodeJob := ⟨0, 0, 0, 0, 1, 0x8000, 0, 8, 1, 0xFFFF_FFFF, 0, 0, some 1⟩;
      let s := { withPlan (aPlan true { item := anItem 1 }) with decodes := [d] };
      s.live = true ∧ s.ecc = [] ∧ jobOfEngine s 1 1 = some d ∧ planOf s d.cc true d.slot = some (aPlan true { item := anItem 1 }) ∧
        itemOf (aPlan true { item := anItem 1 }) d.item = some { item := anItem 1 } ∧ (anItem 1).cbs = 1 ∧
        llrsOk d.llrOff d.e = true ∧ d.record + 64 ≤ commonSize) := by decide +kernel
/-- A new item of one code block, decoded where the soft buffer stands in HBM. -/
theorem witness_DecodeUnitWork_ldpc : let d : DecodeJob := ⟨0, 0, 0, 0, 0, 0x8000, 0, 8, 1, 0xFFFF_FFFF, 0, 0, some 7⟩
    let x : ItemState := { item := anItem 0 }
    let s := { withPlan (aPlan true x) with decodes := [d] }
    s.live = true ∧ s.ecc = [] ∧ jobOfEngine s 0 7 = some d ∧ planOf s d.cc true d.slot = some (aPlan true x) ∧
    itemOf (aPlan true x) d.item = some x ∧ x.item.isNew = true ∧ llrsOk d.llrOff d.e = true ∧ d.offsOff = 0xFFFF_FFFF ∧
    d.record + 64 ≤ commonSize ∧ x.item.cbs = 1 ∧ x.blocks = [] ∧
    softAt x.item (ldpcParam x.item.params d.cb 4) d.cb + ldpcParam x.item.params d.cb 4 ≤ hbmSize := by
  decide +kernel
theorem witness_DecodeUnitWork_deliver : let x : ItemState := { item := anItem 1, blocks := [⟨0, true, 1, List.replicate 8 true, []⟩] }
    ∀ b : Bool, let p := { aPlan true x with tainted := b }
      let s := withPlan p
      s.live = true ∧ planOf s 0 true 0 = some p ∧ itemOf p 0 = some x ∧ p.checked = false ∧ x.answered = false ∧
        itemDecoded x = true ∧ x.item.kind ≤ 1 ∧ cplRoom s (ccRing s 0) = false ∧ s.cpl.queue.length < 65536 ∧
        x.withheld = false := by decide +kernel

/-! Nuzan Link. -/

/-- Carrier 0 is a LINK context, enabled, with a state; burst slot 0 is one that sends where `tx`. -/
def linked (tx : Bool) (l : LinkState) : State :=
  ((up.setReg (carrierBase 0) 0xC000_0000).setReg (carrierBase 0 + 0x400) (if tx then 0x0100_0000 else 0)).setLink 0 l
/-- A burst of one code block to send, that consumes bytes of the queue. -/
def aBurst (n : Nat) : TxBurst := ⟨0, 0, false, 0, 0, 1, [], [1], n⟩
/-- A part of a table. -/
def aPart (k n : Nat) : List Byte := [1, 0, BitVec.ofNat 8 k] ++ List.replicate n 0

theorem witness_LinkTransmission : (linked true {}).live = true ∧ (linked true {}).ccLink 0 = true ∧
    (let s := linked true { txBursts := [aBurst 0] };
      (s.link 0).sending = none ∧ s.host.downPorts = [] ∧ s.flag (carrierBase 0 + 0x400) 24 = true ∧
        (∀ x ∈ (s.link 0).txBursts, 0 ≤ (x.frame - s.ccSlot 0).toInt ∧ 0 ≤ x.slotK) ∧
        ((s.link 0).txBursts.find? fun b => b.frame = s.ccSlot 0 && b.slotK = 0) = some (aBurst 0)) ∧
    (let s := linked false { txBursts := [aBurst 1] };
      (s.link 0).sending = none ∧ (s.link 0).txBursts = [aBurst 1] ∧ (s.link 0).txNext = none ∧
        (aBurst 1).frame = s.ccSlot 0 ∧ (aBurst 1).slotK = 0 ∧ s.flag (carrierBase 0 + 0x400) 24 = false) ∧
    (0 - (1 : Word)).toInt < 0 ∧ (linked false {}).flag (carrierBase 0 + 0x400) 24 = false ∧ (linked false {}).ccEnabled 0 = true ∧
    (let s := linked true { sending := some (aBurst 1) };
      (s.link 0).sending = some (aBurst 1) ∧ (aBurst 1).consumed ≠ 0 ∧ txqStopped s 0 = false ∧ s.ecc = []) ∧
    takeInbox { inbox := [aPart 0 274] } 1 = some (aPart 0 274, []) ∧ partOk (aPart 0 274) = false ∧ partOk (aPart 5 275) = true ∧
    partOk (aPart 6 275) = false ∧ takeInbox { inbox := [[2, 5]] } 2 = some ([2, 5], []) ∧ field [2, 5] 1 1 = 5 ∧ ({ inbox := [[2, 5]] } : LinkState).proposal = none ∧
    (let s := linked true { proposal := some ⟨5, [], 15⟩ };
      (s.link 0).proposal = some ⟨5, [], 15⟩ ∧ s.fld (carrierBase 0 + 0x414) 31 28 ≤ 15) ∧
    txqStopped ((linked true {}).setReg (carrierBase 0 + 0x46C) 3) 0 = true := by decide +kernel

/-- A burst being received in slot 0. -/
def received (n : Nat) (x : Option (List (Int × Int))) : Burst :=
  { slotK := 0, frame := 0, no := 0, multi := false, mcs := 0, ncb := n, blt := 0, seq := 0, samples := x, freq := 0, key := 0,
    gain := 0, rssi := 0, syncEnd := 0 }

/-- What a header's CRC says rests on the equaliser's free values (log entry 8), so no state shows either outcome. -/
theorem witness_LinkReception : (linked false {}).live = true ∧ (linked false {}).ccLink 0 = true ∧
    (let s := linked false { rx := some (0, 0) };
      (s.link 0).rx = some (0, 0) ∧ (s.link 0).gained.length + 16 < burstLen s 0 ∧ (s.link 0).bursts = [] ∧ lkFront s 0 = 0) ∧
    (let s := (linked false { rx := some (0, 0), sinceDetect := 256 }).setFld (carrierBase 0 + 0x448) 9 8 1;
      (s.link 0).rx.isSome = true ∧ lkFront s 0 = 1 ∧ (s.link 0).sinceDetect = 256) ∧
    (let s := (linked false { rx := some (0, 0), syncEnd := some 0, gained := List.replicate 200 (0, 0) }).setFld
        (carrierBase 0 + 0x448) 9 8 2;
      (s.link 0).rx = some (0, 0) ∧ (s.link 0).syncEnd = some 0 ∧ lkFront s 0 = 2 ∧ (s.link 0).gained.length = 200 ∧
        (s.link 0).bursts = [] ∧ (s.link 0).waiting = []) ∧
    ((linked false { waiting := [⟨0, 0, [], 0, 0, 0, 0⟩] }).link 0).waiting = [⟨0, 0, [], 0, 0, 0, 0⟩] ∧
    (let s := linked false { bursts := [received 2 (some [])] };
      linkJob s 0 0 = none ∧ (s.link 0).bursts = [received 2 (some [])] ∧
        linkJob { s with decodes := [⟨0, 0, 0, 0, 3, 0, 0, 0, 1, 0, 0, 0, some 0⟩] } 0 0 =
          some (⟨0, 0, 0, 0, 3, 0, 0, 0, 1, 0, 0, 0, some 0⟩, received 2 (some [])) ∧
        tget (fun _ => none) (received 2 (some [])).blocks 1 = none ∧ (received 2 (some [])).samples.isSome = true) := by
  decide +kernel

/-- A burst slot of which all but the last window has passed since its sync. -/
theorem witness_LinkReception_close : let l : LinkState :=
      { rx := some (0, 0), syncEnd := some 0, gained := List.replicate 30704 (0, 0) }
    let s := ((up.setReg (carrierBase 0) 0xC000_0000).setFld (carrierBase 0 + 0x448) 9 8 2).setLink 0 l
    s.live = true ∧ s.ccLink 0 = true ∧ lkFront s 0 = 2 ∧ s.link 0 = l ∧ l.bursts = [] ∧
      burstLen s 0 ≤ l.gained.length + 16 := by
  refine ⟨rfl, rfl, by rfl, rfl, rfl, ?_⟩
  rw [List.length_replicate]
  exact Nat.le_of_eq rfl

/-! The error log and recovery. -/

theorem witness_LogAndCheckpoints : validEntries up < ((2 : Word) - up.reg 0x1004).toNat ∧
    (let s := ((withJob up .running).setFld igBase 2 2 1);
      s.live = true ∧ s.flag igBase 2 = true ∧ s.anyRunning = true ∧ (s.core 0).status ≠ .halted ∧ heldOff (s.core 0) = false ∧
        ((s.setCore 0 { status := .held }).core 0).status = .held ∧ heldOff { delay := some ⟨none, 1⟩ } = true ∧
        (s.core 0).status = .idle ∧ s.ecc = [] ∧ s.channels = [] ∧ checkpointNow s 0 = false ∧
        checkpointNow ({ s with counter := 10 ^ 9 }.onInteg fun g => { g with ckptDue := [(0, some 0)] }) 0 = true ∧
        (tget (fun _ => []) s.integ.journals 0).length < 224) ∧
    (tget (fun _ => []) (up.onInteg fun g => { g with journals := [(0, List.replicate 224 (0, {}))] }).integ.journals 0).length = 224 := by
  decide +kernel
theorem witness_LogAndCheckpoints_line : ∀ b ∈ [(Board.tile 15, 0, 15, 147455), (.common, 1, 0, 786431)],
    let s := (up.setJob 0 { state := .running, number := 1, image := { readOnly := [(b.2.1, b.2.2.1, 128 * b.2.2.2, 1)] } })
    let s := s.setEcc (rangeStore s (b.2.1, b.2.2.1, 128 * b.2.2.2, 128) / 8) 2
    s.live = true ∧ s.runningSlot = some 0 ∧ boardOf b.1 = some (b.2.1, b.2.2.1) ∧ (b.2.1 = 1 ∨ b.2.2.2 < 147456) ∧
    s.eccOf (rangeStore s (b.2.1, b.2.2.1, 128 * b.2.2.2, 128) / 8 + 0) = 2 ∧
    eccTouched s (boardImageAt 0 b.2.1 b.2.2.1 (128 * b.2.2.2)) 128 = [] ∧
    (b.2.1, b.2.2.1, 128 * b.2.2.2, 1) ∈ repairable (s.job 0).image := by decide +kernel

theorem witness_RecoveryLevels : (let s := (handling (flight false (onePass 0 0) true) eResidue 1 0).setFld igBase 3 3 0;
      s.live = true ∧ lsActive s 0 = false ∧ (s.core 0).signals = [] ∧ (withheldPass s 0 0).isSome = true ∧ (headAt s 1 0 (· = 0)).isSome = true ∧
        s.ecc = [] ∧ (∀ x ∈ (withheldPass s 0 0).toList, pastDeadline s 0 0 x.1 = false ∧ onSpare s 0 x.1 = false ∧
          passOnBoard (passDesc x.1.desc) = true) ∧ (headAt s 1 0 (· = 0)).all (fun r => !wantsReload r) = true) ∧
    (let s := (withPlan (aPlan true { item := anItem 0 }));
      let s := s.setJob 0 { s.job 0 with image := { carrierSets := List.replicate 16 [0] } };
      let s := handling ({ s with counter := 10 ^ 8 }.setArray 0 ((flight false (onePass 0 0) true).array 0)) eResidue 1 0;
      (headAt s 1 0 (· = 0)).isSome = true ∧ ∀ x ∈ (withheldPass s 0 0).toList, pastDeadline s 0 0 x.1 = true) ∧
    (headAt (handling (flight true oneSum true) ePartitionFault 2 4) 2 0 (· = 4)).isSome = true ∧
    (withheldPass (flight true oneSum true) 0 4).isSome = true := by decide +kernel
/-- A saved context of an idle tile. -/
def blankContext : TileContext := ⟨{}, {}, {}, {}, [], 0, 0, 0, [], none, []⟩
/-- Tile 0 of the running job has it as its checkpoint, and is to be restarted, or swapped. -/
def restarting : State :=
  handling ((withJob up .running).onInteg fun g => { g with checkpoints := [(0, some blankContext)] }) eRodException 2
def swappingIt : State := handling (up.onInteg fun g => { g with checkpoints := [(0, some blankContext)] }) eRodException 3

theorem witness_RecoveryLevels_restart : (let c : TileContext := blankContext;
      let s := restarting;
      s.live = true ∧ (headAt s 2 0 (· = 5)).any (fun r => !wantsReload r) = true ∧ s.runningSlot = some 0 ∧
        s.ecc = [] ∧ stoodStill (recoveryStop s 0) 0 = true ∧
        (let u := s.setCore 0 { status := .run, delay := some ⟨none, 1⟩ }; stoodStill (recoveryStop u 0) 0 = false) ∧
        tget (fun _ => none) s.integ.checkpoints 0 = some c) ∧
    (let s := handling up eResidue 3 0;
      s.integ.handling ≠ [] ∧ s.integ.recoveries = [⟨3, 0⟩] ∧ s.counter.toNat < 0 + 25000 ∧
        0 + 25000 ≤ { s with counter := 25000 }.counter.toNat) := by decide +kernel

/-- Memory can be such that tile 0's checkpoint area holds the bytes of its checkpoint. -/
theorem witness_RecoveryLevels_image : ∃ m : List Host.Cell, let s := { restarting with mem := m }
    (s.live = true ∧ (headAt s 2 0 (· = 5)).any (fun r => !wantsReload r) = true ∧ s.runningSlot = some 0 ∧ s.ecc = [] ∧
      stoodStill (recoveryStop s 0) 0 = true ∧ tget (fun _ => none) s.integ.checkpoints 0 = some blankContext) ∧
    (discardSlides (recoveryStop s 0) 0).readBytes (checkpointArea 0) contextSize = contextBytes (loadTile
      (discardSlides (recoveryStop s 0) 0) 0 { blankContext with array := freshPasses blankContext.array }) 0 := by
  have k : restarting.live = true ∧ (headAt restarting 2 0 (· = 5)).any (fun r => !wantsReload r) = true ∧
      restarting.runningSlot = some 0 ∧ restarting.ecc = [] ∧ stoodStill (recoveryStop restarting 0) 0 = true ∧
      tget (fun _ => none) restarting.integ.checkpoints 0 = some blankContext := by decide +kernel
  obtain ⟨m, h⟩ := image_exists restarting 0 { blankContext with array := freshPasses blankContext.array }
    (by decide +kernel) (by decide +kernel)
  have e := recoveryStop_idle { restarting with mem := m } 0 (show (restarting.core 0).status = .idle by decide +kernel)
  rw [recoveryStop_idle restarting 0 (by decide +kernel)] at k
  refine ⟨m, ?_⟩
  intro s
  rw [show recoveryStop s 0 = s from e]
  rw [e] at h
  revert s h k
  generalize restarting = r
  exact fun k h => ⟨k, h⟩

theorem witness_SelfTestsAndSwaps : bit (1 : Word) 0 = true ∧ up.roleOf 16 ≠ 0 ∧ up.roleOf 15 = 0 ∧
    (let s := (up.onInteg fun g => { g with bist := [(16, true)], role := [(16, 2)] });
      s.integ.bist.find? (fun b => decide (b.1 = 16)) = some (16, true) ∧ s.roleOf 16 = 2 ∧
        s.integ.fusedOut ≠ some 16 ∧ s.spare = none ∧ halfServes s 16 [] false = true ∧ halfServes s 16 [] true = true) ∧
    (let s := (up.onInteg fun g => { g with swapDue := [0] });
      s.live = true ∧ s.spare = some 16 ∧ s.roleOf (s.physOf 0) = 0 ∧ s.integ.swapDue.contains (s.physOf 0) = true ∧
        s.integ.recoveries = [] ∧ s.integ.handling = [] ∧ Memory.wf s.mem = true ∧ s.ecc = [] ∧ s.channels = [] ∧
        stoodStill (recoveryStop s 0) 0 = true) ∧
    (halfFails [16, 33] false = [16] ∧ halfFails [16, 33] true = [33] ∧ halfServes up 16 [16, 33] false = true ∧
      halfServes up 16 [16, 33] true = true) ∧
    (let s := swappingIt;
      (headAt s 3 0 (fun _ => true)).any (fun r => !trustedSwap r) = true ∧ (tget (fun _ => none) s.integ.checkpoints 0).isSome = true ∧
        s.ecc = [] ∧ s.channels = [] ∧ stoodStill (recoveryStop s 0) 0 = true) := by
  decide +kernel

/-- The same for a swap of tile 0 onto the spare. -/
theorem witness_SelfTestsAndSwaps_image : ∃ m : List Host.Cell, let s := { swappingIt with mem := m }
    let w := remapTile (abandonOn (flushTile (recoveryStop s 0) 0) 16) 0 (s.physOf 0) 16
    (s.live = true ∧ s.spare = some 16 ∧ s.roleOf (s.physOf 0) = 0 ∧ s.ecc = [] ∧ s.channels = [] ∧
      (s.core 0).status = .idle ∧ (headAt s 3 0 (fun _ => true)).any (fun r => !trustedSwap r) = true ∧
      tget (fun _ => none) s.integ.checkpoints 0 = some blankContext) ∧
    w.readBytes (checkpointArea 0) contextSize =
      contextBytes (loadTile w 0 { blankContext with array := freshPasses blankContext.array }) 0 := by
  have k : swappingIt.live = true ∧ swappingIt.spare = some 16 ∧ swappingIt.roleOf (swappingIt.physOf 0) = 0 ∧
      swappingIt.ecc = [] ∧ swappingIt.channels = [] ∧ (swappingIt.core 0).status = .idle ∧
      (headAt swappingIt 3 0 (fun _ => true)).any (fun r => !trustedSwap r) = true ∧
      tget (fun _ => none) swappingIt.integ.checkpoints 0 = some blankContext := by decide +kernel
  obtain ⟨m, h⟩ := image_exists_swap swappingIt 0 (swappingIt.physOf 0) 16
    { blankContext with array := freshPasses blankContext.array } k.2.2.2.2.1 k.2.2.2.2.2.1 (by decide +kernel)
    (by decide +kernel) (fun _ => rfl) (by decide)
  refine ⟨m, ?_⟩
  revert k h
  generalize swappingIt = r
  exact fun k h => ⟨k, h⟩

/-- A proof set of carrier 0, with its tile's data of n bytes; proofs are enabled. -/
def proven (n : Nat) (run : Option (Nat × Nat)) : State :=
  ((radio true).setFld igBase 1 1 1).onInteg fun g => { g with
    proofs := [(0, { loaded := desc [(0x14, n)], running := run, slotsSince := 255 })] }

theorem witness_ProofPatterns : (let s := proven 64 none;
      s.live = true ∧ s.flag igBase 1 = true ∧ (s.proof 0).running = none ∧ (s.proof 0).loaded ≠ [] ∧ s.ccLive 0 = true ∧
        s.ccLink 0 = false ∧ s.fld (igBase + 0xC) 23 8 ≤ (s.proof 0).slotsSince ∧ blankFor s 0 0 = true ∧
        (proofPlace s 0).isSome = true ∧ s.flag 0x4_0020 9 = false ∧ blankFor s 0 (field (s.proof 0).loaded 0x18 4) = true ∧
        proofIdle s 0 = true ∧ proofAlone s 0 0 = true) ∧
    (proven 64 none |>.setFld 0x4_0020 9 9 1).flag 0x4_0020 9 = true ∧
    proofIdle ((proven 64 none).setCore 0 { status := .run }) 0 = false ∧
    proofQuiet (proven 64 (some (0, 7))) 0 = true ∧ (proven 64 (some (0, 7))).flag 0x4_0020 9 = false ∧
    ((proven 64 (some (0, 7))).proof 0).running = some (0, 7) ∧ ((proven 64 (some (0, 7))).proof 0).repeats = [] := by
  decide +kernel

/-! The bridge port and lock-step. -/

/-- The link stands in a state of BR_STATUS and is enabled, with this chip's rank at 0; the job in slot 0 is paired and
shares tally 0. -/
def bridged (st : Nat) (s : State := up) : State :=
  ((s.setReg brBase 0x8000_0000).setFld (brBase + 4) 2 0 st).setJob 0
    { state := .running, number := 1, paired := true, image := {
      nsLen := 1, chipCount := 2, tallies := [⟨3, 0, 0, 0⟩], places := [⟨0, 0, 0, 2, 0, 0, 64, false⟩] } }

theorem witness_BridgeLinkState : (∀ st ∈ [0, 1, 3, 4], (bridged st).live = true ∧ (bridged st).flag brBase 31 = true ∧
      bridgeUp (bridged st) = false ∧ (bridged st).portDown .bridge = false ∧ (bridged st).bridge.sigQ = [] ∧
      (bridged st).bridge.txQ = [] ∧ (bridged st).channels = [] ∧
      (bridged st).flag brBase 30 = false) ∧
    (let s := (bridged 3).onBridge fun b => { b with leftUp := some 0 };
      s.bridge.leftUp.isSome = true ∧ bridgeUp s = false ∧ bridgeState s ≠ 0 ∧ s.flag brBase 30 = false ∧
        s.bridge.leftUp = some 0 ∧ s.bridge.leftUp.all (fun c => decide (s.counter.toNat < c + 1250000)) = true ∧
        0 + 1250000 ≤ { s with counter := 1250000 }.counter.toNat) ∧
    (let x : PeerTransaction := { id := 5, engine := 16, channel := 31, addr := 0, len := 4 };
      let s := ((bridged 2).onBridge fun b => { b with outstanding := [x] }).setChan 16 31
        { status := .active, q := [moving false 4] };
      s.bridge.outstanding = [x] ∧ x.drops = false ∧ x.write = false ∧ (s.chan x.engine x.channel).q = [moving false 4] ∧
        3 ∉ s.bridge.recalled ∧ 3 ∈ (s.onBridge fun b => { b with recalled := [3] }).bridge.recalled ∧
        (s.job 0).state ≠ .preempted ∧
        s.bridge.rxSeq = 0 ∧ (1 : Nat) ≠ s.bridge.rxSeq) ∧
    (bridged 1).bridge.leftUp = none ∧ isPaired (bridged 1) 0 = true ∧ isPaired (bridged 1) 3 = false ∧ bridgeState (bridged 3) = 3 ∧ bridgeUp (bridged 2) = true ∧
    (bridged 2).channels = [] ∧ (bridged 2).bridge.txQ = [] ∧
    creditsOf (bridged 2) .ctl 0 = 0 ∧ creditsOf (setCredits (bridged 2) .ctl 0 2) .ctl 0 = 2 ∧ (bridged 2).runningSlot = some 0 ∧ ((bridged 2).job 0).image.chipCount = 2 ∧
    (∀ n ∈ [14, 15], let s := (bridged 2).onBridge fun b => { b with replays := List.replicate n 0 };
      (s.bridge.replays.filter fun c => decide (s.counter.toNat < c + 1250000)).length = n) ∧
    (64 :: List.replicate 12 0).length = 13 ∧ poolOrder[12]? = some (.sig, 3) ∧ poolOrder[13]? = none ∧
    (0 + tget (fun _ => 0) (bridged 2).bridge.free (poolKey .req 0) ≠ poolSize .req) ∧
    tget (fun _ => false) ((bridged 2).onBridge fun b => { b with suspect := tset (fun _ => false) b.suspect (poolKey .req 0) true }).bridge.suspect
      (poolKey .req 0) = true := by decide +kernel

theorem witness_BridgePeer : (∀ p : Bool, ∀ w : Bool, let r : PeerRequest := ⟨7, 0, p, w, 0, if w then 0 else 64, if w then [(0, 1), (63, 2)] else []⟩;
      let s := bridged 2;
      s.live = true ∧ bridgeUp s = true ∧ s.portDown .bridge = false ∧ requestLen r = 64 ∧ withinPartner s r.slot r.addr 64 = true ∧
        s.bridge.writtenOff.contains r.slot.val = false ∧ peerStore s r.addr 64 = some 0 ∧ eccTouched s 0 64 = [] ∧
        s.bridge.txQ = [] ∧ (r.bytes.map (·.1)).Nodup ∧ (∀ i < 64, unannounced s (0 + i - commonStore 0) = false) ∧
        (flitParts (s.readBytes 0 64)).length ≤ creditsOf (setCredits s .rsp 0 112) .rsp 0) ∧
    withinPartner (bridged 2) 0 1 64 = false ∧ peerStore (bridged 2) 0x6_0000_0000 4 = none ∧
    (∃ d, (bridged 2).job 0 |>.image.tallies[0]? = some d ∧ d.kind = 3) ∧ isPaired up 0 = false ∧
    (let x : PeerTransaction := { id := 5, engine := 16, channel := 31, addr := 0 };
      let z : PeerTransaction := { x with id := 4, drops := true };
      let s := (up.onBridge fun b => { b with outstanding := [z, x] }).setChan 16 31 { status := .active, q := [moving false 4] };
      s.bridge.outstanding.find? (fun y => decide (y.id = 4)) = some z ∧ z.drops = true ∧
        s.counter.toNat < x.since + peerTimeout s ∧ x.since + peerTimeout s ≤ { s with counter := 2500000 }.counter.toNat ∧
        (s.chan x.engine x.channel).q ≠ [] ∧ s.bridge.outstanding.find? (fun y => y.engine = x.engine && y.channel = x.channel &&
          !y.drops) = some x ∧
      s.bridge.outstanding.find? (fun y => decide (y.id = 5)) = some x ∧
        s.bridge.outstanding.find? (fun y => decide (y.id = 6)) = none ∧
        (s.setFld (slideBase 16) 3 0 0).fld (slideBase 16) 3 0 = 0 ∧ (s.setFld (slideBase 16) 3 0 1).fld (slideBase 16) 3 0 ≠ 0) := by
  decide +kernel

/-- Lock-step in a state of BR_LS_STATUS, with a job of one chip. -/
def stepped (st : Nat) : State :=
  (((up.setReg (brBase + 0x10) 1).setFld (brBase + 4) 2 0 2).setFld (brBase + 0x14) 2 0 st).setJob 0
    { state := .running, number := 1, image := { chipCount := 1 } }
/-- What a peer in agreement reports. -/
def agreed : PeerLockstep := ⟨true, true, [], seedHash 0, 1, true, []⟩

theorem witness_LockstepComparisons : (stepped 1).live = true ∧ (stepped 1).runningSlot = some 0 ∧
    (stepped 1).flag (brBase + 0x10) 0 = true ∧ agreed.enabled = true ∧ agreed.running = true ∧ lsState (stepped 1) ≠ 2 ∧
    lsState (stepped 1) ≠ 3 ∧ lsCause (stepped 1) 0 { agreed with imageHash := [1] } ≠ 0 ∧ lsCause (stepped 1) 0 agreed = 0 ∧
    lsState (stepped 2) = 2 ∧ bridgeUp (stepped 2) = true ∧ (stepped 2).portDown .bridge = false ∧
    (stepped 2).bridge.txQ = [] ∧ (stepped 2).bridge.sigQ = [] ∧ (stepped 2).bridge.rxSeq = 0 ∧
    lsActive (stepped 1) 0 = false ∧ lsActive (stepped 2) 15 = true ∧ lsRecords (stepped 2) 15 = [] ∧
    (let x : LockstepRecord := ⟨0, 5, [], 0, 0⟩;
      let s := (stepped 2).onBridge fun b => { b with records := [(15, [x])] };
      (lsRecords s 15).find? (fun y => decide (y.seq = 0)) = some x ∧ x.sig = 5 ∧ x.sig ≠ 6 ∧
        s.fld (brBase + 0x10) 2 1 ≠ 1) := by
  refine ⟨by decide, by decide, by decide, by decide, by decide, by decide, by decide, by decide, ?_, by decide, by decide, by decide,
    by decide⟩
  unfold lsCause
  rw [if_neg (by decide), if_neg (by decide), if_neg (fun h => h rfl), if_neg (by decide), if_neg (by decide)]

/-! Power, temperature and resets. -/

theorem witness_PowerManagement : up.live = true ∧
    (let s := (up.setFld 0x4_0020 3 3 1); exhausted s = true ∧ exhausted (s.setFld 0x4_0020 3 3 0) = false) ∧
    supplyDemand (up.setFld 0x4_0020 7 7 1) = true ∧ limiterStep (up.setFld 0x4_0024 3 0 2) = 2 ∧
    limiterStep (up.setFld 0x4_0024 3 0 8) = 8 ∧ mayFall { up.setFld 0x4_0024 3 0 2 with counter := 12500000 } = true ∧
    mayFall up = false ∧ 1000 * min 640 ((up.setFld 0x4_0010 9 0 640).fld 0x4_0010 9 0) < 640001 ∧
    ¬ (1000 * min 640 ((up.setFld 0x4_0010 9 0 640).fld 0x4_0010 9 0) < 640000) := by decide +kernel

theorem witness_SupplyAndHeat : resetMv 0 ≤ warnMv 0 - 20 ∧ warnMv 0x0F - 20 ≥ resetMv 0x0F ∧ warnMv 0x78 - 20 < resetMv 0x78 ∧
    [698, 698, 698, 0].length = 4 ∧ (([700, 700, 700, 0].getD 3 0 : Nat) : Int) < resetMv (up.reg 0x4_000C) ∧
    ({ up.power with vddLow := [false, false, false, true] } : Power).vddLow.getD 3 false = true ∧
    (∀ i < 4, ¬ (([700, 700, 700, 700].getD i 0 : Nat) : Int) < resetMv (up.reg 0x4_000C)) ∧
    ((lowest [690, 700, 700, 700] : Nat) : Int) < warnMv (up.reg 0x4_000C) ∧
    warnMv (up.reg 0x4_000C) ≤ ((lowest [720, 720, 720, 720] : Nat) : Int) ∧
    hosted.live = true ∧ hosted.host.inReset = false ∧ (List.replicate 24 (105 : Int)).length = 24 ∧
    105 ≤ hottest (List.replicate 24 105) ∧ hottest (List.replicate 24 104) < 105 ∧ (105 : BitVec 8).toInt = 105 ∧
    (104 : BitVec 8).toInt < 105 ∧ ({ up.power with hotJunction := true, hotStack := true } : Power).hotStack = true := by
  decide +kernel

theorem witness_ResetsKeep : hosted.live = true ∧ hosted.power.tripped = false ∧
    ({ hosted with power := { hosted.power with tripped := true } }).power.tripped = true ∧ hosted.integ.resetWanted = false ∧
    (hosted.onInteg fun g => { g with resetWanted := true }).integ.resetWanted = true ∧ HostUp hosted := by
  simp only [HostUp]; decide

theorem witness_LeavingReset : State.reset.host.inReset = true ∧ State.reset.power.tripped = false ∧
    (State.reset.onPower fun p => { p with tripped := true }).power.tripped = true ∧
    (let s := State.reset.onHost fun h => { h with inReset := false };
      s.host.inReset = false ∧ s.locked = false ∧ s.dbg.frozen = false) ∧
    up.live = true ∧ (SerdesPort.pcie ≠ .bridge) ∧ hostReaches hosted = true ∧ hosted.dbg.frozen = false ∧
    bootStage hosted = 0 ∧ hostReaches frozen = true ∧ frozen.dbg.frozen = true ∧ bootStage (hosted.setReg 0x1_0010 5) ≠ 0 := by
  decide

/-! Boot, security and the debug unit. -/

theorem witness_BootSteps : (∀ n ∈ [0, 1, 2, 3, 4, 5, 6], (up.setReg 0x1_0010 (BitVec.ofNat 32 n)).live = true ∧
      bootStage (up.setReg 0x1_0010 (BitVec.ofNat 32 n)) = n) ∧ up.ecc = [] ∧
    (∀ ok : Bool, let s := (up.setReg 0x1_0010 3).onSec fun x => { x with copied := some ok };
      bootStage s = 3 ∧ s.sec.copied = some ok) ∧
    fwSize (fwBytes (up.setReg 0x1_0010 6) stagingAt) ≠ (1 : Word).toNat := by decide +kernel

theorem witness_SecurityCommands : ∀ code ∈ [0x40, 0x41, 0x42, 0x50], let c := entry code [(0x29, 16)]
    let s := commanded up c
    s.live = true ∧ s.ecc = [] ∧ s.sec.handover = none ∧ s.sub.commands = [c] ∧ entryCode c = code ∧
    field c 0x28 8 % 4096 = 0 ∧ inUserHbm (field c 0x28 8) 2560 = true ∧ field (entry code [(0x28, 1)]) 0x28 8 % 4096 ≠ 0 ∧
    field c 0x10 4 ≠ 3904 := by decide +kernel

theorem witness_FirmwareCommands : (∀ code ∈ [0x48, 0x49, 0x4A, 0x4B], let c := entry code [];
      let s := commanded up c;
      s.live = true ∧ s.ecc = [] ∧ s.sec.handover = none ∧ s.sub.commands = [c] ∧ entryCode c = code) ∧
    inUserHbm (field (entry 0x48 []) 8 8) (field (entry 0x48 []) 0x10 4) = true ∧
    inUserHbm (field (entry 0x48 [(0xF, 1)]) 8 8) (field (entry 0x48 []) 0x10 4) = false ∧ up.sec.updated = none ∧
    up.sec.pendingBit = false ∧ ({ up.sec with pendingBit := true } : Security).pendingBit = true ∧
    (let y : FwImage := { stateVer := 1, stateMin := 1 }; ¬ (y.stateMin ≤ up.sec.active.stateVer)) ∧
    ({} : FwImage).stateMin ≤ up.sec.active.stateVer ∧ up.sec.active.stateVer ≤ ({} : FwImage).stateVer ∧
    (up.onSec fun x => { x with handover := some 7 }).sec.handover = some 7 ∧
    (up.setReg 0x0010_0020 2).flag 0x0010_0020 1 = true ∧ (up.setReg 0x0010_0020 0).flag 0x0010_0020 1 = false := by
  decide +kernel

theorem witness_FreezeAndHalt : hosted.locked = true ∧ hosted.host.inReset = false ∧ frozen.dbg.frozen = true ∧
    frozen.portDown .bridge = false ∧ hosted.flag dbgBase 1 = true ∧ (let s := hosted.setCore 15 { status := .held, heldBy := some 0 };
      let s := s.setReg (dbgBase + 0xC) 0x8000;
      bit (0 : Word) 15 = false ∧ bit (s.reg (dbgBase + 0xC)) 15 = true ∧ (s.core 15).status = .held ∧
        (s.core 15).heldBy = some 0 ∧ s.live = true) := by decide

theorem witness_ReadoutAndTap : HostUp hosted ∧ frozen.dbg.frozen = true ∧ hostReaches frozen = true ∧
    (∀ sp ∈ [2, 3, 4], readoutStore sp 0 ≠ none) ∧ readoutStore 3 0x5FF_FFFC = some (commonStore 0x5FF_FFFC) ∧
    readoutStore 3 0x600_0000 = none ∧ (hosted.setReg (dbgBase + 0x20) 6).fld (dbgBase + 0x20) 2 0 = 6 ∧
    (4 : Word).toNat % 4 = 0 ∧ (4 : Word) ≠ 0 ∧ (frozen.setReg (dbgBase + 0x20) 3).fld (dbgBase + 0x20) 2 0 = 3 ∧
    (12 : BitVec 16) ≠ 11 := by
  simp only [HostUp]; decide
/-- A frame of space 3 of which n bytes have left. -/
def framed (n age : Nat) : State :=
  frozen.onDbg fun d => { d with stream := some ⟨3, 0, 4, List.replicate n 0, age⟩ }
theorem witness_ReadoutAndTap_stream : (∀ n ∈ [0, 12, 16, 20], ∀ age ∈ [14, 15], (framed n age).dbg.frozen = true ∧
      (framed n age).pending = [] ∧ (framed n age).portDown .bridge = false ∧ (framed n age).integ.deferred = []) ∧
    frozen.dbg.stream = none ∧ (framed 0 0).dbg.stream ≠ none ∧ readoutStore 3 ((0 + (16 - 16)) / 4 * 4) = some (commonStore 0) := by
  decide

theorem witness_ResetAndTripHold : InReset State.reset ∧ State.reset.pending.head? ≠ some (.resetRelease true) ∧
    (let s := { State.reset with pending := [.resetRelease true], power := { State.reset.power with tripped := true } };
      InReset s ∧ s.power.tripped = true ∧ s.pending.head? ≠ some .powerOnReset) := by
  simp only [InReset]; decide

theorem witness_FrozenHolds : frozen.dbg.frozen = true ∧ wakes (.slotTick 0 0) = false ∧
    ∃ t, step { frozen with pending := [.slotTick 0 0] } = .next t := ⟨by decide, rfl, ⟨_, rfl⟩⟩

/-! ### Single commands on those states -/

/-- A pass of 3 × 4 with zero points 1 and 2 leaves (3 − 1) × (4 − 2) at its destination (R107, R115). -/
theorem test_pass : (match exec (.passComplete 0 0 .none)
      ((((flight false (desc [(1, 0x10), (9, 0x11), (0x11, 0x20), (0x18, 1), (0x1C, 1), (0x1E, 2), (0x23, 1), (0x24, 1)])).writeBytes
        (physStore 0 0x1000) [3]).writeBytes (physStore 0 0x1100) [4])) with
    | .next t => t.byte (physStore 0 0x2000)
    | _ => 0) = 4 := by decide +kernel
/-- BSET writes its broadcast register, and ANY of an empty mask posts 0 (Tables 6.4, 6.5). -/
theorem test_rod_bset : (match exec (.rodBset ⟨0, false⟩) (rodReady (rodWord 0x05 0 (3 * 2 ^ 49 + 0xDEAD_BEEF))) with
    | .next t => bcastReg (t.rod 0) 3
    | _ => 0) = 0xDEAD_BEEF := by decide +kernel
theorem test_rod_any : (match exec (.rodAny ⟨0, false⟩) (rodReady (rodWord 0x26 3 0)) with
    | .next t => (t.core 0).sumQ
    | _ => []) = [0] := by decide +kernel
/-- A COPY of one byte from HBM to HBM. -/
theorem test_copy : (match exec (.slideCopyComplete 0 0) ((queued [] true [moving false 1]).setByte 0 0xA5) with
    | .next t => (t.byte 0x1000, (t.tally 1).count, (t.chan 0 0).status)
    | _ => (0, 0, .idle)) = (0xA5, 1, .idle) := by decide +kernel
/-- A branch issues two delay slots before its target (R86). -/
theorem test_branch : (match exec (.dcB 0 ⟨true, false, 0, 4⟩) (running {}) with
    | .next t => ((t.core 0).pc, (t.core 0).delay)
    | _ => (0, none)) = (4, some ⟨some 16, 2⟩) := by decide +kernel
/-- The first error of a log stands in entry 0 with its code, severity and unit (Table 13.2). -/
theorem test_log : (match exec (.registerWrite .pcie 0x70_0000 0xFFFF_FFFE) (withJob hosted .running) with
    | .next t => (t.reg 0x1000, t.reg 0x2008)
    | _ => (0, 0)) = (1, 0x70_0000) := by decide +kernel
/-- JOB_STOP ends the running job. -/
theorem test_stop : (match exec .jobStop (commanded (withJob up .running) (entry 0x12 [(8, 1)])) with
    | .next t => (t.job 0).state
    | _ => .empty) = .ended := by decide +kernel
/-- A slot tick of base 0 at numerology 0 advances the carriers of numerology 0 and above. -/
theorem test_tick : (match exec (.slotTick 0 0) { radio true with counter := 1250000 } with
    | .next t => t.ccSlot 0
    | _ => 0) = 1 := by decide +kernel

/-- Table 18.6: the balls of each type. -/
theorem test_ball_counts :
    let all := (List.range 55).flatMap fun i => (List.range 55).map fun j => ballType (i + 1) (j + 1);
    let n (p : BallType → Bool) : Nat := all.countP p;
    [n (· == .vdd), n (· == .vss), n (· == .vddaSd), n (· == .vddhSd), n (· == .vddHbm), n (· == .vddqHbm), n (· == .vppHbm),
      n (· == .vddio), n (· == .rsvd), all.length] = [722, 1984, 30, 30, 76, 38, 8, 6, 8, 3025] := by decide +kernel

/-- The examples of identifying balls. -/
theorem test_ball_examples : ballName 2 29 = "B29" ∧ ballType 2 29 = .pair (.fhTx 1 2) true ∧ ballName 25 5 = "AF5" ∧
    ballType 25 5 = .pair (.pcieRx 5) false ∧ ballType 25 21 = .vdd ∧ ballType 25 20 = .vss ∧ ballType 14 50 = .vddHbm ∧
    ballName 7 33 = "G33" ∧ ballType 7 33 = .vddhSd ∧ ballName 50 12 = "BN12" ∧ ballType 50 12 = .vss := by decide +kernel

end Sys2Proof.Tests
end

/-! PROOFS. A reserved address (R34): why no COMMIT register stands at one, what a read returns there, and that neither
access changes anything a register, the log or the host could show. -/

namespace Sys2Proof.Machine

/-! ### Where the blocks begin (R31, Tables 1.3 and 1.4) -/

/-- The BAR0 offset at which a block begins; 0 for the gaps between blocks. -/
def blockBase : Block → Nat
  | .global | .reserved => 0
  | .tally => 0x0008_0000
  | .common => cbBase
  | .ledger => 0x0010_0000
  | .time => 0x0020_0000
  | .fronthaul => 0x0030_0000
  | .bridge => brBase
  | .hbm => hbmBase
  | .central e => 0x0060_0000 + e * 0x4_0000
  | .integrity => igBase
  | .carrier c => carrierBase c
  | .carrierAll => 0x00E0_0000
  | .carrierGroup g => 0x00E2_0000 + g * 0x2_0000
  | .tile t b => tileBlockBase t b
  | .tileAll => 0x0200_0000
  | .tileGroup g => 0x0210_0000 + g * 0x10_0000
  | .phys p => physBase p
  | .debug => dbgBase

/-- A block of a tile window begins at or after the window, and no later than the offsets that Table 1.4 gives it. -/
theorem tileBlockBase_bounds {t w : Nat} {b : TileBlock} (ht : t < 16) (h : tileBlockOf w = some b) :
    tileBase t ≤ tileBlockBase t b ∧ tileBlockBase t b ≤ tileBase t + w := by
  unfold tileBlockOf at h
  split_ifs at h <;> cases h <;>
    simp only [tileBlockBase, baBase, rodBase, dcBase, slideBase, qsBase, if_pos ht] <;> omega

/-- A block and an offset in it that together give a BAR0 offset, or a gap between blocks. -/
def Locates (o : Nat) (p : Block × Nat) : Prop := p.1 = .reserved ∨ blockBase p.1 + p.2 = o

/-- An offset in a tile window is located by its tile and the block of Table 1.4. -/
theorem locates_tile {o t w : Nat} {b : TileBlock} (ht : t < 16) (ho : o = tileBase t + w)
    (hb : tileBlockOf w = some b) : Locates o (.tile t b, w - (tileBlockBase t b - tileBase t)) := by
  obtain ⟨hlo, hhi⟩ := tileBlockBase_bounds ht hb
  exact .inr (by simp only [blockBase]; omega)

/-- What `blockOf` answers locates the offset it was asked for. -/
theorem blockOf_locates (o : Nat) : Locates o (blockOf o) := by
  unfold blockOf
  repeat' with_reducible refine iteInduction (motive := Locates o) (fun _ => ?_) fun _ => ?_
  -- The sixteenth range is that of the tile windows, which Table 1.4 divides further.
  pick_goal 16
  · dsimp only
    split
    next hb => exact locates_tile (by omega) (by simp only [tileBase]; omega) hb
    next => exact .inl rfl
  all_goals
    simp only [Locates, blockBase, cbBase, brBase, hbmBase, igBase, carrierBase, physBase, dbgBase, reduceCtorEq, true_or,
      false_or] <;> omega

/-- The offset that `blockOf` gives counts from the base of its block. -/
theorem eq_blockBase_add {o : Nat} {b : Block} {x : Nat} (h : blockOf o = (b, x)) (hb : b ≠ .reserved) :
    o = blockBase b + x := by
  have k := blockOf_locates o
  rw [h] at k
  exact (k.resolve_left hb).symm

/-! ### Offsets that the rules name are registers -/

/-- An offset has a register where the table of its block lists one; the tallies' table repeats. -/
theorem regAt_isSome {o : Nat} {b : Block} {x : Nat} (h : blockOf o = (b, x)) (hb : b ≠ .tally)
    (hr : ((blockRegs b).find? (·.has x)).isSome) : (regAt o).isSome := by
  simpa [regAt, h, hb] using hr

/-- A COMMIT register is listed in the table of its block (R13). -/
theorem regAt_isSome_of_commitOf_self {o : Nat} (h : commitOf o = some o) : (regAt o).isSome := by
  unfold commitOf at h
  split at h
  case h_10 => cases h
  case h_1 x hb =>
    have e := eq_blockBase_add hb (by simp)
    have hx : x = 0x4_00FC := by
      split_ifs at h
      simp only [blockBase, Option.some.injEq] at h e
      omega
    exact regAt_isSome hb (by simp) (hx ▸ rfl)
  all_goals
    rename_i x hb
    have e := eq_blockBase_add hb (by simp)
    have hx : x = 0xFC := by
      simp only [blockBase, tileBlockBase, hbmBase, igBase, Option.some.injEq] at h e
      omega
    exact regAt_isSome hb (by simp) (hx ▸ rfl)

/-- The registers TBn_TIME_LO are listed (R341). -/
theorem regAt_isSome_of_timeLoAt {o n : Nat} (h : timeLoAt o = some n) : (regAt o).isSome := by
  obtain ⟨hn, ho⟩ : n < 4 ∧ o = tbBase n + 0x18 := by
    simpa [timeLoAt, and_comm] using And.intro (List.find?_some h) (List.mem_of_find?_eq_some h)
  subst ho
  interval_cases n <;> rfl

/-! ### What a read of a reserved address returns and does -/

section
variable {o : Nat} (h : regAt o = none)
include h

theorem fieldsAt_reserved : fieldsAt o = [] := by simp [fieldsAt, h]

/-- A reserved address shows no bit of any unit (R34). -/
theorem regView_reserved (s : State) : regView s o = 0 := by
  have hc : commitOf o ≠ some o := fun hc => by simpa [h] using regAt_isSome_of_commitOf_self hc
  simp [regView, hc, readable, fieldsAt_reserved h, fldMask]

theorem clearRc_reserved (s : State) : clearRc s o = s := by
  have hv : o ≠ 0x4_003C := by rintro rfl; exact absurd h (by decide)
  have ht : o ≠ 0x4_0180 := by rintro rfl; exact absurd h (by decide)
  simp [clearRc, fieldsAt_reserved h, fldMask, hv, ht]

/-- A read of a reserved address latches and clears nothing. -/
theorem readEffect_reserved (s : State) : readEffect s o = s := by
  have ht : timeLoAt o = none := Option.eq_none_iff_forall_ne_some.2 fun n hn => by
    simpa [h] using regAt_isSome_of_timeLoAt hn
  unfold readEffect
  rw [ht]
  cases latchedBy s o <;> simp [h, clearRc_reserved h]

/-- The only trace of a read of a reserved address is the free value that every read uses up. -/
theorem readReg_reserved (s : State) : readReg s o = (0, s.drawFree) := by
  rw [readReg, regView_reserved h, readEffect_reserved h]

/-- Through BAR0 as well: DBG_DATA, whose read does more, is a register. -/
theorem portRead_reserved {s : State} (hw : windowOf s o = none) : portRead s o = (0, s.drawFree) := by
  unfold portRead
  rw [hw]
  dsimp only
  split
  case h_1 x hb =>
    have ho : o = dbgBase + x := eq_blockBase_add hb (by simp)
    have hx : x ≠ 0x2C := by
      rintro rfl
      exact absurd h (by rw [ho]; decide)
    rw [debugRead, if_neg hx, ← ho, readReg_reserved h]
  case h_2 => exact readReg_reserved h s

/-- Whoever writes it, a reserved address takes nothing (R34). -/
theorem regWrite_reserved (s : State) (src : Writer) (v : Word) : regWrite s src o v = s := by
  simp [regWrite, h]

end

/-! ### One register at a time, of a host that reaches the device -/

theorem exec_registerWrite_aligned {o : BitVec 26} (h : o.toNat % 4 = 0) (s : State) (src : Writer) (v : Word) :
    exec (.registerWrite src o v) s = .next (writeBy s src o.toNat v) := if_pos h

theorem exec_registerRead_aligned {o : BitVec 26} (h : o.toNat % 4 = 0) (s : State) :
    exec (.registerRead o) s = .next (hostRead s o.toNat) := if_pos h

theorem windowWrite_unicast {s : State} {o : Nat} (h : Unicast s o) (src : Writer) (v : Word) :
    windowWrite s src o v = regWrite s src o v := by
  obtain ⟨hw, hh⟩ := h
  simp [windowWrite, heldWrite, hw, hh]

theorem heldRead_unicast {s : State} {o : Nat} (h : Unicast s o) :
    heldRead s o = (portRead s o).2.replyWord (portRead s o).1 := by
  obtain ⟨hw, hh⟩ := h
  simp [heldRead, readWaits, hw, hh]

theorem hostRead_up {s : State} (h : HostUp s) (o : Nat) : hostRead s o = heldRead s o := by
  obtain ⟨hl, hr⟩ := h
  obtain ⟨hf, hk⟩ := (live_iff s).1 hl
  simp [hostRead, hr, hf, hk]

theorem hostWrite_up {s : State} (h : HostUp s) (o : Nat) (v : Word) : hostWrite s o v = windowWrite s .pcie o v := by
  obtain ⟨hl, hr⟩ := h
  obtain ⟨hf, hk⟩ := (live_iff s).1 hl
  simp [hostWrite, hr, hf, hk]

/-- A write without effect on the registers has none by any of the three writers' paths (R489): each either performs it
or, like the SMBus target outside its part of BAR0, drops it. -/
theorem writeBy_eq_self {s : State} {o : Nat} {v : Word} (h : HostUp s) (src : Writer)
    (hw : windowWrite s src o v = s) : writeBy s src o v = s := by
  cases src with
  | pcie => rw [writeBy, hostWrite_up h, hw]
  | smbus => simp [writeBy, smbusWrite, hw]
  | ledger => rw [writeBy, State.act_of_live _ _ h.1, hw]

/-- Settles O4: the write comes to `regWrite` and stops there, the read to `readReg`, for each finds no register. -/
theorem reservedAddress : Obligations.ReservedAddress := by
  unfold Obligations.ReservedAddress
  intro s src o v hup hal hres huni
  have hwrite : writeBy s src o.toNat v = s :=
    writeBy_eq_self hup src (by rw [windowWrite_unicast huni, regWrite_reserved hres])
  have hread : hostRead s o.toNat = s.drawFree.replyWord 0 := by
    rw [hostRead_up hup, heldRead_unicast huni, portRead_reserved hres huni.1]
  refine ⟨?_, s.drawFree.replyWord 0, ?_, rfl, rfl, rfl, rfl⟩
  · rw [exec_registerWrite_aligned hal, hwrite]
  · rw [exec_registerRead_aligned hal, hread]

end Sys2Proof.Machine

/-! PROOFS. A write of TBn_RATE (R338): the formula of R336 at the anchor, what `setRate` writes and what it leaves, and
so a time that no rate write moves. -/

namespace Sys2Proof.Machine

/-! ### The formula of R336 -/

theorem timeAt_lt (base : BitVec 80) (anchor : Nat) (rate : Int) (c : Nat) : timeAt base anchor rate c < 2 ^ 80 := by
  unfold timeAt
  omega

/-- At its anchor a base shows its BASE, whatever its rate. -/
theorem timeAt_anchor (base : BitVec 80) (anchor : Nat) (rate : Int) : timeAt base anchor rate anchor = base.toNat := by
  have hlt : base.toNat < 2 ^ 80 := base.isLt
  simp only [timeAt, Int.sub_self, Int.zero_mul, Int.zero_ediv, Int.add_zero]
  omega

theorem State.timeOf_lt (s : State) (n : Nat) : s.timeOf n < 2 ^ 80 := timeAt_lt _ _ _ _

theorem State.timeOf_of_anchored {s : State} {n : Nat} (h : (s.tbase n).anchor = s.counter) :
    s.timeOf n = (s.tbase n).base.toNat := by
  rw [State.timeOf, State.timeOfAt, h, timeAt_anchor]

/-- The time of a base depends on its record, its rate and the counter alone. -/
theorem State.timeOf_congr {s t : State} {n : Nat} (hb : t.tbase n = s.tbase n) (hr : t.rate n = s.rate n)
    (hc : t.counter = s.counter) : t.timeOf n = s.timeOf n := by
  simp only [State.timeOf, State.timeOfAt, hb, hr, hc]

theorem State.rate_setReg_ne {n m : Nat} (h : m ≠ n) (s : State) (w : Word) :
    (s.setReg (tbBase n + 0xC) w).rate m = s.rate m := by
  have ho : tbBase m + 0xC ≠ tbBase n + 0xC := by
    simp only [tbBase]
    omega
  rw [State.rate, State.reg_setReg_ne _ _ _ _ ho, ← State.rate]

/-! ### What a new rate writes and leaves (R338) -/

section
variable (s : State) (n : Nat) (w : Word)

theorem tbase_setRate_base : ((setRate s n w).tbase n).base = BitVec.ofNat 80 (s.timeOf n) := by simp [setRate]

theorem tbase_setRate_anchor : ((setRate s n w).tbase n).anchor = s.counter := by simp [setRate, keepRecord]

theorem reg_setRate : (setRate s n w).reg (tbBase n + 0xC) = w := by simp [setRate]

theorem counter_setRate : (setRate s n w).counter = s.counter := rfl

theorem setRate_frame : setRate s n w = { s with regs := (setRate s n w).regs, bases := (setRate s n w).bases } := by
  unfold setRate keepRecord State.setReg State.setTbase
  rfl

variable {n} {m : Nat} (h : m ≠ n)
include h

theorem tbase_setRate_ne : (setRate s n w).tbase m = s.tbase m := by
  simp [setRate, keepRecord, State.tbase_setTbase_ne _ _ _ _ h]

theorem rate_setRate_ne : (setRate s n w).rate m = s.rate m := by
  rw [setRate, State.rate_setReg_ne h]
  rfl

/-- No other base moves. -/
theorem timeOf_setRate_ne : (setRate s n w).timeOf m = s.timeOf m :=
  State.timeOf_congr (tbase_setRate_ne s w h) (rate_setRate_ne s w h) (counter_setRate s n w)

end

/-- The base itself does not jump: at its new anchor it shows its new BASE, the time taken under the old rate, which
fits the 80 bits. -/
theorem timeOf_setRate (s : State) (n : Nat) (w : Word) : (setRate s n w).timeOf n = s.timeOf n :=
  calc (setRate s n w).timeOf n
    _ = ((setRate s n w).tbase n).base.toNat := State.timeOf_of_anchored (tbase_setRate_anchor s n w)
    _ = (BitVec.ofNat 80 (s.timeOf n)).toNat := by rw [tbase_setRate_base]
    _ = s.timeOf n := Nat.mod_eq_of_lt (s.timeOf_lt n)

/-! ### Who may write it (R343) -/

theorem exec_tbRateWrite_of_live {s : State} (h : s.live = true) (src : Writer) (n : BaseNo) (v : Word) :
    exec (.tbRateWrite src n v) s = .next (rateWrite s src n v) :=
  congrArg Host.Outcome.next (State.written_of_live s src _ h)

theorem rateWrite_of_may {s : State} {src : Writer} {n : Nat} (h : mayWriteTime s src n = true) (v : Word) :
    rateWrite s src n v = setRate s n v := if_pos h

theorem rateWrite_of_not_may {s : State} {src : Writer} {n : Nat} (h : mayWriteTime s src n = false) (v : Word) :
    rateWrite s src n v = s := if_neg (by simp [h])

/-- Settles O13: a permitted write is `setRate`, which re-anchors the base where it stands; any other changes nothing. -/
theorem rateWriteContinuous : Obligations.RateWriteContinuous := by
  unfold Obligations.RateWriteContinuous
  intro s src n v hl
  refine ⟨fun hmay => ⟨setRate s n v, ?_, tbase_setRate_base s n v, tbase_setRate_anchor s n v, reg_setRate s n v,
    timeOf_setRate s n v, fun m hm => timeOf_setRate_ne s v (Fin.val_ne_of_ne hm), setRate_frame s n v⟩, fun hno => ?_⟩
  · rw [exec_tbRateWrite_of_live hl, rateWrite_of_may hmay]
  · rw [exec_tbRateWrite_of_live hl, rateWrite_of_not_may hno]

end Sys2Proof.Machine
